-- ==== Sys2Proof/Word.lean ====
section
/-! DEFINITION. The plain types of the model: bytes, statistics, the numbers that name auditoriums, tracks, titles and streams, and fixed-size tables. -/

namespace Sys2Proof

/-- A byte of a frame or of a store. -/
abbrev Byte := BitVec 8

/-- A statistic: 16 bits (00_scope, Statistics). -/
abbrev Stat := BitVec 16

/-- A set of auditoriums, bit a for auditorium a (R214, SENSE details). -/
abbrev AudSet := BitVec 16

/-- An auditorium number, 0 to 15. -/
abbrev Aud := Fin 16

/-- A track number, 0 to 7. -/
abbrev TrackNo := Fin 8

/-- A title record, counted from 0: handle h is `h - 1` here (R1). -/
abbrev TitleNo := Fin 24

/-- A stream entry number, 0 to 23 (R162). -/
abbrev StreamNo := Fin 24

/-- A loading port: F0 to F3 are 0 to 3, M is 4 (R25). -/
abbrev LoadPort := Fin 5

/-- A clip number, 0 to 1,023 (R183). -/
abbrev ClipNo := Fin 1024

/-- The table `v` with entry `i` replaced by `x`. -/
def setAt {α : Type} {n : Nat} (v : Vector α n) (i : Fin n) (x : α) : Vector α n :=
  v.set i.val x i.isLt

/-- The table `v` with entry `i` changed by `f`. -/
def modAt {α : Type} {n : Nat} (v : Vector α n) (i : Fin n) (f : α → α) : Vector α n :=
  setAt v i (f v[i])

/-- A table of `n` equal entries. -/
abbrev fillTable {α : Type} (n : Nat) (x : α) : Vector α n := Vector.replicate n x

/-- A table whose entries are those of `v` changed by `f`. -/
def mapTable {α β : Type} {n : Nat} (f : α → β) (v : Vector α n) : Vector β n :=
  Vector.ofFn fun i => f v[i]

end Sys2Proof
end

