-- ==== Sys2Proof/Syntax.lean ====
section
/-! DEFINITION. The commands: one constructor of Instr for each row of spec/opcode_table.json. A request carries the
frame's port, tag and body bytes (R203, R214); an event carries what it concerns. -/

namespace Sys2Proof

/-- The seven serial ports (R202). -/
inductive Port
  | feed (n : Fin 4)
  | air (n : Fin 2)
  | m
  deriving DecidableEq, Repr

/-- A request frame whose check matches, less its kind, which the command's constructor gives (R203). -/
structure Req where
  port : Port
  tag : Byte
  body : List Byte
  deriving DecidableEq, Repr

/-- A command of the block. -/
inductive Instr
  -- resets (R212, R213, R199)
  | powerOn
  | reset (r : Req)
  | resetTakesEffect
  -- time (R67, R80, R116, R133, R43)
  | houseTick
  | silenceBoundary (aud : Aud)
  | houseSecondBoundary
  | keepAliveExpiry
  | loadIdleTimeout (title : TitleNo)
  -- titles (chapters 1 and 2)
  | loadOpen (r : Req)
  | loadData (r : Req)
  | loadFinish (r : Req)
  | finishingCompletion (title : TitleNo)
  | clipListOverflow (title : TitleNo)
  | loadAbort (r : Req)
  | unload (r : Req)
  -- shows and clocks (chapters 3 and 4)
  | arm (r : Req)
  | run (r : Req)
  | hold (r : Req)
  | darken (r : Req)
  | position (r : Req)
  | assignFeed (r : Req)
  | assignAir (r : Req)
  -- receivers and payloads (chapters 6 and 7)
  | report (r : Req)
  | pull (r : Req)
  -- conditions and settings (chapter 10)
  | sense (r : Req)
  | setLoadIdleTime (r : Req)
  | setKeepAliveTime (r : Req)
  | setUrgencyMargin (r : Req)
  | setJumpThreshold (r : Req)
  | setGainExponent (r : Req)
  | setSilenceInterval (r : Req)
  | setLead (r : Req)
  | setCapacity (r : Req)
  | setRepeatPeriod (r : Req)
  | setWindow (r : Req)
  | setBitRate (r : Req)
  | bitRateChangeApplies (port : Port)
  | stats (r : Req)
  | tableRead (r : Req)
  -- position cache (chapter 5)
  | cacheProbe (r : Req)
  | cacheFlush (r : Req)
  -- clip store (chapters 8 and 9)
  | clipDefine (r : Req)
  | clipDelete (r : Req)
  | clipWriteEnable (r : Req)
  | clipProgram (r : Req)
  | clipErase (r : Req)
  | clipVerify (r : Req)
  | clipProtect (r : Req)
  | flashArbiterChoice
  | fetchCompletion
  | programCompletion
  | eraseCompletion
  | verifyTurnCompletion
  -- frames (R204, R205)
  | frameCheckFail (port : Port)
  | frameLengthDiscard (port : Port)
  | frameGapTimeout (port : Port)
  | breakCondition (port : Port)
  | owedByteDiscard (port : Port)
  | unknownRequest (port : Port) (kind : Byte) (tag : Byte)
  | responseSent (port : Port)
  | syncByte (port : Port)
  deriving DecidableEq, Repr

end Sys2Proof
end

