-- ==== Sys2Proof/Decode.lean ====
section
/-! DEFINITION. Commands from words of bits. No row of spec/opcode_table.json gives bits: the commands are request frames and events. -/

namespace Sys2Proof

/-- The command a word of `nbits` bits spells by the table's bits. The table gives no row any bits, so no word spells
a command. -/
def decodeTableWord (_nbits _w : Nat) : Option Instr := none

end Sys2Proof
end

