-- ==== Sys2Proof/Config.lean ====
section
/-! DEFINITION. Limits the spec fixes for the part, and the values it leaves open (constants with no body). -/

namespace Sys2Proof.Config

/-- The greatest show time, 2^24 - 1 ticks (00_scope, Time). -/
abbrev maxShow : Nat := 16777215

/-- The greatest clock position, 2^40 - 1 sub-ticks (R68). -/
abbrev maxPos : Nat := 1099511627775

/-- Sub-ticks in a tick (00_scope, Time). -/
abbrev subTicks : Nat := 65536

/-- The trim limit of R68 and R77. -/
abbrev maxTrim : Int := 655

/-- Slots of the cue store (R16). -/
abbrev slots : Nat := 131072

/-- Bytes in a cue store slot. -/
abbrev slotBytes : Nat := 16

/-- Bytes in a flash page: 512 data, 2 check, 14 unused (R181). -/
abbrev pageBytes : Nat := 528

/-- Pages in a sector (R181). -/
abbrev sectorPages : Nat := 16

/-- Sectors of the clip store (R181). -/
abbrev sectors : Nat := 4096

/-- Ticks a description block plays for (00_scope, Time). -/
abbrev blockTicks : Nat := 96

/-- Ring positions of a stream (R162). -/
abbrev ringSize : Nat := 8

/-- Records the fetch pool holds (R171). -/
abbrev poolSize : Nat := 32

/-- Most clips on a title's clip list (R14). -/
abbrev clipListMax : Nat := 256

/-- Ticks in a house second (R67). -/
abbrev houseSecond : Nat := 1200

/-- Show ticks in a bucket of the position cache (R98). -/
abbrev bucketTicks : Nat := 2048

/-- Entries between two anchors (R13). -/
abbrev anchorSpan : Nat := 32

/-- Most body bytes of a request (R203). -/
abbrev maxRequestBody : Nat := 1024

/-- FREE VALUE (log 8). What TABLE.READ shows in the entry index field of a stream whose next fetch position is
ended; the spec gives the field no value then. The argument is the free-value counter. -/
opaque endedEntryIndex : Nat → BitVec 16

/-- FREE VALUE (log 8). What TABLE.READ shows in the block field of a stream whose next fetch position is ended. -/
opaque endedBlock : Nat → BitVec 16

end Sys2Proof.Config
end

