-- ==== Sys2Proof/Machine/State.lean ====
section
/-! DEFINITION. The state of the part, block by block as the block diagram of 00_scope names them, and its value after power-on. -/

namespace Sys2Proof.Machine

/-! ### Link Interface (chapter 10) -/

/-- Response codes, in the order of R206. -/
inductive Code
  | ok | accepted | alreadyLoaded | linkError | unknownRequest | badLength | notOwner | wrongState
  | busy | tableFull | noSpace | noTitle | reelUnknown | range | order | overflow
  | inUse | overlap | isProtected | notEnabled | storageBusy | unknownReceiver
  deriving DecidableEq, Repr

/-- A response: the kind and tag it repeats, its code and CLAMPED flag, and its data (R203, R206). -/
structure Response where
  kind : Byte
  tag : Byte
  code : Code
  clamped : Bool
  data : List Byte
  deriving DecidableEq, Repr

/-- The receiver of a port (R204). While OWED it holds the response it owes (none while a deferred RESET has not taken
effect, R212) and whether this OWED spell has counted its link error. -/
inductive Rx
  | hunt
  | frame
  | owed (response : Option Response) (counted : Bool)
  deriving DecidableEq, Repr

/-- One serial port's link state (R202, R204). -/
structure PortLink where
  rx : Rx
  linkErrors : Stat
  bitRate : Nat
  newRate : Option Nat
  deriving DecidableEq, Repr

/-- Why a load failed (R41); coded 1 to 4 in SENSE (R210). -/
inductive FailReason
  | order | overflow | range | timeout
  deriving DecidableEq, Repr

/-- LOAD_DONE and LOAD_FAILED of one loading port (R42). -/
structure LoadFlags where
  done : Option TitleNo
  failed : Option (TitleNo × FailReason)
  deriving DecidableEq, Repr

/-- The auditorium-set flags of one feed port; an empty set is a clear flag (R210). -/
structure FeedFlags where
  endOfReel : AudSet
  endReached : AudSet
  step : AudSet
  freewheel : AudSet
  lost : AudSet
  deriving DecidableEq, Repr

/-- The flags of one air port (R135, R210). -/
structure AirFlags where
  tableFull : AudSet
  expired : AudSet
  deriving DecidableEq, Repr

/-- The flags of M beside its load flags (R197, R210). -/
structure MgmtFlags where
  programDone : Option Nat
  eraseDone : Option Nat
  verifyDone : Option (Nat × Nat)
  streamDenied : AudSet
  deriving DecidableEq, Repr

/-- The Link Interface. Ports are numbered by the codes of R207. `attention` is true while the line is low (R211);
`resetTag` is the tag of a RESET that is taken and has not taken effect (R199, R212). -/
structure LinkBlock where
  ports : Vector PortLink 7
  load : Vector LoadFlags 5
  feed : Vector FeedFlags 4
  air : Vector AirFlags 2
  mgmt : MgmtFlags
  attention : Vector Bool 7
  resetTag : Option Byte
  deriving DecidableEq, Repr

/-! ### Title Table and Cue Store, Title Loader (chapters 1 and 2) -/

/-- A language: three lower-case ASCII letters (00_scope, Languages). -/
structure Lang where
  c0 : Byte
  c1 : Byte
  c2 : Byte
  deriving DecidableEq, Repr

/-- The kind of a track (R5). -/
inductive TrackKind
  | caption | description
  deriving DecidableEq, Repr

/-- A track descriptor (R5). -/
structure Track where
  kind : TrackKind
  lang : Lang
  nDecl : Nat
  n : Nat
  entryBase : Nat
  anchorBase : Nat
  anchorCount : Nat
  deriving DecidableEq, Repr

/-- The states of a title record (R2). -/
inductive TitleState
  | free | loading | finishing | ready
  deriving DecidableEq, Repr

/-- A title record (R1). `textBytes` is the declared X of R10, which the overflow test of R33 reads. -/
structure Title where
  state : TitleState
  key : BitVec 64
  loader : Option LoadPort
  base : Nat
  count : Nat
  textBytes : Nat
  fill : Nat
  reels : List Nat
  tracks : List Track
  clips : List Nat
  refs : Nat
  lastActivity : BitVec 32
  deriving DecidableEq, Repr

/-- The FREE record of R1. -/
def Title.free : Title where
  state := .free
  key := 0
  loader := none
  base := 0
  count := 0
  textBytes := 0
  fill := 0
  reels := []
  tracks := []
  clips := []
  refs := 0
  lastActivity := 0

/-- A run of cue store slots (R16). -/
structure Extent where
  base : Nat
  count : Nat
  deriving DecidableEq, Repr

/-- The 24 title records, the free-extent list, and the bytes of the cue store (byte address 16 x slot + offset;
an unlisted address reads 0, R24). -/
structure TitleBlock where
  recs : Vector Title 24
  free : List Extent
  cue : List Host.Cell
  deriving DecidableEq, Repr

/-- A load context (R25). CLOSED holds handle 0, the others the title they name. -/
inductive LoadContext
  | closed
  | loading (title : TitleNo)
  | finishing (title : TitleNo)
  deriving DecidableEq, Repr

/-- The Title Loader: a context per loading port, and the load idle time in house seconds (R25, R43). -/
structure LoaderBlock where
  ctx : Vector LoadContext 5
  idleTime : Nat
  deriving DecidableEq, Repr

/-! ### Show Context Unit and Clock Unit (chapters 3 and 4) -/

/-- The six states of an auditorium context (R47). -/
inductive ShowState
  | dark | armed | running | held | freewheel | lost
  deriving DecidableEq, Repr

/-- An auditorium context (R46). Handle 0 is `none`. -/
structure Context where
  state : ShowState
  title : Option TitleNo
  feedOwner : Option (Fin 4)
  airPort : Option (Fin 2)
  deriving DecidableEq, Repr

/-- The Clock Unit's state of one auditorium (R68, R86, R88). -/
structure AudClock where
  pos : Nat
  trim : Int
  silence : Nat
  jump : Nat
  gain : Nat
  interval : Nat
  steps : Stat
  reelClamps : Stat
  deriving DecidableEq, Repr

/-- The Clock Unit: the house tick counter H and the sixteen show clocks (R67, R68). -/
structure ClockBlock where
  h : BitVec 32
  auds : Vector AudClock 16
  deriving DecidableEq, Repr

/-! ### Cue Locator (chapter 5) -/

/-- A cursor (R94). -/
structure Cursor where
  valid : Bool
  index : Nat
  placedAt : Nat
  deriving DecidableEq, Repr

/-- One way of the position cache (R104). The handle is 1 to 24, 0 after a reset. -/
structure Way where
  valid : Bool
  handle : Nat
  track : Nat
  bucket : Nat
  index : Nat
  deriving DecidableEq, Repr

/-- One set of the position cache: four ways and the bits A, Bw and Cw (R104). -/
structure CacheSet where
  ways : Vector Way 4
  a : Bool
  bw : Bool
  cw : Bool
  deriving DecidableEq, Repr

/-- The Cue Locator (R94, R104, R112). -/
structure CueBlock where
  cursors : Vector (Vector Cursor 8) 16
  sets : Vector CacheSet 16
  hits : Stat
  misses : Stat
  deriving DecidableEq, Repr

/-! ### Receiver Table (chapter 6) -/

/-- A receiver record (R115); `bound` is its state BOUND. -/
structure Receiver where
  bound : Bool
  id : BitVec 32
  airPort : Option (Fin 2)
  aud : Aud
  captionPref : Option Lang
  descPref : Option Lang
  captionTrack : Option TrackNo
  descTrack : Option TrackNo
  lastHeard : BitVec 32
  deriving DecidableEq, Repr

/-- The FREE record of R115. -/
def Receiver.free : Receiver where
  bound := false
  id := 0
  airPort := none
  aud := 0
  captionPref := none
  descPref := none
  captionTrack := none
  descTrack := none
  lastHeard := 0

/-- The Receiver Table (R115, R116, R129, R132, R136). -/
structure ReceiverBlock where
  recs : Vector Receiver 512
  counts : Vector (Vector Nat 8) 16
  seconds : BitVec 32
  keepAlive : Nat
  joinRefusals : Vector Stat 2
  expiries : Vector Stat 2
  deriving DecidableEq, Repr

/-! ### Frame Builder (chapter 7) -/

/-- What was last sent for a track (R140). -/
inductive Sent
  | nothing
  | noCue
  | entry (i : Nat)
  deriving DecidableEq, Repr

/-- The Frame Builder's items of one air port (R139). -/
structure AirParams where
  lead : Nat
  capacity : Nat
  repeatPeriod : Nat
  window : Nat
  rotation : TrackNo
  deferred : Stat
  deriving DecidableEq, Repr

/-- The Frame Builder's state of one auditorium (R140). -/
structure FrameAud where
  seq : BitVec 16
  stepPending : Bool
  sent : Vector Sent 8
  countdown : Vector Nat 8
  deriving DecidableEq, Repr

/-- The Frame Builder. -/
structure FrameBlock where
  air : Vector AirParams 2
  auds : Vector FrameAud 16
  deriving DecidableEq, Repr

/-! ### Stream Unit (chapter 8) -/

/-- The state of a ring position; a PRESENT one holds its 512 bytes (R163). -/
inductive RingState
  | outstanding
  | present (data : List Byte)
  | bad
  | silent
  deriving DecidableEq, Repr

/-- A ring position (R163). -/
structure RingPos where
  play : Nat
  state : RingState
  clip : Nat
  block : Nat
  flashBlock : Nat
  level : Nat
  deriving DecidableEq, Repr

/-- A stream entry (R162). `next` is the next fetch position, an entry index and a block, or `none` when ended. -/
structure Stream where
  alloc : Bool
  aud : Aud
  track : TrackNo
  generation : BitVec 8
  next : Option (Nat × Nat)
  ring : List RingPos
  outstanding : Nat
  deriving DecidableEq, Repr

/-- A fetch record (R171). -/
structure FetchRecord where
  stream : StreamNo
  aud : Aud
  generation : BitVec 8
  flashBlock : Nat
  play : Nat
  deriving DecidableEq, Repr

/-- The stream statistics of one auditorium (R178). -/
structure StreamStats where
  late : Stat
  underruns : Stat
  checkErrors : Stat
  silent : Stat
  deriving DecidableEq, Repr

/-- The Stream Unit (R162, R164, R171, R178). The pool is in the order its records were placed. -/
structure StreamBlock where
  entries : Vector Stream 24
  unserved : Vector (Vector Bool 8) 16
  pool : List FetchRecord
  stats : Vector StreamStats 16
  discarded : Stat
  denials : Stat
  deriving DecidableEq, Repr

/-! ### Clip Storage Controller (chapter 9) -/

/-- A clip directory entry (R183). -/
structure ClipEntry where
  defined : Bool
  first : Nat
  length : Nat
  deriving DecidableEq, Repr

/-- How far a maintenance operation has got, beyond NONE (R189). -/
inductive OpState
  | waiting | inFlight | suspended
  deriving DecidableEq, Repr

/-- The maintenance operation record (R189): a program holds its data and check word (R191), a verify its captured
extent and progress (R195). -/
inductive Maintenance
  | none
  | program (state : OpState) (block : Nat) (data : List Byte) (check : Nat)
  | erase (state : OpState) (sector : Nat)
  | verify (state : OpState) (clip first length read failed : Nat)
  deriving DecidableEq, Repr

/-- What holds the flash (R173, R174, R191, R192, R196). -/
inductive FlashUse
  | idle
  | fetch (r : FetchRecord)
  | program
  | erase
  | verify
  deriving DecidableEq, Repr

/-- The Clip Storage Controller and the clip store (byte address 528 x block + offset; an unlisted address reads
0xFF, the erased value, R181). -/
structure StoreBlock where
  flash : List Host.Cell
  directory : Vector ClipEntry 1024
  inUse : Vector Nat 1024
  floor : Nat
  latch : Bool
  op : Maintenance
  use : FlashUse
  margin : Nat
  suspensions : Stat
  deriving DecidableEq, Repr

/-! ### The model's own fields -/

/-- What the latest house ticks have made due and no command has taken yet (log 4): silence boundaries by auditorium,
a house second boundary, the expiry pass of a house second boundary with the K in force there, and load idle expiries. -/
structure Due where
  silence : Vector Bool 16
  second : Bool
  expiry : Option Nat
  idle : Vector Bool 24
  deriving DecidableEq, Repr

/-- The state of the part, and the queue of commands that wait. -/
structure State where
  link : LinkBlock
  titles : TitleBlock
  loader : LoaderBlock
  shows : Vector Context 16
  clock : ClockBlock
  cues : CueBlock
  rcv : ReceiverBlock
  frame : FrameBlock
  stream : StreamBlock
  store : StoreBlock
  due : Due
  freeCount : Nat
  pending : List Instr
  deriving DecidableEq, Repr

/-- Why the part would stop. The spec gives no behaviour that stops it, so there is no reason and no command faults
(log 3): every malformed or untimely request is answered with a response code. -/
inductive Fault
  deriving DecidableEq, Repr

/-- Why a command has no meaning in the model. -/
inductive Refusal
  /-- Raised by exec's arm of a command that has no meaning yet; no arm raises it now. Safe. -/
  | notModelled (mnemonic : String)
  deriving DecidableEq, Repr

/-! ### Reset values -/

/-- A port after power-on: HUNT at 115,200 bit/s (R202, R204). -/
def PortLink.reset : PortLink where
  rx := .hunt
  linkErrors := 0
  bitRate := 115200
  newRate := none

/-- Clear load flags (R210). -/
def LoadFlags.clear : LoadFlags where
  done := none
  failed := none

/-- Clear feed flags (R210). -/
def FeedFlags.clear : FeedFlags where
  endOfReel := 0
  endReached := 0
  step := 0
  freewheel := 0
  lost := 0

/-- Clear air flags (R210). -/
def AirFlags.clear : AirFlags where
  tableFull := 0
  expired := 0

/-- Clear flags of M (R210). -/
def MgmtFlags.clear : MgmtFlags where
  programDone := none
  eraseDone := none
  verifyDone := none
  streamDenied := 0

/-- R202, R204, R210, R211 after power-on. -/
def LinkBlock.reset : LinkBlock where
  ports := fillTable 7 PortLink.reset
  load := fillTable 5 LoadFlags.clear
  feed := fillTable 4 FeedFlags.clear
  air := fillTable 2 AirFlags.clear
  mgmt := MgmtFlags.clear
  attention := fillTable 7 false
  resetTag := none

/-- R24 after power-on. -/
def TitleBlock.reset : TitleBlock where
  recs := fillTable 24 Title.free
  free := [{ base := 0, count := Config.slots }]
  cue := []

/-- R45. -/
def LoaderBlock.reset : LoaderBlock where
  ctx := fillTable 5 .closed
  idleTime := 30

/-- R46, R66. -/
def Context.reset : Context where
  state := .dark
  title := none
  feedOwner := none
  airPort := none

/-- R91. -/
def AudClock.reset : AudClock where
  pos := 0
  trim := 0
  silence := 0
  jump := 600
  gain := 16
  interval := 1200
  steps := 0
  reelClamps := 0

/-- R91. -/
def ClockBlock.reset : ClockBlock where
  h := 0
  auds := fillTable 16 AudClock.reset

/-- The clear cursor of R94. -/
def Cursor.clear : Cursor where
  valid := false
  index := 0
  placedAt := 0

/-- The invalid way of R104. -/
def Way.clear : Way where
  valid := false
  handle := 0
  track := 0
  bucket := 0
  index := 0

/-- An empty set of R104. -/
def CacheSet.clear : CacheSet where
  ways := fillTable 4 Way.clear
  a := false
  bw := false
  cw := false

/-- R114. -/
def CueBlock.reset : CueBlock where
  cursors := fillTable 16 (fillTable 8 Cursor.clear)
  sets := fillTable 16 CacheSet.clear
  hits := 0
  misses := 0

/-- R138. -/
def ReceiverBlock.reset : ReceiverBlock where
  recs := fillTable 512 Receiver.free
  counts := fillTable 16 (fillTable 8 0)
  seconds := 0
  keepAlive := 60
  joinRefusals := fillTable 2 0
  expiries := fillTable 2 0

/-- R139. -/
def AirParams.reset : AirParams where
  lead := 120
  capacity := 2048
  repeatPeriod := 8
  window := 240
  rotation := 7
  deferred := 0

/-- R140, R161. -/
def FrameAud.reset : FrameAud where
  seq := 0
  stepPending := false
  sent := fillTable 8 .nothing
  countdown := fillTable 8 0

/-- R161. -/
def FrameBlock.reset : FrameBlock where
  air := fillTable 2 AirParams.reset
  auds := fillTable 16 FrameAud.reset

/-- The stream entry of R162 after a reset. -/
def Stream.reset : Stream where
  alloc := false
  aud := 0
  track := 0
  generation := 0
  next := none
  ring := []
  outstanding := 0

/-- Zero statistics of R178. -/
def StreamStats.reset : StreamStats where
  late := 0
  underruns := 0
  checkErrors := 0
  silent := 0

/-- R180. -/
def StreamBlock.reset : StreamBlock where
  entries := fillTable 24 Stream.reset
  unserved := fillTable 16 (fillTable 8 false)
  pool := []
  stats := fillTable 16 StreamStats.reset
  discarded := 0
  denials := 0

/-- The clear directory entry of R183. -/
def ClipEntry.clear : ClipEntry where
  defined := false
  first := 0
  length := 0

/-- R200 after power-on. DESIGN CHOICE (log 6): the clip store of State.reset is erased throughout. -/
def StoreBlock.reset : StoreBlock where
  flash := []
  directory := fillTable 1024 ClipEntry.clear
  inUse := fillTable 1024 0
  floor := 0
  latch := false
  op := .none
  use := .idle
  margin := 360
  suspensions := 0

/-- Nothing due: setting H to 0 is not a tick (R67). -/
def Due.reset : Due where
  silence := fillTable 16 false
  second := false
  expiry := none
  idle := fillTable 24 false

/-- The part right after power-on (R213), with an empty queue. -/
def State.reset : State where
  link := LinkBlock.reset
  titles := TitleBlock.reset
  loader := LoaderBlock.reset
  shows := fillTable 16 Context.reset
  clock := ClockBlock.reset
  cues := CueBlock.reset
  rcv := ReceiverBlock.reset
  frame := FrameBlock.reset
  stream := StreamBlock.reset
  store := StoreBlock.reset
  due := Due.reset
  freeCount := 0
  pending := []

end Sys2Proof.Machine
end

