-- ==== Sys2Proof/Machine/Bytes.lean ====
section
/-! DEFINITION. Byte order: little-endian fields of bodies, responses and stored values, and languages (R203, R214). -/

namespace Sys2Proof.Machine

/-- The byte of value `n` modulo 256. -/
def byte (n : Nat) : Byte := BitVec.ofNat 8 n

/-- The `k` low bytes of `n`, least significant first (R214). -/
def le : Nat → Nat → List Byte
  | 0, _ => []
  | k + 1, n => byte n :: le k (n / 256)

/-- The value of little-endian bytes. -/
def leVal : List Byte → Nat
  | [] => 0
  | b :: bs => b.toNat + 256 * leVal bs

/-- The little-endian value of the `k` bytes of `body` from offset `i`. -/
def field (body : List Byte) (i k : Nat) : Nat := leVal ((body.drop i).take k)

/-- Bit `i` of the number `n`. -/
def bit (n i : Nat) : Bool := n / 2 ^ i % 2 == 1

/-- A flag as the number 0 or 1 (R214). -/
def flag (b : Bool) : Nat := if b then 1 else 0

/-- A lower-case ASCII letter. -/
def isLower (b : Byte) : Bool := 97 ≤ b.toNat && b.toNat ≤ 122

/-- The language of three letters, if all three bytes of the list are lower-case letters. -/
def langOf : List Byte → Option Lang
  | [a, b, c] => if isLower a && isLower b && isLower c then some ⟨a, b, c⟩ else none
  | _ => none

/-- A language field that may be "none", sent as three 0x00 bytes (R214): the outer `none` is a malformed field. -/
def prefOf (bs : List Byte) : Option (Option Lang) :=
  if bs = [0, 0, 0] then some none else (langOf bs).map some

/-- A language as its three bytes. -/
def Lang.bytes (l : Lang) : List Byte := [l.c0, l.c1, l.c2]

/-- A preference as its three bytes (R214). -/
def prefBytes : Option Lang → List Byte
  | none => [0, 0, 0]
  | some l => l.bytes

/-- The sum of the bytes. -/
def byteSum (bs : List Byte) : Nat := (bs.map BitVec.toNat).sum

/-- The check of a link frame over its length, kind, tag and body bytes (R203). -/
def linkCheck (bs : List Byte) : Nat := 65535 - byteSum bs % 65536

/-- A whole frame: sync, length, kind, tag, body, check (R203). -/
def frameBytes (kind tag : Byte) (body : List Byte) : List Byte :=
  let covered := le 2 body.length ++ [kind, tag] ++ body
  byte 0xC5 :: covered ++ le 2 (linkCheck covered)

/-- The sum of the little-endian 16-bit words of the data (R182). -/
def wordSum : List Byte → Nat
  | a :: b :: rest => a.toNat + 256 * b.toNat + wordSum rest
  | _ => 0

/-- The check word of a page's data (R182). -/
def checkWord (data : List Byte) : Nat := 65535 - wordSum data % 65536

/-- The number of a response code (R206). -/
def Code.toNat : Code → Nat
  | .ok => 0
  | .accepted => 1
  | .alreadyLoaded => 2
  | .linkError => 3
  | .unknownRequest => 4
  | .badLength => 5
  | .notOwner => 6
  | .wrongState => 7
  | .busy => 8
  | .tableFull => 9
  | .noSpace => 10
  | .noTitle => 11
  | .reelUnknown => 12
  | .range => 13
  | .order => 14
  | .overflow => 15
  | .inUse => 16
  | .overlap => 17
  | .isProtected => 18
  | .notEnabled => 19
  | .storageBusy => 20
  | .unknownReceiver => 21

/-- A response's body: the code byte, the flags byte with CLAMPED in bit 0, then the data (R203, R206). -/
def Response.body (r : Response) : List Byte :=
  byte r.code.toNat :: byte (flag r.clamped) :: r.data

/-- The frame a response leaves as (R203). -/
def Response.frame (r : Response) : List Byte := frameBytes r.kind r.tag r.body

end Sys2Proof.Machine
end

