-- ==== Sys2Proof/Machine/Flags.lean ====
section
/-! DEFINITION. Statistics, latched conditions and attention lines: every flag the spec names is set and cleared here (R42, R51, R135, R197, R210, R211). -/

namespace Sys2Proof.Machine

/-- One more in a statistic, holding at 65,535 (00_scope, Statistics). -/
def bump (x : Stat) : Stat := if x = 65535 then x else x + 1

/-- The code of a port (R207), as the index of its link state. -/
def portIx : Port → Fin 7
  | .feed n => ⟨n.val, by omega⟩
  | .air n => ⟨n.val + 4, by omega⟩
  | .m => 6

/-- The loading port a port is, if it is one (R25). -/
def loadPort : Port → Option LoadPort
  | .feed n => some ⟨n.val, by omega⟩
  | .air _ => none
  | .m => some 4

/-- The port of a load context. -/
def portOfLoad (p : LoadPort) : Port := if h : p.val < 4 then .feed ⟨p.val, h⟩ else .m

/-- The auditorium set with `a` joined (R210). -/
def joinAud (set : AudSet) (a : Aud) : AudSet := set ||| BitVec.ofNat 16 (2 ^ a.val)

/-- Is some load flag set? -/
def LoadFlags.any (f : LoadFlags) : Bool := f.done.isSome || f.failed.isSome

/-- Is some auditorium-set flag of a feed port set? -/
def FeedFlags.any (f : FeedFlags) : Bool :=
  f.endOfReel != 0 || f.endReached != 0 || f.step != 0 || f.freewheel != 0 || f.lost != 0

/-- Is some flag of an air port set? -/
def AirFlags.any (f : AirFlags) : Bool := f.tableFull != 0 || f.expired != 0

/-- Is some flag of M beside its load flags set? -/
def MgmtFlags.any (f : MgmtFlags) : Bool :=
  f.programDone.isSome || f.eraseDone.isSome || f.verifyDone.isSome || f.streamDenied != 0

/-- Is at least one latched condition of the port set (R211)? -/
def LinkBlock.flagged (l : LinkBlock) : Port → Bool
  | .feed n => l.load[(⟨n.val, by omega⟩ : LoadPort)].any || l.feed[n].any
  | .air n => l.air[n].any
  | .m => l.load[(4 : LoadPort)].any || l.mgmt.any

/-- The attention line of the port follows its flags (R211). -/
def LinkBlock.attend (l : LinkBlock) (p : Port) : LinkBlock :=
  { l with attention := setAt l.attention (portIx p) (l.flagged p) }

/-- The conditions a feed owner is told of (R51). -/
inductive FeedCond
  | endOfReel | endReached | step | freewheel | lost
  deriving DecidableEq, Repr

/-- The flags with the condition set and the auditorium in its detail set (R51, R210). -/
def FeedFlags.latch (f : FeedFlags) (c : FeedCond) (a : Aud) : FeedFlags :=
  match c with
  | .endOfReel => { f with endOfReel := joinAud f.endOfReel a }
  | .endReached => { f with endReached := joinAud f.endReached a }
  | .step => { f with step := joinAud f.step a }
  | .freewheel => { f with freewheel := joinAud f.freewheel a }
  | .lost => { f with lost := joinAud f.lost a }

/-- Latch an auditorium's condition on feed port `n`. -/
def LinkBlock.latchFeed (l : LinkBlock) (n : Fin 4) (c : FeedCond) (a : Aud) : LinkBlock :=
  { l with feed := modAt l.feed n (·.latch c a) }.attend (.feed n)

/-- Latch TABLE_FULL on air port `n` (R122, R135). -/
def LinkBlock.latchTableFull (l : LinkBlock) (n : Fin 2) (a : Aud) : LinkBlock :=
  { l with air := modAt l.air n fun f => { f with tableFull := joinAud f.tableFull a } }.attend (.air n)

/-- Latch EXPIRED on air port `n` (R133, R135). -/
def LinkBlock.latchExpired (l : LinkBlock) (n : Fin 2) (a : Aud) : LinkBlock :=
  { l with air := modAt l.air n fun f => { f with expired := joinAud f.expired a } }.attend (.air n)

/-- Latch LOAD_DONE on a loading port: the newest handle is its detail (R42). -/
def LinkBlock.latchLoadDone (l : LinkBlock) (p : LoadPort) (t : TitleNo) : LinkBlock :=
  { l with load := modAt l.load p fun f => { f with done := some t } }.attend (portOfLoad p)

/-- Latch LOAD_FAILED on a loading port: the newest handle and reason are its detail (R42). -/
def LinkBlock.latchLoadFailed (l : LinkBlock) (p : LoadPort) (t : TitleNo) (r : FailReason) : LinkBlock :=
  { l with load := modAt l.load p fun f => { f with failed := some (t, r) } }.attend (portOfLoad p)

/-- Latch PROGRAM_DONE on M (R197). -/
def LinkBlock.latchProgramDone (l : LinkBlock) (block : Nat) : LinkBlock :=
  { l with mgmt := { l.mgmt with programDone := some block } }.attend .m

/-- Latch ERASE_DONE on M (R197). -/
def LinkBlock.latchEraseDone (l : LinkBlock) (sector : Nat) : LinkBlock :=
  { l with mgmt := { l.mgmt with eraseDone := some sector } }.attend .m

/-- Latch VERIFY_DONE on M (R197). -/
def LinkBlock.latchVerifyDone (l : LinkBlock) (clip failed : Nat) : LinkBlock :=
  { l with mgmt := { l.mgmt with verifyDone := some (clip, failed) } }.attend .m

/-- Latch STREAM_DENIED on M (R164). -/
def LinkBlock.latchStreamDenied (l : LinkBlock) (a : Aud) : LinkBlock :=
  { l with mgmt := { l.mgmt with streamDenied := joinAud l.mgmt.streamDenied a } }.attend .m

/-- Every flag of the port is cleared with its detail, and its line released (R210, R211). -/
def LinkBlock.clearFlags (l : LinkBlock) (p : Port) : LinkBlock :=
  let l' := match p with
    | .feed n => { l with
        load := setAt l.load ⟨n.val, by omega⟩ LoadFlags.clear
        feed := setAt l.feed n FeedFlags.clear }
    | .air n => { l with air := setAt l.air n AirFlags.clear }
    | .m => { l with load := setAt l.load 4 LoadFlags.clear, mgmt := MgmtFlags.clear }
  l'.attend p

/-- The code of a load failure in SENSE (R210). -/
def FailReason.toNat : FailReason → Nat
  | .order => 1
  | .overflow => 2
  | .range => 3
  | .timeout => 4

/-- The handle of a title record: 1 to 24 (R1). -/
def handle (t : TitleNo) : Nat := t.val + 1

/-- A flag and its detail bytes, for SENSE: `none` when clear. -/
abbrev Detail := Option (List Byte)

/-- The detail of an auditorium-set flag. -/
def setDetail (x : AudSet) : Detail := if x = 0 then none else some (le 2 x.toNat)

/-- The details of the load flags, bits 0 and 1. -/
def LoadFlags.details (f : LoadFlags) : List Detail :=
  [f.done.map fun t => [byte (handle t)],
   f.failed.map fun tr => [byte (handle tr.1), byte tr.2.toNat]]

/-- The flags of a port with their details, in bit order (R210, R214). -/
def LinkBlock.details (l : LinkBlock) : Port → List Detail
  | .feed n =>
    let f := l.feed[n]
    l.load[(⟨n.val, by omega⟩ : LoadPort)].details ++
      [setDetail f.endOfReel, setDetail f.endReached, setDetail f.step, setDetail f.freewheel, setDetail f.lost]
  | .air n => [setDetail l.air[n].tableFull, setDetail l.air[n].expired]
  | .m =>
    l.load[(4 : LoadPort)].details ++
      [l.mgmt.programDone.map (le 2 ·), l.mgmt.eraseDone.map (le 2 ·),
       l.mgmt.verifyDone.map (fun cf => le 2 cf.1 ++ le 2 cf.2), setDetail l.mgmt.streamDenied]

/-- The flag word of the details: bit k is set when flag k is (R210). Bits for which the port has no flag are sent as 0 (the
model's choice, log 28). -/
def flagWord : List Detail → Nat
  | [] => 0
  | d :: ds => flag d.isSome + 2 * flagWord ds

end Sys2Proof.Machine
end

