-- ==== Sys2Proof/Machine/Memory.lean ====
section
/-! DEFINITION. The two byte stores as canonical lists of cells: reading, writing and clearing runs of bytes. -/

namespace Sys2Proof.Machine.Memory

/-- The byte at address `a`; an unlisted address reads `d`. -/
def read (d : Byte) (m : List Host.Cell) (a : Nat) : Byte := (m.lookup a).getD d

/-- The `n` bytes from address `a`. -/
def readRun (d : Byte) (m : List Host.Cell) (a : Nat) : Nat → List Byte
  | 0 => []
  | n + 1 => read d m a :: readRun d m (a + 1) n

/-- The cells that list the bytes `bs` at address `a`, less those equal to `d`. -/
def cells (d : Byte) (a : Nat) : List Byte → List Host.Cell
  | [] => []
  | b :: bs => if b = d then cells d (a + 1) bs else (a, b) :: cells d (a + 1) bs

/-- The store with the bytes `bs` at address `a`. -/
def write (d : Byte) (m : List Host.Cell) (a : Nat) (bs : List Byte) : List Host.Cell :=
  m.filter (fun c => c.1 < a) ++ cells d a bs ++ m.filter (fun c => a + bs.length ≤ c.1)

/-- The store with the `n` bytes from address `a` as unlisted. -/
def clear (m : List Host.Cell) (a n : Nat) : List Host.Cell :=
  m.filter fun c => c.1 < a || a + n ≤ c.1

/-- The canonical form: addresses strictly rising, no cell equal to what an unlisted address reads as. -/
abbrev wf (d : Byte) (m : List Host.Cell) : Prop :=
  m.Pairwise (fun c c' => c.1 < c'.1) ∧ ∀ c ∈ m, c.2 ≠ d

end Sys2Proof.Machine.Memory

namespace Sys2Proof.Machine

/-- What an unlisted byte of the cue store reads as: power-on fills it with zero (R24). -/
abbrev cueEmpty : Byte := 0

/-- What an unlisted byte of the clip store reads as: an erased byte (R181). -/
abbrev flashEmpty : Byte := 0xFF

end Sys2Proof.Machine
end

