-- ==== Sys2Proof/WellFormed.lean ====
section
/-! DEFINITION. Which commands are well formed: what a sender can put on a link and which row a frame belongs to. -/

namespace Sys2Proof

/-- The table of R205: is request kind `k` valid on port `p`? -/
def validKind (p : Port) (k : Byte) : Bool :=
  let n := k.toNat
  match p with
  | .feed _ => 1 ≤ n && n ≤ 11
  | .air _ => 11 ≤ n && n ≤ 13
  | .m => n == 4 || (6 ≤ n && n ≤ 11) || (14 ≤ n && n ≤ 28)

/-- R203: a request body has at most 1,024 bytes. -/
def Req.bodyFits (r : Req) : Bool := r.body.length ≤ Config.maxRequestBody

/-- A SET frame belongs to the row of its own parameter number; a body with no parameter byte, or with a number
outside 1 to 11, may stand on any SET row (R207, log 21). -/
def Req.setsOwn (r : Req) (param : Nat) : Bool :=
  match r.body with
  | [] => true
  | b :: _ => b.toNat == param || b.toNat == 0 || 11 < b.toNat

/-- A SET request of the row with parameter number `param`. -/
def Req.wellFormedSet (r : Req) (param : Nat) : Bool := r.bodyFits && r.setsOwn param

/-- The form of a command, one line per constructor. -/
def Instr.wellFormed (i : Instr) : Bool :=
  match i with
  | .powerOn => true
  | .reset r => r.bodyFits
  | .resetTakesEffect => true
  | .houseTick => true
  | .silenceBoundary _ => true
  | .houseSecondBoundary => true
  | .keepAliveExpiry => true
  | .loadIdleTimeout _ => true
  | .loadOpen r => r.bodyFits
  | .loadData r => r.bodyFits
  | .loadFinish r => r.bodyFits
  | .finishingCompletion _ => true
  | .clipListOverflow _ => true
  | .loadAbort r => r.bodyFits
  | .unload r => r.bodyFits
  | .arm r => r.bodyFits
  | .run r => r.bodyFits
  | .hold r => r.bodyFits
  | .darken r => r.bodyFits
  | .position r => r.bodyFits
  | .assignFeed r => r.bodyFits
  | .assignAir r => r.bodyFits
  | .report r => r.bodyFits
  | .pull r => r.bodyFits
  | .sense r => r.bodyFits
  | .setLoadIdleTime r => r.wellFormedSet 1
  | .setKeepAliveTime r => r.wellFormedSet 2
  | .setUrgencyMargin r => r.wellFormedSet 3
  | .setJumpThreshold r => r.wellFormedSet 4
  | .setGainExponent r => r.wellFormedSet 5
  | .setSilenceInterval r => r.wellFormedSet 6
  | .setLead r => r.wellFormedSet 7
  | .setCapacity r => r.wellFormedSet 8
  | .setRepeatPeriod r => r.wellFormedSet 9
  | .setWindow r => r.wellFormedSet 10
  | .setBitRate r => r.wellFormedSet 11
  | .bitRateChangeApplies _ => true
  | .stats r => r.bodyFits
  | .tableRead r => r.bodyFits
  | .cacheProbe r => r.bodyFits
  | .cacheFlush r => r.bodyFits
  | .clipDefine r => r.bodyFits
  | .clipDelete r => r.bodyFits
  | .clipWriteEnable r => r.bodyFits
  | .clipProgram r => r.bodyFits
  | .clipErase r => r.bodyFits
  | .clipVerify r => r.bodyFits
  | .clipProtect r => r.bodyFits
  | .flashArbiterChoice => true
  | .fetchCompletion => true
  | .programCompletion => true
  | .eraseCompletion => true
  | .verifyTurnCompletion => true
  | .frameCheckFail _ => true
  | .frameLengthDiscard _ => true
  | .frameGapTimeout _ => true
  | .breakCondition _ => true
  | .owedByteDiscard _ => true
  | .unknownRequest p k _ => !validKind p k
  | .responseSent _ => true
  | .syncByte _ => true

end Sys2Proof
end

