-- ==== Sys2Proof/Machine/Ops.lean ====
section
/-! DEFINITION. Operations many commands share: taking a request and answering it (R204 to R206), latching, the airing instant (R84), the free-extent list (R16 to R18), and the release of a title (R2). -/

namespace Sys2Proof.Machine

/-- What a command answers. -/
abbrev Out := Host.Outcome State Fault Refusal

/-- All auditoriums, ascending. -/
def allAuds : List Aud := [0, 1, 2, 3, 4, 5, 6, 7, 8, 9, 10, 11, 12, 13, 14, 15]

/-- All tracks, ascending. -/
def allTracks : List TrackNo := [0, 1, 2, 3, 4, 5, 6, 7]

/-- All title records, or all stream entries, ascending. -/
def all24 : List (Fin 24) :=
  [0, 1, 2, 3, 4, 5, 6, 7, 8, 9, 10, 11, 12, 13, 14, 15, 16, 17, 18, 19, 20, 21, 22, 23]

/-- Every auditorium and track, in ascending order of auditorium and then track (R131). -/
def allPairs : List (Aud × TrackNo) := allAuds.flatMap fun a => allTracks.map fun t => (a, t)

/-! ### Ports and requests -/

/-- The kinds of R205. -/
def kindArm : Byte := 1
/-- RUN (R205). -/
def kindRun : Byte := 2
/-- HOLD (R205). -/
def kindHold : Byte := 3
/-- DARKEN (R205). -/
def kindDarken : Byte := 4
/-- POSITION (R205). -/
def kindPosition : Byte := 5
/-- LOAD.OPEN (R205). -/
def kindLoadOpen : Byte := 6
/-- LOAD.DATA (R205). -/
def kindLoadData : Byte := 7
/-- LOAD.FINISH (R205). -/
def kindLoadFinish : Byte := 8
/-- LOAD.ABORT (R205). -/
def kindLoadAbort : Byte := 9
/-- UNLOAD (R205). -/
def kindUnload : Byte := 10
/-- SENSE (R205). -/
def kindSense : Byte := 11
/-- PULL (R205). -/
def kindPull : Byte := 12
/-- REPORT (R205). -/
def kindReport : Byte := 13
/-- ASSIGN.FEED (R205). -/
def kindAssignFeed : Byte := 14
/-- ASSIGN.AIR (R205). -/
def kindAssignAir : Byte := 15
/-- SET (R205). -/
def kindSet : Byte := 16
/-- STATS (R205). -/
def kindStats : Byte := 17
/-- TABLE.READ (R205). -/
def kindTableRead : Byte := 18
/-- CACHE.PROBE (R205). -/
def kindCacheProbe : Byte := 19
/-- CACHE.FLUSH (R205). -/
def kindCacheFlush : Byte := 20
/-- CLIP.DEFINE (R205). -/
def kindClipDefine : Byte := 21
/-- CLIP.DELETE (R205). -/
def kindClipDelete : Byte := 22
/-- CLIP.WRITE_ENABLE (R205). -/
def kindClipWriteEnable : Byte := 23
/-- CLIP.PROGRAM (R205). -/
def kindClipProgram : Byte := 24
/-- CLIP.ERASE (R205). -/
def kindClipErase : Byte := 25
/-- CLIP.VERIFY (R205). -/
def kindClipVerify : Byte := 26
/-- CLIP.PROTECT (R205). -/
def kindClipProtect : Byte := 27
/-- RESET (R205). -/
def kindReset : Byte := 28

/-- The link state of a port. -/
def State.port (s : State) (p : Port) : PortLink := s.link.ports[portIx p]

/-- The state with the link state of a port changed. -/
def State.setPort (s : State) (p : Port) (x : PortLink) : State :=
  { s with link := { s.link with ports := setAt s.link.ports (portIx p) x } }

/-- The state with the receiver of a port changed. -/
def State.setRx (s : State) (p : Port) (rx : Rx) : State := s.setPort p { s.port p with rx := rx }

/-- Is the port OWED (R204)? -/
def State.owing (s : State) (p : Port) : Bool :=
  match (s.port p).rx with
  | .owed _ _ => true
  | .hunt => false
  | .frame => false

/-- One more link error on the port, whose receiver becomes `rx` (R204). -/
def State.linkError (s : State) (p : Port) (rx : Rx) : State :=
  let x := s.port p
  s.setPort p { x with rx := rx, linkErrors := bump x.linkErrors }

/-- A byte received while the port is OWED is discarded; the first of each OWED spell counts a link error (R204). -/
def State.owedByte (s : State) (p : Port) : State :=
  match (s.port p).rx with
  | .owed r false => s.linkError p (.owed r true)
  | .owed _ true => s
  | .hunt => s
  | .frame => s

/-- The port owes the response (R204). -/
def State.owe (s : State) (p : Port) (r : Response) : State := s.setRx p (.owed (some r) false)

/-- What a block returns for a request: code, CLAMPED flag and data (R205). -/
structure Reply where
  code : Code
  clamped : Bool
  data : List Byte
  deriving DecidableEq, Repr

/-- A code with no flag and no data. -/
def Reply.of (c : Code) : Reply := ⟨c, false, []⟩

/-- OK. -/
def Reply.ok : Reply := Reply.of .ok

/-- OK with data. -/
def Reply.okData (bs : List Byte) : Reply := ⟨.ok, false, bs⟩

/-- OK, with CLAMPED when `c` holds. -/
def Reply.okClamped (c : Bool) : Reply := ⟨.ok, c, []⟩

/-- A request answered with a code and with no effect. -/
def refuse (c : Code) (s : State) : State × Reply := (s, Reply.of c)

/-- The response a reply makes for a request. -/
def Reply.response (x : Reply) (kind : Byte) (r : Req) : Response :=
  ⟨kind, r.tag, x.code, x.clamped, x.data⟩

/-- A request is carried out only by a port that can take a frame, with a body a frame can hold (R203, R204). -/
def State.takes (s : State) (r : Req) : Bool := !s.owing r.port && r.body.length ≤ Config.maxRequestBody

/-- A request of kind `kind` arrives (log 1). On a port that is OWED its bytes are discarded; a body above 1,024 bytes
is discarded at its length field; a kind not valid on the port is answered UNKNOWN_REQUEST (R205); any other is
carried out whole by `act`, and the port owes the response. -/
def request (r : Req) (kind : Byte) (act : State → State × Reply) (s : State) : State :=
  if s.owing r.port then s.owedByte r.port
  else if Config.maxRequestBody < r.body.length then s.linkError r.port .hunt
  else if !validKind r.port kind then s.owe r.port ((Reply.of .unknownRequest).response kind r)
  else
    let out := act s
    out.1.owe r.port (out.2.response kind r)

/-! ### Latching -/

/-- Latch a condition of auditorium `a` on its feed owner, if it has one (R51). -/
def State.latchAud (s : State) (c : FeedCond) (a : Aud) : State :=
  match s.shows[a].feedOwner with
  | some n => { s with link := s.link.latchFeed n c a }
  | none => s

/-! ### Clock reads -/

/-- Show time S of an auditorium (R68). -/
def showTime (c : AudClock) : Nat := c.pos / Config.subTicks

/-- The lead of the auditorium's air port, or 0 while it has none (R84). -/
def lead (s : State) (a : Aud) : Nat :=
  match s.shows[a].airPort with
  | some n => s.frame.air[n].lead
  | none => 0

/-- The airing instant S_air of an auditorium (R84). -/
def airing (s : State) (a : Aud) : Nat := min (showTime s.clock.auds[a] + lead s a) Config.maxShow

/-- The state with the clock of an auditorium changed. -/
def State.setClock (s : State) (a : Aud) (c : AudClock) : State :=
  { s with clock := { s.clock with auds := setAt s.clock.auds a c } }

/-- The state with the context of an auditorium changed. -/
def State.setShow (s : State) (a : Aud) (c : Context) : State := { s with shows := setAt s.shows a c }

/-! ### Titles -/

/-- The title record of a handle, if the handle is 1 to 24 (R1). -/
def titleOfHandle (h : Nat) : Option TitleNo := if p : 1 ≤ h ∧ h ≤ 24 then some ⟨h - 1, by omega⟩ else none

/-- The auditorium a byte numbers, if it is 0 to 15. -/
def audOf (n : Nat) : Option Aud := if p : n < 16 then some ⟨n, p⟩ else none

/-- A title record. -/
def State.title (s : State) (t : TitleNo) : Title := s.titles.recs[t]

/-- The state with a title record changed. -/
def State.setTitle (s : State) (t : TitleNo) (x : Title) : State :=
  { s with titles := { s.titles with recs := setAt s.titles.recs t x } }

/-- The title an auditorium holds (R46). -/
def titleOf (s : State) (a : Aud) : Option Title := s.shows[a].title.map s.title

/-- A title with one of its tracks. -/
structure TitleTrack where
  title : Title
  track : Track
  deriving DecidableEq, Repr

/-- Track `t` of the title auditorium `a` holds. -/
def trackOf (s : State) (a : Aud) (t : TrackNo) : Option TitleTrack :=
  (titleOf s a).bind fun ti => ti.tracks[t.val]?.map fun tr => ⟨ti, tr⟩

/-- Is `(a, t)` a track of the given kind (R130, R142)? -/
def isKind (s : State) (k : TrackKind) (a : Aud) (t : TrackNo) : Bool :=
  match trackOf s a t with
  | some x => x.track.kind == k
  | none => false

/-- Division rounded toward plus infinity. -/
def ceilDiv (n d : Nat) : Nat := (n + d - 1) / d

/-- The total declared entry count E of a title (R15). -/
def Title.entries (ti : Title) : Nat := (ti.tracks.map (·.nDecl)).sum

/-- First-fit allocation of `n` slots, 1 or more: the base taken and the list left (R17). -/
def allocate (n : Nat) : List Extent → Option (Nat × List Extent)
  | [] => none
  | e :: es =>
    if n ≤ e.count then
      some (e.base, if n = e.count then es else ⟨e.base + n, e.count - n⟩ :: es)
    else (allocate n es).map fun r => (r.1, e :: r.2)

/-- The region of a new title: a region of 0 slots has base 0 and takes no extent (R15, R17). -/
def allocateRegion (n : Nat) (l : List Extent) : Option (Nat × List Extent) :=
  if n = 0 then some (0, l) else allocate n l

/-- The free-extent list with the region of `c` slots from `b` returned, merged with what it touches (R18). -/
def release (b c : Nat) : List Extent → List Extent
  | [] => [⟨b, c⟩]
  | e :: es =>
    if e.base + e.count < b then e :: release b c es
    else if e.base + e.count = b then
      match es with
      | [] => [⟨e.base, e.count + c⟩]
      | u :: us =>
        if b + c = u.base then ⟨e.base, e.count + c + u.count⟩ :: us else ⟨e.base, e.count + c⟩ :: u :: us
    else if b + c = e.base then ⟨b, c + e.count⟩ :: es
    else ⟨b, c⟩ :: e :: es

/-- The list with a title's region returned; a region of 0 slots leaves it unchanged (R15, R18). -/
def releaseRegion (b c : Nat) (l : List Extent) : List Extent := if c = 0 then l else release b c l

/-- The load context closed if it names the title (R25). -/
def LoadContext.closeFor (c : LoadContext) (t : TitleNo) : LoadContext :=
  match c with
  | .closed => .closed
  | .loading u => if u = t then .closed else .loading u
  | .finishing u => if u = t then .closed else .finishing u

/-- The state with the load context of the title's loader port closed (R25). -/
def State.closeLoad (s : State) (t : TitleNo) : State :=
  match (s.title t).loader with
  | some p => { s with loader := { s.loader with ctx := modAt s.loader.ctx p (·.closeFor t) } }
  | none => s

/-- A title becomes FREE: its load context closes, its record takes the FREE values and its region returns to the
free-extent list, together (R2, R18, R25). -/
def State.freeTitle (s : State) (t : TitleNo) : State :=
  let ti := s.title t
  let s1 := s.closeLoad t
  { s1 with titles := { s1.titles with
      recs := setAt s1.titles.recs t Title.free
      free := releaseRegion ti.base ti.count s1.titles.free } }

/-- The first of a list that passes the test with the least measure; an equal measure keeps the earlier one. -/
def leastBy {α : Type} (measure : α → Int) : List α → Option α
  | [] => none
  | x :: xs =>
    match leastBy measure xs with
    | none => some x
    | some y => if measure y < measure x then some y else some x

end Sys2Proof.Machine
end

