-- ==== Sys2Proof/Machine/Operands.lean ====
section
/-! DEFINITION. The operands of the requests: their bodies read by the layouts of R214, and the layouts of stored cue entries. -/

namespace Sys2Proof.Machine

/-- The byte of a body at offset `i`, as a number. -/
def at1 (body : List Byte) (i : Nat) : Nat := field body i 1

/-! ### Admission of show requests (R52) -/

/-- Is the port the auditorium's feed owner? -/
def ownsFeed (s : State) (p : Port) (a : Aud) : Bool :=
  match p with
  | .feed n => s.shows[a].feedOwner == some n
  | .air _ => false
  | .m => false

/-- The admission checks of a show request with a body of `len` bytes; `mToo` when M may send it (R52). -/
def admitShow (r : Req) (len : Nat) (mToo : Bool) (s : State) : Except Code Aud :=
  if r.body.length ≠ len then .error .badLength
  else
    match audOf (at1 r.body 0) with
    | none => .error .range
    | some a => if ownsFeed s r.port a || (mToo && r.port == .m) then .ok a else .error .notOwner

/-! ### LOAD.OPEN (R27) -/

/-- A track as LOAD.OPEN declares it: kind code, language bytes, n_decl. -/
structure TrackDecl where
  kindCode : Nat
  lang : List Byte
  nDecl : Nat
  deriving DecidableEq, Repr

/-- A LOAD.OPEN declaration (R27). -/
structure Decl where
  key : BitVec 64
  reelCount : Nat
  trackCount : Nat
  reels : List Nat
  tracks : List TrackDecl
  textBytes : Nat
  deriving DecidableEq, Repr

/-- The reel lengths: `r` fields of 3 bytes (R214). -/
def readReels : Nat → List Byte → List Nat
  | 0, _ => []
  | r + 1, bs => field bs 0 3 :: readReels r (bs.drop 3)

/-- The track declarations: `t` groups of 6 bytes (R214). -/
def readTracks : Nat → List Byte → List TrackDecl
  | 0, _ => []
  | t + 1, bs => ⟨at1 bs 0, (bs.drop 1).take 3, field bs 4 2⟩ :: readTracks t (bs.drop 6)

/-- The declaration of a LOAD.OPEN body, or none where its length disagrees with its counts (R27, R214). -/
def readDecl (body : List Byte) : Option Decl :=
  let r := at1 body 8
  let t := at1 body 9
  if body.length = 13 + 3 * r + 6 * t then
    some {
      key := BitVec.ofNat 64 (field body 0 8)
      reelCount := r
      trackCount := t
      reels := readReels r (body.drop 10)
      tracks := readTracks t (body.drop (10 + 3 * r))
      textBytes := field body (10 + 3 * r + 6 * t) 3 }
  else none

/-- The kind a track kind code names (R214). -/
def kindOf : Nat → Option TrackKind
  | 0 => some .caption
  | 1 => some .description
  | _ => none

/-- Is the track declaration in range (R27)? -/
def TrackDecl.inRange (d : TrackDecl) : Bool :=
  (kindOf d.kindCode).isSome && (langOf d.lang).isSome && d.nDecl ≤ 16383

/-- Is every item of the declaration in range (R4, R27)? -/
def Decl.inRange (d : Decl) : Bool :=
  1 ≤ d.reelCount && d.reelCount ≤ 16 && 1 ≤ d.trackCount && d.trackCount ≤ 8 &&
    d.reels.all (1 ≤ ·) && d.reels.sum ≤ Config.maxShow &&
    d.tracks.all (·.inRange) && d.textBytes ≤ 2097151

/-- The total declared entry count E (R15). -/
def Decl.entries (d : Decl) : Nat := (d.tracks.map (·.nDecl)).sum

/-- The total anchor slots A (R15). -/
def Decl.anchors (d : Decl) : Nat := (d.tracks.map fun t => ceilDiv t.nDecl Config.anchorSpan).sum

/-- The region of the declaration, in slots (R15). -/
def Decl.regionSlots (d : Decl) : Nat := d.entries + ceilDiv d.textBytes Config.slotBytes + d.anchors

/-- The track descriptors of a declaration, their entry areas from `entryBase` and anchor areas from `anchorBase`
(R5, R15, R29). -/
def layTracks (entryBase anchorBase : Nat) : List TrackDecl → List Track
  | [] => []
  | d :: ds =>
    { kind := (kindOf d.kindCode).getD .caption
      lang := (langOf d.lang).getD ⟨0, 0, 0⟩
      nDecl := d.nDecl
      n := 0
      entryBase := entryBase
      anchorBase := anchorBase
      anchorCount := 0 } ::
      layTracks (entryBase + d.nDecl) (anchorBase + ceilDiv d.nDecl Config.anchorSpan) ds

/-! ### LOAD.DATA (R31, R32) -/

/-- An entry as LOAD.DATA carries it (R214). -/
inductive RawEntry
  | caption (start dur bits : Nat) (text : List Byte)
  | description (start dur clipBlock level : Nat)
  deriving DecidableEq, Repr

/-- The `count` entries of a LOAD.DATA for a track of kind `k`, or none where their lengths do not add up to the body
(R31, R214). -/
def readEntries (k : TrackKind) : Nat → List Byte → Option (List RawEntry)
  | 0, bs => if bs = [] then some [] else none
  | c + 1, bs =>
    match k with
    | .caption =>
      let len := at1 bs 6
      if bs.length < 7 + len then none
      else
        (readEntries k c (bs.drop (7 + len))).map
          (.caption (field bs 0 3) (field bs 3 2) (at1 bs 5) ((bs.drop 7).take len) :: ·)
    | .description =>
      if bs.length < 9 then none
      else
        (readEntries k c (bs.drop 9)).map
          (.description (field bs 0 3) (field bs 3 2) (field bs 5 3) (at1 bs 8) :: ·)

/-- The clip number of a clip and block field: bits 0 to 9 (R214). -/
def clipOf (n : Nat) : Nat := n % 1024

/-- The block of a clip and block field: bits 12 to 23 (R214). -/
def blockOf (n : Nat) : Nat := n / 4096

/-- Clip and block packed in a 3-byte field (R214). -/
def packClip (clip block : Nat) : Nat := clip + 4096 * block

/-- Is every field of the entry in range (R32, step 2)? A caption's bits 2 to 7 are clear; a description's level is at
most 15 and bits 10 and 11 of its clip and block field are clear. -/
def RawEntry.inRange : RawEntry → Bool
  | .caption _ _ bits _ => bits < 4
  | .description _ _ clipBlock level => level ≤ 15 && clipBlock / 1024 % 4 == 0

/-- The start of an entry. -/
def RawEntry.start : RawEntry → Nat
  | .caption start _ _ _ => start
  | .description start _ _ _ => start

/-! ### REPORT (R117) -/

/-- The kinds of a REPORT item (R117, R214). -/
inductive ItemKind
  | hello | choose | alive | bye
  deriving DecidableEq, Repr

/-- A REPORT item (R214): its kind, if its kind code is one of the four, and its fields. -/
structure Item where
  kind : Option ItemKind
  aud : Nat
  id : BitVec 32
  caption : List Byte
  desc : List Byte
  deriving DecidableEq, Repr

/-- The kind of an item kind code (R214). -/
def itemKind : Nat → Option ItemKind
  | 0 => some .hello
  | 1 => some .choose
  | 2 => some .alive
  | 3 => some .bye
  | _ => none

/-- The item of 12 bytes. -/
def readItem (bs : List Byte) : Item where
  kind := itemKind (at1 bs 0)
  aud := at1 bs 1
  id := BitVec.ofNat 32 (field bs 2 4)
  caption := (bs.drop 6).take 3
  desc := (bs.drop 9).take 3

/-- The `n` items of a REPORT body. -/
def readItems : Nat → List Byte → List Item
  | 0, _ => []
  | n + 1, bs => readItem bs :: readItems n (bs.drop 12)

/-! ### Ports in request fields (R207) -/

/-- A feed port value of ASSIGN.FEED: the outer `none` is out of range, 255 is none. -/
def feedField (n : Nat) : Option (Option (Fin 4)) :=
  if n = 255 then some none else if h : n < 4 then some (some ⟨n, h⟩) else none

/-- An air port value of ASSIGN.AIR (codes 4 and 5, 255 for none). -/
def airField (n : Nat) : Option (Option (Fin 2)) :=
  if n = 255 then some none
  else if n = 4 then some (some 0)
  else if n = 5 then some (some 1)
  else none

/-- A feed owner as a port code. -/
def feedCode : Option (Fin 4) → Nat
  | some n => n.val
  | none => 255

/-- An air port as a port code. -/
def airCode : Option (Fin 2) → Nat
  | some n => n.val + 4
  | none => 255

/-- A loader port as a port code. -/
def loadCode : Option LoadPort → Nat
  | some p => if p.val = 4 then 6 else p.val
  | none => 255

/-- A track as a byte, 255 for none (R214). -/
def trackCode : Option TrackNo → Nat
  | some t => t.val
  | none => 255

/-! ### Entries and anchors in the cue store (R7 to R9, R13; log 5) -/

/-- A stored caption entry (R8). -/
structure CaptionEntry where
  start : Nat
  dur : Nat
  top : Bool
  italic : Bool
  textOffset : Nat
  textLength : Nat
  deriving DecidableEq, Repr

/-- A stored description entry (R9). -/
structure DescEntry where
  start : Nat
  dur : Nat
  clip : Nat
  first : Nat
  level : Nat
  deriving DecidableEq, Repr

/-- The 16 bytes of a caption entry (log 5): start 3, duration 2, bits 1, text length 1, text offset 3, zeros 6. -/
def CaptionEntry.bytes (e : CaptionEntry) : List Byte :=
  le 3 e.start ++ le 2 e.dur ++ [byte (flag e.top + 2 * flag e.italic), byte e.textLength] ++ le 3 e.textOffset ++
    le 6 0

/-- The 16 bytes of a description entry (log 5): start 3, duration 2, clip and first block 3, level 1, zeros 7. -/
def DescEntry.bytes (e : DescEntry) : List Byte :=
  le 3 e.start ++ le 2 e.dur ++ le 3 (packClip e.clip e.first) ++ [byte e.level] ++ le 7 0

/-- The 16 bytes of an anchor (log 5): start 3, zeros 13. -/
def anchorBytes (start : Nat) : List Byte := le 3 start ++ le 13 0

/-- The 16 bytes of a cue store slot. -/
def slotAt (m : List Host.Cell) (slot : Nat) : List Byte :=
  Memory.readRun cueEmpty m (slot * Config.slotBytes) Config.slotBytes

/-- The slot of entry `i` of a track (R7). -/
def entrySlot (ti : Title) (tr : Track) (i : Nat) : Nat := ti.base + tr.entryBase + i

/-- The start of entry `i` (R7). -/
def entryStart (m : List Host.Cell) (ti : Title) (tr : Track) (i : Nat) : Nat :=
  field (slotAt m (entrySlot ti tr i)) 0 3

/-- The effective duration of entry `i` (R7, R11). -/
def entryDur (m : List Host.Cell) (ti : Title) (tr : Track) (i : Nat) : Nat :=
  field (slotAt m (entrySlot ti tr i)) 3 2

/-- The effective end of entry `i` (R11). -/
def entryEnd (m : List Host.Cell) (ti : Title) (tr : Track) (i : Nat) : Nat :=
  entryStart m ti tr i + entryDur m ti tr i

/-- Entry `i` of a CAPTION track (R8). -/
def captionEntry (m : List Host.Cell) (ti : Title) (tr : Track) (i : Nat) : CaptionEntry :=
  let bs := slotAt m (entrySlot ti tr i)
  { start := field bs 0 3
    dur := field bs 3 2
    top := bit (at1 bs 5) 0
    italic := bit (at1 bs 5) 1
    textLength := at1 bs 6
    textOffset := field bs 7 3 }

/-- Entry `i` of a DESCRIPTION track (R9). -/
def descEntry (m : List Host.Cell) (ti : Title) (tr : Track) (i : Nat) : DescEntry :=
  let bs := slotAt m (entrySlot ti tr i)
  { start := field bs 0 3
    dur := field bs 3 2
    clip := clipOf (field bs 5 3)
    first := blockOf (field bs 5 3)
    level := at1 bs 8 }

/-- The byte address of the title's text pool (R10). -/
def poolAddr (ti : Title) : Nat := (ti.base + ti.entries) * Config.slotBytes

/-- The text of a caption entry (R8). -/
def captionText (m : List Host.Cell) (ti : Title) (e : CaptionEntry) : List Byte :=
  Memory.readRun cueEmpty m (poolAddr ti + e.textOffset) e.textLength

/-- Anchor `k` of a track (R13). -/
def anchorAt (m : List Host.Cell) (ti : Title) (tr : Track) (k : Nat) : Nat :=
  field (slotAt m (ti.base + tr.anchorBase + k)) 0 3

end Sys2Proof.Machine
end

