-- ==== Sys2Proof/Machine/Cue.lean ====
section
/-! DEFINITION. Cue location: cursors, lookups, relocation through the position cache, CACHE.PROBE and CACHE.FLUSH (chapter 5). -/

namespace Sys2Proof.Machine

/-- What a lookup returns: an entry index and the active flag (R93). -/
structure Found where
  index : Nat
  active : Bool
  deriving DecidableEq, Repr

/-- The walk forward: from index `i`, at most `fuel` entries, past each that has ended by `t` (R95, R101, R103). The
fuel is the number of entries from `i` to n. -/
def walk (ends : Nat → Nat) (t : Nat) : Nat → Nat → Nat
  | 0, i => i
  | fuel + 1, i => if ends i ≤ t then walk ends t fuel (i + 1) else i

/-- The walk of a track from index `i` (R95). -/
def walkTrack (m : List Host.Cell) (x : TitleTrack) (t i : Nat) : Nat :=
  walk (entryEnd m x.title x.track) t (x.track.n - i) i

/-- The set a key selects (R99). -/
def cacheSet (handle track bucket : Nat) : Fin 16 := ⟨(bucket + 4 * track + handle) % 16, by omega⟩

/-- Does the way hold the key (R99)? -/
def Way.holds (w : Way) (handle track bucket : Nat) : Bool :=
  w.valid && w.handle == handle && w.track == track && w.bucket == bucket

/-- The ways of a set, ascending. -/
def allWays : List (Fin 4) := [0, 1, 2, 3]

/-- The way of the set that holds the key (R99). -/
def CacheSet.find (c : CacheSet) (handle track bucket : Nat) : Option (Fin 4) :=
  allWays.find? fun w => c.ways[w].holds handle track bucket

/-- The replacement bits after an access to way `w` (R105). -/
def CacheSet.touch (c : CacheSet) (w : Fin 4) : CacheSet :=
  match w with
  | 0 => { c with a := true, bw := true }
  | 1 => { c with a := true, bw := false }
  | 2 => { c with a := false, cw := true }
  | 3 => { c with a := false, cw := false }

/-- The victim the replacement bits name (R106). -/
def CacheSet.victim (c : CacheSet) : Fin 4 :=
  if c.a then (if c.cw then 3 else 2) else (if c.bw then 1 else 0)

/-- The way a placement takes: the lowest invalid way, else the victim (R106). -/
def CacheSet.target (c : CacheSet) : Fin 4 :=
  match allWays.find? fun w => !c.ways[w].valid with
  | some w => w
  | none => c.victim

/-- The set with a new entry placed (R102). -/
def CacheSet.place (c : CacheSet) (handle track bucket index : Nat) : CacheSet :=
  let w := c.target
  { c with ways := setAt c.ways w ⟨true, handle, track, bucket, index⟩ }.touch w

/-- The greatest anchor number below `m` whose anchor is at or before `t`, or 0 (R101). -/
def anchorBefore (anchor : Nat → Nat) (t : Nat) : Nat → Nat
  | 0 => 0
  | m + 1 => if anchor m ≤ t then m else anchorBefore anchor t m

/-- The bucket index found by the anchors: the walk from entry 32k to the bucket start (R101). -/
def bucketIndex (m : List Host.Cell) (x : TitleTrack) (start : Nat) : Nat :=
  let k := anchorBefore (anchorAt m x.title x.track) start x.track.anchorCount
  walkTrack m x start (Config.anchorSpan * k)

/-- Relocation: the bucket index for the instant, from the position cache or the anchors, and the Cue Locator with the
access or placement and the statistic (R98 to R102). -/
def relocate (m : List Host.Cell) (x : TitleTrack) (handle track t : Nat) (c : CueBlock) : Nat × CueBlock :=
  let bucket := t / Config.bucketTicks
  let i := cacheSet handle track bucket
  let set := c.sets[i]
  match set.find handle track bucket with
  | some w =>
    (set.ways[w].index, { c with sets := setAt c.sets i (set.touch w), hits := bump c.hits })
  | none =>
    let index := bucketIndex m x (Config.bucketTicks * bucket)
    (index, { c with
      sets := setAt c.sets i (set.place handle track bucket index)
      misses := bump c.misses })

/-- The cursor of `(a, t)`. -/
def CueBlock.cursor (c : CueBlock) (a : Aud) (t : TrackNo) : Cursor := c.cursors[a][t]

/-- The Cue Locator with the cursor of `(a, t)` changed. -/
def CueBlock.setCursor (c : CueBlock) (a : Aud) (t : TrackNo) (x : Cursor) : CueBlock :=
  { c with cursors := modAt c.cursors a fun v => setAt v t x }

/-- A lookup on track `x`, handle `h`, at the instant `sair` (R92, R93, R95). -/
def lookupTrack (m : List Host.Cell) (x : TitleTrack) (h : TitleNo) (a : Aud) (t : TrackNo) (sair : Nat)
    (c : CueBlock) : Found × CueBlock :=
  let cur := c.cursor a t
  let from_ :=
    if !cur.valid || sair < cur.placedAt then relocate m x (handle h) t.val sair c else (cur.index, c)
  let index := walkTrack m x sair from_.1
  let active := index < x.track.n && entryStart m x.title x.track index ≤ sair
  (⟨index, active⟩, from_.2.setCursor a t ⟨true, index, sair⟩)

/-- A lookup for auditorium `a`, track `t` at `sair`: what it returns and the Cue Locator after it. For a track its
title does not have it returns no active entry and changes nothing (R92). -/
def lookup (s : State) (a : Aud) (t : TrackNo) (sair : Nat) : Found × CueBlock :=
  match s.shows[a].title with
  | none => (⟨0, false⟩, s.cues)
  | some h =>
    match trackOf s a t with
    | none => (⟨0, false⟩, s.cues)
    | some x => lookupTrack s.titles.cue x h a t sair s.cues

/-- All eight cursors of the auditorium become clear (R97). -/
def State.clearCursors (s : State) (a : Aud) : State :=
  { s with cues := { s.cues with cursors := setAt s.cues.cursors a (fillTable 8 Cursor.clear) } }

/-- A way that names the released handle becomes invalid; its other fields keep their values (R107). -/
def Way.invalidateFor (w : Way) (handle : Nat) : Way :=
  if w.valid && w.handle == handle then { w with valid := false } else w

/-- Every valid way that names the handle becomes invalid; the replacement bits are unchanged (R107). -/
def CueBlock.forget (c : CueBlock) (handle : Nat) : CueBlock :=
  { c with sets := mapTable (fun x => { x with ways := mapTable (·.invalidateFor handle) x.ways }) c.sets }

/-- The effect of CACHE.PROBE (R110). Bits 3 to 7 of the bits byte, which no rule names, are sent as 0 (the model's
choice, log 28). -/
def cacheProbe (r : Req) (s : State) : State × Reply :=
  let h := at1 r.body 0
  let t := at1 r.body 1
  let b := field r.body 2 2
  if r.body.length ≠ 4 then refuse .badLength s
  else if h < 1 || 24 < h || 7 < t || 8191 < b then refuse .range s
  else
    let i := cacheSet h t b
    let set := s.cues.sets[i]
    let w := set.find h t b
    let index := match w with
      | some w => set.ways[w].index
      | none => 0
    let way := match w with
      | some w => w.val
      | none => 255
    let bits := flag set.a + 2 * flag set.bw + 4 * flag set.cw
    (s, Reply.okData ([byte i.val, byte (flag w.isSome), byte way] ++ le 2 index ++ [byte bits]))

/-- The effect of CACHE.FLUSH (R111). -/
def cacheFlush (r : Req) (s : State) : State × Reply :=
  if r.body.length ≠ 0 then refuse .badLength s
  else ({ s with cues := { s.cues with sets := fillTable 16 CacheSet.clear } }, Reply.ok)

/-- CACHE_PROBE (R110). -/
def execCacheProbe (r : Req) (s : State) : Out := .next (request r kindCacheProbe (cacheProbe r) s)

/-- CACHE_FLUSH (R111). -/
def execCacheFlush (r : Req) (s : State) : Out := .next (request r kindCacheFlush (cacheFlush r) s)

end Sys2Proof.Machine
end

