-- ==== Sys2Proof/Machine/Streams.lean ====
section
/-! DEFINITION. Streams: supply counts, fill starts, the fill, grants, flushes, stream requests and releases, slack and the erase suspension test (chapter 8, R193). -/

namespace Sys2Proof.Machine

/-! ### Supply (R167) -/

/-- The directory entry of a clip number. -/
def clipEntry (s : State) (clip : Nat) : ClipEntry :=
  if h : clip < 1024 then s.store.directory[clip] else ClipEntry.clear

/-- How many blocks the entry supplies: for a defined clip the lesser of ceil(duration / 96) and what the clip has
from the first block; for an undefined one the lesser of that and 4,096 - first block (R167). -/
def supply (dir : ClipEntry) (e : DescEntry) : Nat :=
  let wanted := ceilDiv e.dur Config.blockTicks
  if dir.defined then min wanted (dir.length - e.first) else min wanted (4096 - e.first)

/-- Description entry `i` of a track. -/
def descAt (s : State) (x : TitleTrack) (i : Nat) : DescEntry := descEntry s.titles.cue x.title x.track i

/-- The supply count of description entry `i`. -/
def supplyAt (s : State) (x : TitleTrack) (i : Nat) : Nat :=
  let e := descAt s x i
  supply (clipEntry s e.clip) e

/-- The blocks the track supplies from block `k` of entry `i` on, in order: the rest of entry `i`, then those of every
later entry; each is an entry index and a block (R167). -/
def blocksFrom (s : State) (x : TitleTrack) (i k : Nat) : List (Nat × Nat) :=
  let rest := (descAt s x i).first + supplyAt s x i - k
  (List.range' k rest).map (fun b => (i, b)) ++
    (List.range' (i + 1) (x.track.n - (i + 1))).flatMap fun j =>
      (List.range' (descAt s x j).first (supplyAt s x j)).map fun b => (j, b)

/-- The play time of block `k` of an entry (R9, R163). -/
def playTime (e : DescEntry) (k : Nat) : Nat := e.start + Config.blockTicks * (k - e.first)

/-! ### The stream table -/

/-- The Stream Unit with a stream entry changed. -/
def StreamBlock.setEntry (b : StreamBlock) (i : StreamNo) (x : Stream) : StreamBlock :=
  { b with entries := setAt b.entries i x }

/-- The Stream Unit with an auditorium's statistics changed. -/
def StreamBlock.count (b : StreamBlock) (a : Aud) (f : StreamStats → StreamStats) : StreamBlock :=
  { b with stats := modAt b.stats a f }

/-- The stream that serves `(a, t)` (R162). -/
def StreamBlock.streamOf (b : StreamBlock) (a : Aud) (t : TrackNo) : Option StreamNo :=
  all24.find? fun i => b.entries[i].alloc && b.entries[i].aud == a && b.entries[i].track == t

/-- Is the track marked UNSERVED (R164)? -/
def StreamBlock.isUnserved (b : StreamBlock) (a : Aud) (t : TrackNo) : Bool := b.unserved[a][t]

/-- The UNSERVED mark of a track set or cleared. -/
def StreamBlock.mark (b : StreamBlock) (a : Aud) (t : TrackNo) (x : Bool) : StreamBlock :=
  { b with unserved := modAt b.unserved a fun v => setAt v t x }

/-- The Stream Unit with the next fetch position of an entry changed. -/
def StreamBlock.setNext (b : StreamBlock) (i : StreamNo) (next : Option (Nat × Nat)) : StreamBlock :=
  b.setEntry i { b.entries[i] with next := next }

/-- The Stream Unit with a position at the newest end of an entry's ring (R163). -/
def StreamBlock.push (b : StreamBlock) (i : StreamNo) (p : RingPos) : StreamBlock :=
  b.setEntry i { b.entries[i] with ring := b.entries[i].ring ++ [p] }

/-- The Stream Unit with a fetch record placed for an entry: the record joins the pool, the entry's outstanding count
rises, and an OUTSTANDING position enters its ring (R169, step 3). -/
def StreamBlock.placeFetch (b : StreamBlock) (i : StreamNo) (p : RingPos) : StreamBlock :=
  let st := b.entries[i]
  let r : FetchRecord := ⟨i, st.aud, st.generation, p.flashBlock, p.play⟩
  { b with
    pool := b.pool ++ [r]
    entries := setAt b.entries i { st with ring := st.ring ++ [p], outstanding := st.outstanding + 1 } }

/-! ### The fill (R169) -/

/-- The fill of stream `i` over the blocks its track still supplies, the first of which is its next fetch position. -/
def fillBlocks (s : State) (i : StreamNo) (x : TitleTrack) : List (Nat × Nat) → StreamBlock → StreamBlock
  | [], b => b.setNext i none
  | (e, k) :: rest, b =>
    let st := b.entries[i]
    let d := descAt s x e
    let play := playTime d k
    let dir := clipEntry s d.clip
    if Config.ringSize ≤ st.ring.length then b.setNext i (some (e, k))
    else if play + Config.blockTicks ≤ airing s st.aud then
      fillBlocks s i x rest (b.count st.aud fun c => { c with late := bump c.late })
    else if !dir.defined then
      fillBlocks s i x rest
        ((b.push i ⟨play, .silent, d.clip, k, 0, d.level⟩).count st.aud fun c => { c with silent := bump c.silent })
    else if b.pool.length < Config.poolSize then
      fillBlocks s i x rest (b.placeFetch i ⟨play, .outstanding, d.clip, k, dir.first + k, d.level⟩)
    else b.setNext i (some (e, k))

/-- The fill of stream `i` from its next fetch position (R169). -/
def fill (i : StreamNo) (s : State) : State :=
  let st := s.stream.entries[i]
  match st.next with
  | none => s
  | some (e, k) =>
    match trackOf s st.aud st.track with
    | none => s
    | some x => if st.alloc then { s with stream := fillBlocks s i x (blocksFrom s x e k) s.stream } else s

/-- The next fetch position a lookup's answer gives (R166). -/
def startPosition (s : State) (x : TitleTrack) (f : Found) (sair : Nat) : Option (Nat × Nat) :=
  if f.index < x.track.n then
    let e := descAt s x f.index
    let k := if f.active then e.first + (sair - e.start) / Config.blockTicks else e.first
    (blocksFrom s x f.index k).head?
  else none

/-- A fill start of stream `i` at its auditorium's airing instant, and the fill after it (R166, R169). -/
def startFill (i : StreamNo) (s : State) : State :=
  let st := s.stream.entries[i]
  let sair := airing s st.aud
  match trackOf s st.aud st.track with
  | none => s
  | some x =>
    let r := lookup s st.aud st.track sair
    fill i { s with cues := r.2, stream := s.stream.setNext i (startPosition s x r.1 sair) }

/-! ### Flushes (R176) -/

/-- The ring emptied and the generation raised. -/
def Stream.flush (st : Stream) : Stream := { st with ring := [], generation := st.generation + 1 }

/-- A flush of stream `i` with refill (R176). -/
def refill (i : StreamNo) (s : State) : State :=
  startFill i { s with stream := s.stream.setEntry i s.stream.entries[i].flush }

/-- A flush with refill of the stream of `(a, t)`, if there is one. -/
def refillTrack (a : Aud) (s : State) (t : TrackNo) : State :=
  match s.stream.streamOf a t with
  | some i => refill i s
  | none => s

/-- Every stream of the auditorium is flushed and refills, in ascending track order (R176). -/
def refillAud (a : Aud) (s : State) : State := allTracks.foldl (refillTrack a) s

/-! ### Granting and releasing streams (R164, R165) -/

/-- The lowest FREE stream entry (R164). -/
def StreamBlock.lowestFree (b : StreamBlock) : Option StreamNo := all24.find? fun i => !b.entries[i].alloc

/-- Stream entry `i` is allocated to `(a, t)`: ring empty, generation and outstanding count kept; its fill starts at
once (R164). -/
def allocateStream (i : StreamNo) (a : Aud) (t : TrackNo) (s : State) : State :=
  let st := s.stream.entries[i]
  let granted := { st with alloc := true, aud := a, track := t, next := none, ring := [] }
  startFill i { s with stream := s.stream.setEntry i granted }

/-- A stream request for `(a, t)`: granted the lowest FREE entry, or denied (R164). -/
def requestStream (s : State) (p : Aud × TrackNo) : State :=
  match s.stream.lowestFree with
  | some i => allocateStream i p.1 p.2 s
  | none =>
    { s with
      stream := { s.stream.mark p.1 p.2 true with denials := bump s.stream.denials }
      link := s.link.latchStreamDenied p.1 }

/-- The UNSERVED track of lowest auditorium and track whose subscriber count is 1 or more (R165). -/
def waitingTrack (s : State) : Option (Aud × TrackNo) :=
  allPairs.find? fun p => s.stream.isUnserved p.1 p.2 && 1 ≤ s.rcv.counts[p.1][p.2]

/-- A freed stream entry is handed to the waiting track, if there is one (R165). -/
def handOnEntry (i : StreamNo) (s : State) : State :=
  match waitingTrack s with
  | some p => allocateStream i p.1 p.2 { s with stream := s.stream.mark p.1 p.2 false }
  | none => s

/-- The stream entry after its release: flushed, FREE, ended (R165). -/
def Stream.release (st : Stream) : Stream := { st.flush with alloc := false, next := none }

/-- A release of `(a, t)` by a falling edge (R165). -/
def releaseStream (s : State) (p : Aud × TrackNo) : State :=
  if s.stream.isUnserved p.1 p.2 then { s with stream := s.stream.mark p.1 p.2 false }
  else
    match s.stream.streamOf p.1 p.2 with
    | some i => handOnEntry i { s with stream := s.stream.setEntry i s.stream.entries[i].release }
    | none => s

/-- The falling edges of an event: DESCRIPTION tracks whose count went to 0 (R130). -/
def fallingEdges (before : Vector (Vector Nat 8) 16) (s : State) : List (Aud × TrackNo) :=
  allPairs.filter fun p =>
    isKind s .description p.1 p.2 && 1 ≤ before[p.1][p.2] && s.rcv.counts[p.1][p.2] == 0

/-- The rising edges of an event: DESCRIPTION tracks whose count left 0 (R130). -/
def risingEdges (before : Vector (Vector Nat 8) 16) (s : State) : List (Aud × TrackNo) :=
  allPairs.filter fun p =>
    isKind s .description p.1 p.2 && before[p.1][p.2] == 0 && 1 ≤ s.rcv.counts[p.1][p.2]

/-- The edges of an event are handed on: the falling ones, then the rising ones, each list ascending (R131). `before`
holds the subscriber counts before the event. -/
def handEdges (before : Vector (Vector Nat 8) 16) (s : State) : State :=
  (risingEdges before s).foldl requestStream ((fallingEdges before s).foldl releaseStream s)

/-! ### Slack, grants and the suspension test (R170, R172, R193) -/

/-- The slack of a fetch record (R172). -/
def slack (s : State) (r : FetchRecord) : Int := (r.play : Int) - airing s r.aud

/-- The slack of the next position of a stream that waits for room: allocated, with room in its ring and a next fetch
position that is not ended (R169, R170; log 23). -/
def waitingSlack (s : State) (i : StreamNo) : Option Int :=
  let st := s.stream.entries[i]
  if st.alloc && st.ring.length < Config.ringSize then
    match st.next, trackOf s st.aud st.track with
    | some (e, k), some x => some ((playTime (descAt s x e) k : Int) - airing s st.aud)
    | _, _ => none
  else none

/-- The waiting stream whose next position has the least slack, ties to the lower stream number (R170). -/
def leastWaiting (s : State) : Option StreamNo :=
  leastBy (fun i => (waitingSlack s i).getD 0) (all24.filter fun i => (waitingSlack s i).isSome)

/-- The grant of room: while the pool has a free place and a stream waits, the waiting stream of least slack fills
(R170; log 12). A grant fills the pool or ends its stream's waiting, so 24 rounds are enough. -/
def grantRoom : Nat → State → State
  | 0, s => s
  | n + 1, s =>
    if Config.poolSize ≤ s.stream.pool.length then s
    else
      match leastWaiting s with
      | some i => grantRoom n (fill i s)
      | none => s

/-- Does some pool record have slack below U (R173, R193)? -/
def urgent (s : State) : Bool := s.stream.pool.any fun r => slack s r < s.store.margin

/-- The suspension test: an IN_FLIGHT erase stops when some pool record has slack below U, unless a RESET waits for it
(R193, R199). -/
def suspendTest (s : State) : State :=
  match s.store.op with
  | .erase .inFlight sector =>
    if urgent s && s.link.resetTag.isNone then
      { s with store := { s.store with
          op := .erase .suspended sector
          use := .idle
          suspensions := bump s.store.suspensions } }
    else s
  | _ => s

end Sys2Proof.Machine
end

