-- ==== Sys2Proof/Machine/Clock.lean ====
section
/-! DEFINITION. Show clock discipline: the house tick, POSITION with its step, slew and pre-roll, and the silence monitor (chapter 4). -/

namespace Sys2Proof.Machine

/-! ### The house tick (R67, R69, R70) -/

/-- Is the state one in which the clock advances (R69)? -/
def ShowState.advances (x : ShowState) : Bool := x == .running || x == .freewheel

/-- P after one advance (R69). -/
def advancePos (c : AudClock) : Nat := min ((c.pos : Int) + Config.subTicks + c.trim).toNat Config.maxPos

/-- The advance of one auditorium at a house tick; an advance that brings P to saturation latches END (R69, R70). -/
def advanceAud (s : State) (a : Aud) : State :=
  let c := s.clock.auds[a]
  if s.shows[a].state.advances then
    let s1 := s.setClock a { c with pos := advancePos c }
    if advancePos c = Config.maxPos ∧ c.pos < Config.maxPos then s1.latchAud .endReached a else s1
  else s

/-- What the house tick that made H `h` makes due: the silence boundaries of R80, a house second boundary (R67), and
the load idle expiries of R43 (log 4). -/
def dueAt (s : State) (h : BitVec 32) : Due where
  silence := Vector.ofFn fun a => s.due.silence[a] || h.toNat % s.clock.auds[a].interval == 0
  second := s.due.second || h.toNat % Config.houseSecond == 0
  expiry := s.due.expiry
  idle := Vector.ofFn fun t =>
    (s.title t).state == .loading &&
      Config.houseSecond * s.loader.idleTime ≤ (h - (s.title t).lastActivity).toNat

/-- A house tick: H rises by 1, each running clock advances, what falls due is marked, and the suspension test follows
(R67, R69, R70, R193). -/
def houseTick (s : State) : State :=
  let h := s.clock.h + 1
  let s1 := { s with clock := { s.clock with h := h }, due := dueAt s h }
  suspendTest (allAuds.foldl advanceAud s1)

/-- HOUSE_TICK (R67). -/
def execHouseTick (s : State) : Out := .next (houseTick s)

/-! ### POSITION (R71 to R78) -/

/-- Ticks per frame of a rate code (R71). -/
def ticksPerFrame : Nat → Option Nat
  | 0 => some 50
  | 1 => some 48
  | 2 => some 40
  | 3 => some 25
  | 4 => some 24
  | 5 => some 20
  | _ => none

/-- A position report after the checks of R71. -/
structure Report where
  reel : Nat
  frame : Nat
  tpf : Nat
  deriving DecidableEq, Repr

/-- The start of a reel: the lengths of the reels before it (R4). -/
def reelStart (reels : List Nat) (r : Nat) : Nat := (reels.take r).sum

/-- The reported show time R, and whether the report was clamped to its reel's last tick (R72). -/
def reported (reels : List Nat) (p : Report) : Nat × Bool :=
  let len := reels.getD p.reel 0
  if p.frame * p.tpf < len then (reelStart reels p.reel + p.frame * p.tpf, false)
  else (reelStart reels p.reel + len - 1, true)

/-- A clock set to show time R (R74, R75). -/
def AudClock.place (c : AudClock) (r : Nat) : AudClock := { c with pos := r * Config.subTicks }

/-- The effects of a moved position that a step and a pre-roll placement share: cursors cleared, streams flushed and
refilled (R74, R75). -/
def moveClock (a : Aud) (r : Nat) (s : State) : State :=
  refillAud a ((s.setClock a (s.clock.auds[a].place r)).clearCursors a)

/-- The pending STEP flag set (R74). -/
def State.flagStep (s : State) (a : Aud) : State :=
  { s with frame := { s.frame with auds := modAt s.frame.auds a fun f => { f with stepPending := true } } }

/-- A step: P set, cursors cleared, streams flushed and refilled, the pending STEP flag set, the step counted and STEP
latched (R74). -/
def stepClock (a : Aud) (r : Nat) (s : State) : State :=
  let s1 := (moveClock a r s).flagStep a
  let c := s1.clock.auds[a]
  (s1.setClock a { c with steps := bump c.steps }).latchAud .step a

/-- A trim within its limits (R77). -/
def clampTrim (t : Int) : Int := max (-Config.maxTrim) (min t Config.maxTrim)

/-- A slew by the error `e` (R77). -/
def AudClock.slew (c : AudClock) (e : Int) : AudClock :=
  { c with
    pos := ((c.pos : Int) + e.tdiv 4).toNat
    trim := clampTrim (c.trim + e.tdiv (2 ^ c.gain)) }

/-- The error of a report: R x 65,536 - P (R73). -/
def errorOf (c : AudClock) (r : Nat) : Int := (r * Config.subTicks : Nat) - (c.pos : Int)

/-- Does the report step in RUNNING or FREEWHEEL: |E| at least J x 65,536 (R76)? -/
def jumps (c : AudClock) (r : Nat) : Bool := c.jump * Config.subTicks ≤ (errorOf c r).natAbs

/-- The state with the context's state changed. -/
def State.setShowState (s : State) (a : Aud) (x : ShowState) : State := s.setShow a { s.shows[a] with state := x }

/-- The handling of a report by the context state (R73). -/
def handleReport (a : Aud) (r : Nat) (s : State) : State :=
  let c := s.clock.auds[a]
  match s.shows[a].state with
  | .dark => s
  | .armed => moveClock a r s
  | .held => stepClock a r s
  | .lost => stepClock a r (s.setShowState a .running)
  | .running => if jumps c r then stepClock a r s else s.setClock a (c.slew (errorOf c r))
  | .freewheel =>
    let s1 := s.setShowState a .running
    if jumps c r then stepClock a r s1 else s1.setClock a (c.slew (errorOf c r))

/-- A report clamped to its reel latches END_OF_REEL and counts a reel clamp (R72). -/
def clampReel (a : Aud) (s : State) : State :=
  let c := s.clock.auds[a]
  (s.setClock a { c with reelClamps := bump c.reelClamps }).latchAud .endOfReel a

/-- The silence count becomes 0 (R73, R82). -/
def clearSilence (a : Aud) (s : State) : State := s.setClock a { s.clock.auds[a] with silence := 0 }

/-- A taken POSITION (R72, R73), and the suspension test (R193). -/
def positionTaken (a : Aud) (r : Nat) (clamped : Bool) (s : State) : State :=
  let s1 := if clamped then clampReel a s else s
  suspendTest (clearSilence a (handleReport a r s1))

/-- The checks of R52 and then of R71 on a POSITION, in order: the auditorium, its reel table and the report. -/
def admitPosition (r : Req) (s : State) : Except Code (Aud × List Nat × Report) :=
  match admitShow r 6 false s with
  | .error c => .error c
  | .ok a =>
    if s.shows[a].state = .dark then .error .wrongState
    else
      match ticksPerFrame (at1 r.body 5) with
      | none => .error .range
      | some tpf =>
        let frame := field r.body 2 3
        let reels := ((titleOf s a).map (·.reels)).getD []
        if 1048575 < frame then .error .range
        else if reels.length ≤ at1 r.body 1 then .error .reelUnknown
        else .ok (a, reels, ⟨at1 r.body 1, frame, tpf⟩)

/-- The effect of POSITION (R71 to R73). -/
def position (r : Req) (s : State) : State × Reply :=
  match admitPosition r s with
  | .error c => refuse c s
  | .ok x =>
    let m := reported x.2.1 x.2.2
    (positionTaken x.1 m.1 m.2 s, Reply.okClamped m.2)

/-- POSITION (R73). -/
def execPosition (r : Req) (s : State) : Out := .next (request r kindPosition (position r) s)

/-! ### The silence monitor (R80, R81) -/

/-- The state change a new silence count makes: RUNNING to FREEWHEEL at 2, FREEWHEEL to LOST at 3, with the streams
flushed and refilled at the stopped airing instant (R81). -/
def silenceReached (a : Aud) (n : Nat) (s : State) : State :=
  if s.shows[a].state = .running ∧ n = 2 then (s.setShowState a .freewheel).latchAud .freewheel a
  else if s.shows[a].state = .freewheel ∧ n = 3 then
    refillAud a ((s.setShowState a .lost).latchAud .lost a)
  else s

/-- A silence boundary of an auditorium, due at a house tick, is taken (R80, R81; log 4). -/
def silenceBoundary (a : Aud) (s : State) : State :=
  if s.due.silence[a] then
    let s1 := { s with due := { s.due with silence := setAt s.due.silence a false } }
    if s1.shows[a].state.advances then
      let c := s1.clock.auds[a]
      let n := min (c.silence + 1) 3
      suspendTest (silenceReached a n (s1.setClock a { c with silence := n }))
    else s1
  else s

/-- SILENCE_BOUNDARY (R80). -/
def execSilenceBoundary (a : Aud) (s : State) : Out := .next (silenceBoundary a s)

end Sys2Proof.Machine
end

