-- ==== Sys2Proof/Machine/Frames.lean ====
section
/-! DEFINITION. Frame composition: payload sections, the budget, and PULL (chapter 7). -/

namespace Sys2Proof.Machine

/-! ### Sections (R145, R214) -/

/-- Why a SILENCE section stands for a block (R145). -/
inductive SilenceReason
  | underrun | bad | silent | unserved
  deriving DecidableEq, Repr

/-- A payload section (R145). -/
inductive Section
  | caption (track : TrackNo) (entry : CaptionEntry) (isRepeat : Bool) (text : List Byte)
  | clear (track : TrackNo) (nextStart : Nat)
  | audio (track : TrackNo) (level play clip block : Nat) (data : List Byte)
  | silence (track : TrackNo) (reason : SilenceReason) (play clip block : Nat)
  deriving DecidableEq, Repr

/-- The code of a SILENCE reason (R214). -/
def SilenceReason.toNat : SilenceReason → Nat
  | .underrun => 0
  | .bad => 1
  | .silent => 2
  | .unserved => 3

/-- The kind and track byte of a section (R214). Bit 3, which no rule names, is sent as 0 (the model's choice, log 28). -/
def kindTrack (kind : Nat) (t : TrackNo) : Byte := byte (16 * kind + t.val)

/-- The bytes AUDIO and SILENCE share: level or reason with play-time bit 24, play time, clip and block (R214). The bits
between level or reason and bit 7, and bits 10 and 11 of the clip and block field, which no rule names, are sent as 0 (the
model's choice, log 28). -/
def blockBytes (kind : Nat) (t : TrackNo) (low play clip block : Nat) : List Byte :=
  [kindTrack kind t, byte (low + 128 * (play / 16777216 % 2))] ++ le 3 play ++ le 3 (packClip clip block)

/-- The bytes of a section (R214). Bits 3 to 7 of a CAPTION's bits byte, which no rule names, are sent as 0 (the model's
choice, log 28). -/
def Section.bytes : Section → List Byte
  | .caption t e rep text =>
    [kindTrack 1 t, byte (flag e.top + 2 * flag e.italic + 4 * flag rep), byte text.length] ++
      le 3 e.start ++ le 2 e.dur ++ text
  | .clear t nextStart => kindTrack 2 t :: le 3 nextStart
  | .audio t level play clip block data => blockBytes 3 t level play clip block ++ data
  | .silence t reason play clip block => blockBytes 4 t reason.toNat play clip block

/-- The size of a section in bytes (R145). -/
def Section.size (x : Section) : Nat := x.bytes.length

/-- The code of a context state in the header (R214). -/
def ShowState.toNat : ShowState → Nat
  | .dark => 0
  | .armed => 1
  | .running => 2
  | .held => 3
  | .freewheel => 4
  | .lost => 5

/-- What the header says beside the section count (R143). -/
structure Header where
  aud : Aud
  state : ShowState
  sair : Nat
  lead : Nat
  repeatPeriod : Nat
  seq : BitVec 16
  stepFlag : Bool
  deriving DecidableEq, Repr

/-- The 12 bytes of the header (R143, R214). DEGRADED is set in FREEWHEEL. Bits 2 to 7 of the flags byte, which no rule
names, are sent as 0 (the model's choice, log 28). -/
def Header.bytes (x : Header) (sections : Nat) : List Byte :=
  [byte x.aud.val, byte x.state.toNat] ++ le 3 x.sair ++ le 2 x.lead ++ [byte x.repeatPeriod] ++ le 2 x.seq.toNat ++
    [byte sections, byte (flag x.stepFlag + 2 * flag (x.state == .freewheel))]

/-! ### Composing within the budget (R146) -/

/-- A payload in the making: bytes left, sections placed, and the state so far. -/
structure Compose where
  room : Nat
  sections : List Section
  state : State

/-- What a PULL fixes when it is taken: the auditorium, the air port and its parameters, and the airing instant
(R142). -/
structure PullContext where
  aud : Aud
  port : Fin 2
  sair : Nat
  window : Nat
  period : Nat

/-- One more in the port's deferred statistic (R146). -/
def State.countDeferred (s : State) (p : Fin 2) : State :=
  { s with frame := { s.frame with air := modAt s.frame.air p fun x => { x with deferred := bump x.deferred } } }

/-- A section is offered: placed, with the effect of its placing, when it fits, else skipped and counted (R146). The
flag says whether it was placed. -/
def offer (k : PullContext) (x : Section) (placed : State → State) (c : Compose) : Compose × Bool :=
  if x.size ≤ c.room then (⟨c.room - x.size, c.sections ++ [x], placed c.state⟩, true)
  else ({ c with state := c.state.countDeferred k.port }, false)

/-! ### Audio (R148 to R152) -/

/-- The oldest position leaves the ring of stream `i`. -/
def StreamBlock.pop (b : StreamBlock) (i : StreamNo) : StreamBlock :=
  b.setEntry i { b.entries[i] with ring := b.entries[i].ring.tail }

/-- How many positions from the oldest are late at the instant: play time + 96 at or before it (R149). -/
def lateCount (sair : Nat) (ring : List RingPos) : Nat :=
  (ring.takeWhile fun p => p.play + Config.blockTicks ≤ sair).length

/-- `n` more in a statistic, holding at 65,535. -/
def bumpBy : Nat → Stat → Stat
  | 0, x => x
  | n + 1, x => bumpBy n (bump x)

/-- The late positions of stream `i` leave its ring, each counted late, and the ring fills (R149, R169; log 11). -/
def removeLate (k : PullContext) (i : StreamNo) (s : State) : State :=
  let st := s.stream.entries[i]
  let n := lateCount k.sair st.ring
  if n = 0 then s
  else
    fill i { s with stream :=
      (s.stream.setEntry i { st with ring := st.ring.drop n }).count k.aud fun c => { c with late := bumpBy n c.late } }

/-- Late removal of a track that has a stream (R149). -/
def removeLateTrack (k : PullContext) (s : State) (t : TrackNo) : State :=
  match s.stream.streamOf k.aud t with
  | some i => removeLate k i s
  | none => s

/-- The section a due ring position is offered as (R150). -/
def RingPos.sectionFor (p : RingPos) (t : TrackNo) : Section :=
  match p.state with
  | .present data => .audio t p.level p.play p.clip p.block data
  | .outstanding => .silence t .underrun p.play p.clip p.block
  | .bad => .silence t .bad p.play p.clip p.block
  | .silent => .silence t .silent p.play p.clip p.block

/-- A position placed in the payload leaves the ring, an OUTSTANDING one counted as an underrun, and the ring fills
(R150, R169; log 11). -/
def takePosition (k : PullContext) (i : StreamNo) (p : RingPos) (s : State) : State :=
  let b := s.stream.pop i
  let b' := if p.state = .outstanding then b.count k.aud fun c => { c with underruns := bump c.underruns } else b
  fill i { s with stream := b' }

/-- The oldest position of stream `i` is offered if it is due (R150). -/
def offerDue (k : PullContext) (t : TrackNo) (i : StreamNo) (c : Compose) : Compose × Bool :=
  match c.state.stream.entries[i].ring.head? with
  | none => (c, false)
  | some p =>
    if p.play < k.sair + k.window then offer k (p.sectionFor t) (takePosition k i p) c else (c, false)

/-- The first due block of a track, or the SILENCE of an UNSERVED one; the tracks whose block was placed are gathered
(R150, R152). -/
def offerFirst (k : PullContext) (acc : Compose × List TrackNo) (t : TrackNo) : Compose × List TrackNo :=
  match acc.1.state.stream.streamOf k.aud t with
  | some i =>
    let q := offerDue k t i acc.1
    (q.1, if q.2 then acc.2 ++ [t] else acc.2)
  | none =>
    if acc.1.state.stream.isUnserved k.aud t then
      ((offer k (.silence t .unserved k.sair 0 0) id acc.1).1, acc.2)
    else acc

/-- The second due block of a track whose first was placed (R151). -/
def offerSecond (k : PullContext) (c : Compose) (t : TrackNo) : Compose :=
  match c.state.stream.streamOf k.aud t with
  | some i => (offerDue k t i c).1
  | none => c

/-- The audio of a payload for the subscribed DESCRIPTION tracks, ascending: late removal, first blocks, second blocks
(R148 to R152). -/
def composeAudio (k : PullContext) (tracks : List TrackNo) (c : Compose) : Compose :=
  let c1 := { c with state := tracks.foldl (removeLateTrack k) c.state }
  let q := tracks.foldl (offerFirst k) (c1, [])
  q.2.foldl (offerSecond k) q.1

/-! ### Captions (R154 to R157) -/

/-- The Frame Builder state of an auditorium changed. -/
def State.modFrame (s : State) (a : Aud) (f : FrameAud → FrameAud) : State :=
  { s with frame := { s.frame with auds := modAt s.frame.auds a f } }

/-- A placed CAPTION or CLEAR: the sent state and the countdown of its track (R154, R155). -/
def markSent (k : PullContext) (t : TrackNo) (x : Sent) (s : State) : State :=
  s.modFrame k.aud fun f => { f with sent := setAt f.sent t x, countdown := setAt f.countdown t k.period }

/-- The current value of a track (R154). -/
def Found.current (f : Found) : Sent := if f.active then .entry f.index else .noCue

/-- The next start a CLEAR carries: the start of the lookup's entry, or 16,777,215 at the end of the track (R145). -/
def nextStart (s : State) (x : TitleTrack) (f : Found) : Nat :=
  if f.index < x.track.n then entryStart s.titles.cue x.title x.track f.index else Config.maxShow

/-- The section that airs what the lookup found: the CAPTION of its entry, or a CLEAR (R145, R154). -/
def captionSection (s : State) (x : TitleTrack) (t : TrackNo) (f : Found) (isRepeat : Bool) : Section :=
  if f.active then
    let e := captionEntry s.titles.cue x.title x.track f.index
    .caption t e isRepeat (captionText s.titles.cue x.title e)
  else .clear t (nextStart s x f)

/-- What a PULL found for a caption track, and whether it is changed. -/
structure CaptionLook where
  track : TrackNo
  found : Found
  changed : Bool
  deriving DecidableEq, Repr

/-- One subscribed CAPTION track: its lookup, and its section if it is changed (R154). -/
def offerChanged (k : PullContext) (acc : Compose × List CaptionLook) (t : TrackNo) : Compose × List CaptionLook :=
  let c := acc.1
  match trackOf c.state k.aud t with
  | none => acc
  | some x =>
    let r := lookup c.state k.aud t k.sair
    let c1 := { c with state := { c.state with cues := r.2 } }
    let changed := decide (c.state.frame.auds[k.aud].sent[t] ≠ r.1.current)
    let c2 :=
      if changed then (offer k (captionSection c.state x t r.1 false) (markSent k t r.1.current) c1).1 else c1
    (c2, acc.2 ++ [⟨t, r.1, changed⟩])

/-- The tracks in repeat order: from the one after the rotation index through 7, then 0 up to it (R156). -/
def repeatOrder (rotation : TrackNo) : List TrackNo := allTracks.map fun j => rotation + 1 + j

/-- The repeat candidates in order: unchanged tracks whose countdown is 0 (R156). -/
def candidates (k : PullContext) (s : State) (looks : List CaptionLook) : List CaptionLook :=
  (repeatOrder s.frame.air[k.port].rotation).filterMap fun t =>
    looks.find? fun l => l.track == t && !l.changed && s.frame.auds[k.aud].countdown[t] == 0

/-- A placed repeat: the countdown reloads and the port's rotation index moves (R156). -/
def markRepeat (k : PullContext) (t : TrackNo) (s : State) : State :=
  let s1 := s.modFrame k.aud fun f => { f with countdown := setAt f.countdown t k.period }
  { s1 with frame := { s1.frame with air := modAt s1.frame.air k.port fun x => { x with rotation := t } } }

/-- One repeat candidate is offered (R156). -/
def offerRepeat (k : PullContext) (c : Compose) (l : CaptionLook) : Compose :=
  match trackOf c.state k.aud l.track with
  | none => c
  | some x => (offer k (captionSection c.state x l.track l.found true) (markRepeat k l.track) c).1

/-- Changed captions, then repeats, for the subscribed CAPTION tracks, ascending (R154, R156). -/
def composeCaptions (k : PullContext) (tracks : List TrackNo) (c : Compose) : Compose :=
  let q := tracks.foldl (offerChanged k) (c, [])
  (candidates k q.1.state q.2).foldl (offerRepeat k) q.1

/-- The CLEAR of a track in LOST (R157). -/
def offerLostClear (k : PullContext) (c : Compose) (t : TrackNo) : Compose :=
  (offer k (.clear t Config.maxShow) (markSent k t .noCue) c).1

/-! ### PULL (R141, R142) -/

/-- The subscribed tracks of the auditorium of a kind, ascending (R142). -/
def subscribed (s : State) (k : TrackKind) (a : Aud) : List TrackNo :=
  allTracks.filter fun t => isKind s k a t && 1 ≤ s.rcv.counts[a][t]

/-- Steps 1 to 4 of R142 on the auditorium's Frame Builder state: the sequence number rises, unsubscribed tracks are
cleared, countdowns fall, and the pending STEP flag is taken. -/
def FrameAud.begin (f : FrameAud) (captions : List TrackNo) : FrameAud where
  seq := f.seq + 1
  stepPending := false
  sent := Vector.ofFn fun t => if captions.contains t then f.sent[t] else .nothing
  countdown := Vector.ofFn fun t => if captions.contains t then f.countdown[t] - 1 else 0

/-- Step 5 of R142: the sections by the context state (R144). -/
def composeSections (k : PullContext) (x : ShowState) (audio captions : List TrackNo) (c : Compose) : Compose :=
  match x with
  | .dark => c
  | .armed => c
  | .running => composeCaptions k captions (composeAudio k audio c)
  | .freewheel => composeCaptions k captions (composeAudio k audio c)
  | .held => composeCaptions k captions c
  | .lost => captions.foldl (offerLostClear k) c

/-- A taken PULL of auditorium `a` on air port `p`: the payload and the state after it, the suspension test last
(R142, R193). -/
def pullTaken (p : Fin 2) (a : Aud) (s : State) : State × Reply :=
  let air := s.frame.air[p]
  let sair := min (showTime s.clock.auds[a] + air.lead) Config.maxShow
  let k : PullContext := ⟨a, p, sair, air.window, air.repeatPeriod⟩
  let captions := subscribed s .caption a
  let f := s.frame.auds[a]
  let s1 := s.modFrame a fun f => f.begin captions
  let head : Header := ⟨a, s.shows[a].state, sair, air.lead, air.repeatPeriod, f.seq + 1, f.stepPending⟩
  let c := composeSections k s.shows[a].state (subscribed s .description a) captions ⟨air.capacity - 12, [], s1⟩
  (suspendTest c.state, Reply.okData (head.bytes c.sections.length ++ c.sections.flatMap Section.bytes))

/-- PULL on air port `p` (R141). -/
def pullOn (p : Fin 2) (body : List Byte) (s : State) : State × Reply :=
  if body.length ≠ 1 then refuse .badLength s
  else
    match audOf (at1 body 0) with
    | none => refuse .range s
    | some a => if s.shows[a].airPort ≠ some p then refuse .notOwner s else pullTaken p a s

/-- The effect of PULL: it is valid on the air ports alone (R141, R205). -/
def pull (r : Req) (s : State) : State × Reply :=
  match r.port with
  | .air p => pullOn p r.body s
  | .feed _ => refuse .unknownRequest s
  | .m => refuse .unknownRequest s

/-- PULL (R142). -/
def execPull (r : Req) (s : State) : Out := .next (request r kindPull (pull r) s)

end Sys2Proof.Machine
end

