-- ==== Sys2Proof/Machine/Loading.lean ====
section
/-! DEFINITION. Titles and their loading: LOAD.OPEN, LOAD.DATA, LOAD.FINISH, LOAD.ABORT, the finishing work's two ends, the idle timeout, and UNLOAD (chapters 1 and 2). -/

namespace Sys2Proof.Machine

/-! ### Failure (R41) -/

/-- A load fails: the title becomes FREE, its region returns, its load context closes, and LOAD_FAILED is latched on its
loader port with the handle and reason, together (R41). -/
def failLoad (t : TitleNo) (reason : FailReason) (s : State) : State :=
  let s1 := s.freeTitle t
  match (s.title t).loader with
  | some p => { s1 with link := s1.link.latchLoadFailed p t reason }
  | none => s1

/-- The response code of a failure reason (R34, R41). TIMEOUT answers no request. -/
def FailReason.code : FailReason → Code
  | .order => .order
  | .overflow => .overflow
  | .range => .range
  | .timeout => .wrongState

/-! ### LOAD.OPEN (R27 to R30) -/

/-- The READY title that holds the key (R3, R28). -/
def readyWithKey (s : State) (key : BitVec 64) : Option TitleNo :=
  all24.find? fun t => (s.title t).state == .ready && (s.title t).key == key

/-- Does a LOADING or FINISHING title hold the key (R3, R28)? -/
def keyIsLoading (s : State) (key : BitVec 64) : Bool :=
  all24.any fun t => ((s.title t).state == .loading || (s.title t).state == .finishing) && (s.title t).key == key

/-- The lowest-numbered FREE record (R3). -/
def lowestFreeTitle (s : State) : Option TitleNo := all24.find? fun t => (s.title t).state == .free

/-- The title a declaration opens, with its region at `base` (R29). -/
def Decl.title (d : Decl) (p : LoadPort) (base : Nat) (now : BitVec 32) : Title where
  state := .loading
  key := d.key
  loader := some p
  base := base
  count := d.regionSlots
  textBytes := d.textBytes
  fill := 0
  reels := d.reels
  tracks := layTracks 0 (d.entries + ceilDiv d.textBytes Config.slotBytes) d.tracks
  clips := []
  refs := 0
  lastActivity := now

/-- How many bytes of the last text slot lie beyond X; they hold zero (R10). -/
def Decl.padding (d : Decl) : Nat := ceilDiv d.textBytes Config.slotBytes * Config.slotBytes - d.textBytes

/-- The OK of LOAD.OPEN: record `t` opened for port `p`, its region at `base`, `free` the list left (R29). -/
def openTitle (d : Decl) (p : LoadPort) (t : TitleNo) (base : Nat) (free : List Extent) (s : State) : State :=
  let padAt := (base + d.entries) * Config.slotBytes + d.textBytes
  { s with
    titles := {
      recs := setAt s.titles.recs t (d.title p base s.clock.h)
      free := free
      cue := Memory.clear s.titles.cue padAt d.padding }
    loader := { s.loader with ctx := setAt s.loader.ctx p (.loading t) } }

/-- LOAD.OPEN on loading port `p` (R28). -/
def loadOpenOn (p : LoadPort) (body : List Byte) (s : State) : State × Reply :=
  match readDecl body with
  | none => refuse .badLength s
  | some d =>
    match readyWithKey s d.key with
    | some t => (s, ⟨.alreadyLoaded, false, [byte (handle t)]⟩)
    | none =>
      if keyIsLoading s d.key then refuse .busy s
      else if s.loader.ctx[p] ≠ .closed then refuse .busy s
      else if !d.inRange then refuse .range s
      else
        match lowestFreeTitle s with
        | none => refuse .tableFull s
        | some t =>
          match allocateRegion d.regionSlots s.titles.free with
          | none => refuse .noSpace s
          | some r => (openTitle d p t r.1 r.2 s, Reply.okData [byte (handle t)])

/-- The effect of LOAD.OPEN (R28). -/
def loadOpen (r : Req) (s : State) : State × Reply :=
  match loadPort r.port with
  | some p => loadOpenOn p r.body s
  | none => refuse .unknownRequest s

/-- LOAD_OPEN (R28). -/
def execLoadOpen (r : Req) (s : State) : Out := .next (request r kindLoadOpen (loadOpen r) s)

/-! ### Admission (R26) -/

/-- The admission checks of LOAD.DATA, LOAD.FINISH and LOAD.ABORT, in order (R26). -/
def admitLoad (p : Port) (lengthOk : Bool) (h : Nat) (state : TitleState → Bool) (s : State) : Except Code TitleNo :=
  if !lengthOk then .error .badLength
  else
    match titleOfHandle h with
    | none => .error .range
    | some t =>
      let ti := s.title t
      if ti.state = .free then .error .wrongState
      else if ti.loader ≠ loadPort p then .error .notOwner
      else if !state ti.state then .error .wrongState
      else .ok t

/-- A taken LOAD request sets its title's last activity to the present H (R26). -/
def touchTitle (t : TitleNo) (s : State) : State := s.setTitle t { s.title t with lastActivity := s.clock.h }

/-! ### LOAD.DATA (R31 to R34) -/

/-- How many bytes the character needs whose first byte is `b` (R33). -/
def charBytes (b : Byte) : Nat :=
  let n := b.toNat
  if 0xC0 ≤ n && n ≤ 0xDF then 2
  else if 0xE0 ≤ n && n ≤ 0xEF then 3
  else if 0xF0 ≤ n && n ≤ 0xF7 then 4
  else 1

/-- A continuation byte (R33). -/
def isContinuation (b : Byte) : Bool := 0x80 ≤ b.toNat && b.toNat ≤ 0xBF

/-- How many bytes to cut from the end of a cut text, given its last bytes in reverse: look back over at most three
continuation bytes; `passed` of them are passed so far (R33). -/
def cutBack : Nat → Nat → List Byte → Nat
  | _, _, [] => 0
  | 0, passed, b :: _ => if isContinuation b then 0 else if passed + 1 < charBytes b then passed + 1 else 0
  | n + 1, passed, b :: bs =>
    if isContinuation b then cutBack n (passed + 1) bs
    else if passed + 1 < charBytes b then passed + 1
    else 0

/-- The prepared text of a caption entry, and whether it was cut: at most 96 bytes, not ending inside a character
(R33). -/
def prepareText (text : List Byte) : List Byte × Bool :=
  if text.length ≤ 96 then (text, false)
  else
    let cut := text.take 96
    (cut.take (96 - cutBack 3 0 cut.reverse), true)

/-- The cue store with entry n - 1's effective duration reduced to its gap to a start `start`, when the track has an
entry before it (R11). -/
def shortenLast (cue : List Host.Cell) (ti : Title) (tr : Track) (start : Nat) : List Host.Cell :=
  if tr.n = 0 then cue
  else
    let i := tr.n - 1
    let dur := min (entryDur cue ti tr i) (start - entryStart cue ti tr i)
    Memory.write cueEmpty cue (entrySlot ti tr i * Config.slotBytes + 3) (le 2 dur)

/-- A title with its track `tn` changed. -/
def Title.setTrack (ti : Title) (tn : Nat) (tr : Track) : Title := { ti with tracks := ti.tracks.set tn tr }

/-- The entry's bytes written in its slot, and the track's received count raised (R32, step 5). -/
def storeEntry (t : TitleNo) (tn : Nat) (ti : Title) (tr : Track) (start : Nat) (bytes : List Byte) (s : State) :
    State :=
  let cue := shortenLast s.titles.cue ti tr start
  let slot := entrySlot ti tr tr.n
  { s with titles := { s.titles with
      cue := Memory.write cueEmpty cue (slot * Config.slotBytes) bytes
      recs := setAt s.titles.recs t (ti.setTrack tn { tr with n := tr.n + 1 }) } }

/-- The state with a caption's prepared text at the title's fill count (R10, R33). -/
def placeText (ti : Title) (text : List Byte) (s : State) : State :=
  { s with titles := { s.titles with
      cue := Memory.write cueEmpty s.titles.cue (poolAddr ti + ti.fill) text } }

/-- One entry of a taken LOAD.DATA through the steps of R32: the state and whether its text was cut, or the failure. -/
def appendEntry (t : TitleNo) (tn : Nat) (e : RawEntry) (s : State) : Except FailReason (State × Bool) :=
  let ti := s.title t
  match ti.tracks[tn]? with
  | none => .error .range
  | some tr =>
    if tr.nDecl ≤ tr.n then .error .overflow
    else if !e.inRange then .error .range
    else if 1 ≤ tr.n && e.start < entryStart s.titles.cue ti tr (tr.n - 1) then .error .order
    else
      match e with
      | .caption start dur bits raw =>
        let text := prepareText raw
        if ti.textBytes < ti.fill + text.1.length then .error .overflow
        else
          let entry : CaptionEntry := ⟨start, dur, bit bits 0, bit bits 1, ti.fill, text.1.length⟩
          let grown := { ti with fill := ti.fill + text.1.length }
          .ok (storeEntry t tn grown tr start entry.bytes (placeText ti text.1 s), text.2)
      | .description start dur clipBlock level =>
        let entry : DescEntry := ⟨start, dur, clipOf clipBlock, blockOf clipBlock, level⟩
        .ok (storeEntry t tn ti tr start entry.bytes s, false)

/-- The entries in list order; the first that fails ends the request and the load (R31, R34). The flag says whether an
entry before was cut. -/
def appendEntries (t : TitleNo) (tn : Nat) : List RawEntry → Bool → State → State × Reply
  | [], cut, s => (s, Reply.okClamped cut)
  | e :: es, cut, s =>
    match appendEntry t tn e s with
    | .error reason => (failLoad t reason s, Reply.of reason.code)
    | .ok r => appendEntries t tn es (cut || r.2) r.1

/-- The entries of a LOAD.DATA body, read with the kind of the track it names, when its handle names a title that is
not FREE and has the track; the outer `none` is a length that disagrees (R31). -/
def dataEntries (body : List Byte) (s : State) : Option (List RawEntry) :=
  if body.length < 3 then none
  else
    match titleOfHandle (at1 body 0) with
    | none => some []
    | some t =>
      let ti := s.title t
      if ti.state = .free then some []
      else
        match ti.tracks[at1 body 1]? with
        | none => some []
        | some tr => readEntries tr.kind (at1 body 2) (body.drop 3)

/-- The effect of LOAD.DATA (R26, R31, R34). A taken one whose track the title has and whose entry count is above 16 is
answered RANGE, its entries not examined and the load going on (the model's choice, log 9). -/
def loadData (r : Req) (s : State) : State × Reply :=
  let entries := dataEntries r.body s
  match admitLoad r.port entries.isSome (at1 r.body 0) (· == .loading) s with
  | .error c => refuse c s
  | .ok t =>
    let s1 := touchTitle t s
    if (s.title t).tracks.length ≤ at1 r.body 1 then (failLoad t .range s1, Reply.of .range)
    else if 16 < at1 r.body 2 then refuse .range s1
    else appendEntries t (at1 r.body 1) (entries.getD []) false s1

/-- LOAD_DATA (R31). -/
def execLoadData (r : Req) (s : State) : Out := .next (request r kindLoadData (loadData r) s)

/-! ### LOAD.FINISH and the finishing work (R35 to R38) -/

/-- The effect of LOAD.FINISH (R35). -/
def loadFinish (r : Req) (s : State) : State × Reply :=
  match admitLoad r.port (r.body.length = 1) (at1 r.body 0) (· == .loading) s with
  | .error c => refuse c s
  | .ok t =>
    let s1 := touchTitle t s
    let s2 := s1.setTitle t { s1.title t with state := .finishing }
    match (s.title t).loader with
    | some p => ({ s2 with loader := { s2.loader with ctx := setAt s2.loader.ctx p (.finishing t) } }, Reply.of .accepted)
    | none => (s2, Reply.of .accepted)

/-- LOAD_FINISH (R35). -/
def execLoadFinish (r : Req) (s : State) : Out := .next (request r kindLoadFinish (loadFinish r) s)

/-- A clip number joined to an ascending list of distinct ones (R14). -/
def joinClip (c : Nat) : List Nat → List Nat
  | [] => [c]
  | d :: ds => if c < d then c :: d :: ds else if c = d then d :: ds else d :: joinClip c ds

/-- The clips a DESCRIPTION track's entries name, joined to a list (R14, R37). -/
def trackClips (cue : List Host.Cell) (ti : Title) (l : List Nat) (tr : Track) : List Nat :=
  match tr.kind with
  | .caption => l
  | .description => (List.range tr.n).foldl (fun acc i => joinClip (descEntry cue ti tr i).clip acc) l

/-- The clip list of a title: the distinct clip numbers of its description entries, ascending (R14, R37). -/
def clipList (cue : List Host.Cell) (ti : Title) : List Nat := ti.tracks.foldl (trackClips cue ti) []

/-- The cue store with the anchors of a track written (R13, R36). -/
def writeAnchors (ti : Title) (cue : List Host.Cell) (tr : Track) : List Host.Cell :=
  (List.range (ceilDiv tr.n Config.anchorSpan)).foldl
    (fun m k =>
      Memory.write cueEmpty m ((ti.base + tr.anchorBase + k) * Config.slotBytes)
        (anchorBytes (entryStart cue ti tr (Config.anchorSpan * k)))) cue

/-- The title as completion makes it: READY, anchor counts and clip list set (R38). -/
def Title.complete (ti : Title) (clips : List Nat) : Title :=
  { ti with
    state := .ready
    clips := clips
    tracks := ti.tracks.map fun tr => { tr with anchorCount := ceilDiv tr.n Config.anchorSpan } }

/-- The finishing work completes: anchors, clip list, READY, the context closed and LOAD_DONE latched, together
(R36 to R38). It does not complete when the title names more than 256 clips (R37), nor when it is not FINISHING. -/
def finishingCompletion (t : TitleNo) (s : State) : State :=
  let ti := s.title t
  let clips := clipList s.titles.cue ti
  if ti.state = .finishing ∧ clips.length ≤ Config.clipListMax then
    let s1 := s.closeLoad t
    let s2 := { s1 with titles := { s1.titles with
      recs := setAt s1.titles.recs t (ti.complete clips)
      cue := ti.tracks.foldl (writeAnchors ti) s1.titles.cue } }
    match ti.loader with
    | some p => { s2 with link := s2.link.latchLoadDone p t }
    | none => s2
  else s

/-- FINISHING_COMPLETION (R38). -/
def execFinishingCompletion (t : TitleNo) (s : State) : Out := .next (finishingCompletion t s)

/-- The finishing work finds a 257th distinct clip: the load fails with OVERFLOW (R37). -/
def clipListOverflow (t : TitleNo) (s : State) : State :=
  let ti := s.title t
  if ti.state = .finishing ∧ Config.clipListMax < (clipList s.titles.cue ti).length then failLoad t .overflow s else s

/-- CLIP_LIST_OVERFLOW (R37). -/
def execClipListOverflow (t : TitleNo) (s : State) : Out := .next (clipListOverflow t s)

/-! ### LOAD.ABORT, the idle timeout, UNLOAD (R40, R43, R22) -/

/-- The effect of LOAD.ABORT (R40): the record's FREE values replace the last activity the taken request sets. -/
def loadAbort (r : Req) (s : State) : State × Reply :=
  match admitLoad r.port (r.body.length = 1) (at1 r.body 0) (fun x => x == .loading || x == .finishing) s with
  | .error c => refuse c s
  | .ok t => (s.freeTitle t, Reply.ok)

/-- LOAD_ABORT (R40). -/
def execLoadAbort (r : Req) (s : State) : Out := .next (request r kindLoadAbort (loadAbort r) s)

/-- Ticks since the title's last activity, modulo 2^32 (R43). -/
def idleTicks (s : State) (t : TitleNo) : Nat := (s.clock.h - (s.title t).lastActivity).toNat

/-- Has the title's idle count reached its limit (R43)? -/
def idleExpired (s : State) (t : TitleNo) : Bool :=
  (s.title t).state == .loading && Config.houseSecond * s.loader.idleTime ≤ idleTicks s t

/-- The idle expiry of a LOADING title, due at a house tick, is taken: the load fails with TIMEOUT (R43; log 4). -/
def loadIdleTimeout (t : TitleNo) (s : State) : State :=
  if s.due.idle[t] && idleExpired s t then failLoad t .timeout s else s

/-- LOAD_IDLE_TIMEOUT (R43). -/
def execLoadIdleTimeout (t : TitleNo) (s : State) : Out := .next (loadIdleTimeout t s)

/-- The effect of UNLOAD: the checks of R22 in order, then the title becomes FREE and its position-cache entries become
invalid (R22, R107). -/
def unload (r : Req) (s : State) : State × Reply :=
  if r.body.length ≠ 1 then refuse .badLength s
  else
    match titleOfHandle (at1 r.body 0) with
    | none => refuse .range s
    | some t =>
      let ti := s.title t
      if ti.state = .free then refuse .noTitle s
      else if r.port ≠ .m ∧ ti.loader ≠ loadPort r.port then refuse .notOwner s
      else if ti.state ≠ .ready then refuse .wrongState s
      else if ti.refs ≠ 0 then refuse .inUse s
      else
        let s1 := s.freeTitle t
        ({ s1 with cues := s1.cues.forget (handle t) }, Reply.ok)

/-- UNLOAD (R22). -/
def execUnload (r : Req) (s : State) : Out := .next (request r kindUnload (unload r) s)

end Sys2Proof.Machine
end

