-- ==== Sys2Proof/Machine/Reset.lean ====
section
/-! DEFINITION. The two resets: POWER_ON, RESET, and a deferred RESET taking effect (R199, R200, R212, R213). -/

namespace Sys2Proof.Machine

/-- The part's receiver on a port after RESET: a partial frame is abandoned, an owed response stays owed (R212). -/
def Rx.afterReset (x : Rx) : Rx :=
  match x with
  | .hunt => .hunt
  | .frame => .hunt
  | .owed r counted => .owed r counted

/-- A port after RESET: bit rates keep their values, the link-error statistic is cleared (R202, R212). -/
def PortLink.afterReset (x : PortLink) : PortLink := { x with rx := x.rx.afterReset, linkErrors := 0 }

/-- The Link Interface after RESET (R211, R212). -/
def LinkBlock.afterReset (l : LinkBlock) : LinkBlock :=
  { LinkBlock.reset with ports := mapTable PortLink.afterReset l.ports }

/-- The Clip Storage Controller after RESET: content, directory and floor stand (R200). -/
def StoreBlock.afterReset (b : StoreBlock) : StoreBlock :=
  { StoreBlock.reset with flash := b.flash, directory := b.directory, floor := b.floor }

/-- Every block takes the values RESET gives it; cue store content stands (R24, R45, R66, R91, R114, R138, R161, R180,
R200, R212). -/
def resetAll (s : State) : State :=
  { State.reset with
    link := s.link.afterReset
    titles := { TitleBlock.reset with cue := s.titles.cue }
    store := s.store.afterReset
    freeCount := s.freeCount
    pending := s.pending }

/-- Has a program or erase started and not completed? A suspended erase counts as started (R199). -/
def Maintenance.started : Maintenance → Bool
  | .none => false
  | .program st _ _ _ => st != .waiting
  | .erase st _ => st != .waiting
  | .verify .. => false

/-- The OK that answers a RESET with the tag (R212). -/
def resetResponse (tag : Byte) : Response := ⟨kindReset, tag, .ok, false, []⟩

/-- A RESET with an empty body, taken on M: M is OWED; the reset takes effect at once, or waits for a started program
or erase (R199, R212). -/
def resetTaken (tag : Byte) (s : State) : State :=
  if s.store.op.started then
    let s1 := s.setRx .m (.owed none false)
    { s1 with link := { s1.link with resetTag := some tag } }
  else (resetAll s).owe .m (resetResponse tag)

/-- RESET (R212). Its response waits for its effect, so it does not go through `request` when its body is empty. -/
def resetRequest (r : Req) (s : State) : State :=
  if s.takes r && r.port == .m && r.body.length == 0 then resetTaken r.tag s
  else request r kindReset (refuse .badLength) s

/-- RESET (R212). -/
def execReset (r : Req) (s : State) : Out := .next (resetRequest r s)

/-- The clip store with the page of `block` programmed: each of its 528 bytes becomes the AND of its old value and the
byte written: the data, the check word, then 14 bytes of 0xFF (R191). -/
def programPage (flash : List Host.Cell) (block : Nat) (data : List Byte) (check : Nat) : List Host.Cell :=
  let addr := block * Config.pageBytes
  let written := data ++ le 2 check ++ List.replicate 14 0xFF
  let old := Memory.readRun flashEmpty flash addr written.length
  Memory.write flashEmpty flash addr (List.zipWith (· &&& ·) old written)

/-- The first byte address of a sector. -/
def sectorAddr (sector : Nat) : Nat := sector * (Config.sectorPages * Config.pageBytes)

/-- The bytes of a sector (R181). -/
abbrev sectorBytes : Nat := Config.sectorPages * Config.pageBytes

/-- The clip store with a sector erased: every byte 0xFF (R192). -/
def eraseSector (flash : List Host.Cell) (sector : Nat) : List Host.Cell :=
  Memory.clear flash (sectorAddr sector) sectorBytes

/-- The clip store with the operation in flight on it ended; nothing when no program or erase is in flight (R191,
R192, R199). -/
def finishedFlash (b : StoreBlock) : Option (List Host.Cell) :=
  match b.op with
  | .program .inFlight block data check => some (programPage b.flash block data check)
  | .erase .inFlight sector => some (eraseSector b.flash sector)
  | _ => none

/-- A deferred RESET takes effect at the completion of the program or erase in flight: the content is written, every
block takes its reset values, no DONE is latched, and the RESET's OK is owed on M (R199, R212). -/
def resetTakesEffect (s : State) : State :=
  match s.link.resetTag, finishedFlash s.store with
  | some tag, some flash =>
    let s1 := { s with store := { s.store with flash := flash } }
    let owing := match (s.port .m).rx with
      | .owed _ counted => counted
      | .hunt => false
      | .frame => false
    (resetAll s1).setRx .m (.owed (some (resetResponse tag)) owing)
  | _, _ => s

/-- RESET_TAKES_EFFECT (R199). -/
def execResetTakesEffect (s : State) : Out := .next (resetTakesEffect s)

/-- The sector of an erase that has started and not completed: every byte of it reads 0xFF (R181). -/
def Maintenance.erasing : Maintenance → Option Nat
  | .none => Option.none
  | .program .. => Option.none
  | .erase st sector => if st = .waiting then Option.none else some sector
  | .verify .. => Option.none

/-- The clip store that a part starting from power-on finds: as it was last left. A program that has not completed has
not taken effect; the sector of a started erase reads 0xFF, and that is how it is left (R181, R200; log 7). -/
def powerOnFlash (b : StoreBlock) : List Host.Cell :=
  match b.op.erasing with
  | some sector => eraseSector b.flash sector
  | none => b.flash

/-- Power-on: every block at its power-on values, the clip store as the device holds it (R213). -/
def powerOn (s : State) : State :=
  { State.reset with
    store := { StoreBlock.reset with flash := powerOnFlash s.store }
    freeCount := s.freeCount
    pending := s.pending }

/-- POWER_ON (R213). -/
def execPowerOn (s : State) : Out := .next (powerOn s)

end Sys2Proof.Machine
end

