-- ==== Sys2Proof/Machine/Receivers.lean ====
section
/-! DEFINITION. Receivers and subscriptions: resolution, subscriber counts, REPORT and keep-alive expiry (chapter 6). -/

namespace Sys2Proof.Machine

/-! ### Records and counts -/

/-- A record number, 0 to 511 (R115). -/
abbrev RecNo := Fin 512

/-- All record numbers, ascending. -/
def allRecs : List RecNo := List.ofFn id

/-- Does the record contribute to the count of `(a, t)` (R129)? -/
def Receiver.wants (r : Receiver) (a : Aud) (t : TrackNo) : Bool :=
  r.bound && r.aud == a && (r.captionTrack == some t || r.descTrack == some t)

/-- A count without an old contribution and with a new one (R129). -/
def recount (n : Nat) (old new : Bool) : Nat := n - (if old then 1 else 0) + (if new then 1 else 0)

/-- The subscriber counts after a record changes from `old` to `new` (R129). -/
def countsAfter (counts : Vector (Vector Nat 8) 16) (old new : Receiver) : Vector (Vector Nat 8) 16 :=
  Vector.ofFn fun a => Vector.ofFn fun t => recount counts[a][t] (old.wants a t) (new.wants a t)

/-- The Receiver Table with record `i` changed to `new`, and the counts with it (R129). -/
def ReceiverBlock.put (b : ReceiverBlock) (i : RecNo) (new : Receiver) : ReceiverBlock :=
  { b with recs := setAt b.recs i new, counts := countsAfter b.counts b.recs[i] new }

/-- The state with record `i` changed to `new`. -/
def State.putRec (s : State) (i : RecNo) (new : Receiver) : State := { s with rcv := s.rcv.put i new }

/-- The BOUND record that holds the id (R121). -/
def ReceiverBlock.findId (b : ReceiverBlock) (id : BitVec 32) : Option RecNo :=
  allRecs.find? fun i => b.recs[i].bound && b.recs[i].id == id

/-- The lowest-numbered FREE record (R120). -/
def ReceiverBlock.lowestFree (b : ReceiverBlock) : Option RecNo := allRecs.find? fun i => !b.recs[i].bound

/-! ### Resolution (R127) -/

/-- The lowest-numbered track of the auditorium's title of the kind and language; none in DARK, for no preference, or
where there is none (R127). -/
def resolveTrack (s : State) (a : Aud) (k : TrackKind) (pref : Option Lang) : Option TrackNo :=
  match pref with
  | none => none
  | some l =>
    if s.shows[a].state = .dark then none
    else
      allTracks.find? fun t =>
        match trackOf s a t with
        | some x => x.track.kind == k && x.track.lang == l
        | none => false

/-- The record with its tracks resolved against its auditorium's title (R127). -/
def resolve (s : State) (r : Receiver) : Receiver :=
  { r with
    captionTrack := resolveTrack s r.aud .caption r.captionPref
    descTrack := resolveTrack s r.aud .description r.descPref }

/-- The record made unresolved (R61). -/
def Receiver.unresolve (r : Receiver) : Receiver := { r with captionTrack := none, descTrack := none }

/-- Re-resolution of record `i` if it is BOUND in auditorium `a` (R57, R128). -/
def reresolve (a : Aud) (s : State) (i : RecNo) : State :=
  let r := s.rcv.recs[i]
  if r.bound && r.aud == a then s.putRec i (resolve s r) else s

/-- Every BOUND record of the auditorium is re-resolved (R57, R128). -/
def reresolveAud (a : Aud) (s : State) : State := allRecs.foldl (reresolve a) s

/-- Every BOUND record of the auditorium is made unresolved, and its eight counts become 0 (R61). -/
def unresolveAud (a : Aud) (s : State) : State :=
  { s with rcv := { s.rcv with
      recs := mapTable (fun r => if r.bound && r.aud == a then r.unresolve else r) s.rcv.recs
      counts := setAt s.rcv.counts a (fillTable 8 0) } }

/-! ### REPORT items (R118 to R126) -/

/-- A record change and the edges it causes, handed on (R129, R131). -/
def changeRec (i : RecNo) (new : Receiver) (s : State) : State := handEdges s.rcv.counts (s.putRec i new)

/-- A HELLO item on air port `p` (R119 to R122). -/
def itemHello (p : Fin 2) (it : Item) (s : State) : State × Code :=
  if it.id = 0 then (s, .range)
  else
    match audOf it.aud with
    | none => (s, .range)
    | some a =>
      if s.shows[a].airPort ≠ some p then (s, .notOwner)
      else
        match s.rcv.findId it.id with
        | some i =>
          let r := { s.rcv.recs[i] with airPort := some p, aud := a, lastHeard := s.rcv.seconds }
          (changeRec i (resolve s r) s, .ok)
        | none =>
          match s.rcv.lowestFree with
          | some i =>
            let r := { Receiver.free with
              bound := true, id := it.id, airPort := some p, aud := a, lastHeard := s.rcv.seconds }
            (changeRec i r s, .ok)
          | none =>
            ({ s with
              link := s.link.latchTableFull p a
              rcv := { s.rcv with joinRefusals := modAt s.rcv.joinRefusals p bump } }, .tableFull)

/-- The record an item of CHOOSE, ALIVE or BYE names, or the item's result (R123). -/
def namedRec (p : Fin 2) (id : BitVec 32) (s : State) : Except Code RecNo :=
  match s.rcv.findId id with
  | none => .error .unknownReceiver
  | some i => if s.rcv.recs[i].airPort = some p then .ok i else .error .notOwner

/-- A CHOOSE item (R123, R124). -/
def itemChoose (p : Fin 2) (it : Item) (s : State) : State × Code :=
  if it.id = 0 then (s, .range)
  else
    match prefOf it.caption, prefOf it.desc with
    | some cap, some desc =>
      match namedRec p it.id s with
      | .error c => (s, c)
      | .ok i =>
        let r := { s.rcv.recs[i] with captionPref := cap, descPref := desc, lastHeard := s.rcv.seconds }
        (changeRec i (resolve s r) s, .ok)
    | _, _ => (s, .range)

/-- An ALIVE item (R123, R125). -/
def itemAlive (p : Fin 2) (it : Item) (s : State) : State × Code :=
  if it.id = 0 then (s, .range)
  else
    match namedRec p it.id s with
    | .error c => (s, c)
    | .ok i =>
      let r := { s.rcv.recs[i] with lastHeard := s.rcv.seconds }
      ({ s with rcv := { s.rcv with recs := setAt s.rcv.recs i r } }, .ok)

/-- A BYE item (R123, R126). -/
def itemBye (p : Fin 2) (it : Item) (s : State) : State × Code :=
  if it.id = 0 then (s, .range)
  else
    match namedRec p it.id s with
    | .error c => (s, c)
    | .ok i => (changeRec i Receiver.free s, .ok)

/-- One item of a REPORT; a kind code that is none of the four has the result RANGE (R117). -/
def takeItem (p : Fin 2) (it : Item) (s : State) : State × Code :=
  match it.kind with
  | none => (s, .range)
  | some .hello => itemHello p it s
  | some .choose => itemChoose p it s
  | some .alive => itemAlive p it s
  | some .bye => itemBye p it s

/-- The items taken in list order, with their results (R118). -/
def takeItems (p : Fin 2) : List Item → State → State × List Code
  | [], s => (s, [])
  | it :: rest, s =>
    let r := takeItem p it s
    let q := takeItems p rest r.1
    (q.1, r.2 :: q.2)

/-- The effect of REPORT on air port `p` (R117). -/
def reportOn (p : Fin 2) (body : List Byte) (s : State) : State × Reply :=
  let n := body.length / 12
  if body.length % 12 ≠ 0 then refuse .badLength s
  else if n < 1 || 16 < n then refuse .range s
  else
    let q := takeItems p (readItems n body) s
    (suspendTest q.1, Reply.okData (q.2.map fun c => byte c.toNat))

/-- The effect of REPORT: it is valid on the air ports alone (R117, R205). -/
def report (r : Req) (s : State) : State × Reply :=
  match r.port with
  | .air p => reportOn p r.body s
  | .feed _ => refuse .unknownRequest s
  | .m => refuse .unknownRequest s

/-- REPORT (R117). -/
def execReport (r : Req) (s : State) : Out := .next (request r kindReport (report r) s)

/-! ### Keep-alive (R116, R133) -/

/-- A house second boundary: the house-second count rises by 1, and the expiry pass with the K in force is due
(R116, R132, R133; log 4). -/
def houseSecondBoundary (s : State) : State :=
  if s.due.second then
    { s with
      rcv := { s.rcv with seconds := s.rcv.seconds + 1 }
      due := { s.due with second := false, expiry := some s.rcv.keepAlive } }
  else s

/-- HOUSE_SECOND_BOUNDARY (R116). -/
def execHouseSecondBoundary (s : State) : Out := .next (houseSecondBoundary s)

/-- The age of a record, modulo 2^32 (R116). -/
def age (s : State) (r : Receiver) : Nat := (s.rcv.seconds - r.lastHeard).toNat

/-- Record `i` is freed if it is BOUND and older than `k`: EXPIRED is latched on its air port and counted (R133). -/
def expireRec (k : Nat) (s : State) (i : RecNo) : State :=
  let r := s.rcv.recs[i]
  if r.bound && k < age s r then
    let s1 := s.putRec i Receiver.free
    match r.airPort with
    | some p =>
      { s1 with
        link := s1.link.latchExpired p r.aud
        rcv := { s1.rcv with expiries := modAt s1.rcv.expiries p bump } }
    | none => s1
  else s

/-- The expiry pass of a house second boundary: every record older than K is freed, and the edges of all of them are
handed on as one event (R131, R133). -/
def keepAliveExpiry (s : State) : State :=
  match s.due.expiry with
  | none => s
  | some k =>
    let s1 := { s with due := { s.due with expiry := none } }
    suspendTest (handEdges s1.rcv.counts (allRecs.foldl (expireRec k) s1))

/-- KEEP_ALIVE_EXPIRY (R133). -/
def execKeepAliveExpiry (s : State) : Out := .next (keepAliveExpiry s)

end Sys2Proof.Machine
end

