-- ==== Sys2Proof/Machine/Shows.lean ====
section
/-! DEFINITION. Auditorium show contexts: ASSIGN.FEED, ASSIGN.AIR, ARM, RUN, HOLD and DARKEN (chapter 3). -/

namespace Sys2Proof.Machine

/-! ### The maps (R49, R50) -/

/-- The effect of ASSIGN.FEED (R49). -/
def assignFeed (r : Req) (s : State) : State × Reply :=
  if r.body.length ≠ 2 then refuse .badLength s
  else
    match audOf (at1 r.body 0), feedField (at1 r.body 1) with
    | some a, some owner => (s.setShow a { s.shows[a] with feedOwner := owner }, Reply.ok)
    | _, _ => refuse .range s

/-- ASSIGN_FEED (R49). -/
def execAssignFeed (r : Req) (s : State) : Out := .next (request r kindAssignFeed (assignFeed r) s)

/-- The cleared Frame Builder state of an auditorium; the sequence number is kept (R64, R140). -/
def FrameAud.clear (f : FrameAud) : FrameAud :=
  { f with stepPending := false, sent := fillTable 8 .nothing, countdown := fillTable 8 0 }

/-- The Frame Builder state of the auditorium is cleared (R64). -/
def State.clearFrame (s : State) (a : Aud) : State :=
  { s with frame := { s.frame with auds := modAt s.frame.auds a (·.clear) } }

/-- The effect of ASSIGN.AIR: a change clears the auditorium's Frame Builder state, and the suspension test follows, as
the lead may change (R50, R193). -/
def assignAir (r : Req) (s : State) : State × Reply :=
  if r.body.length ≠ 2 then refuse .badLength s
  else
    match audOf (at1 r.body 0), airField (at1 r.body 1) with
    | some a, some port =>
      if s.shows[a].airPort = port then (s, Reply.ok)
      else (suspendTest ((s.setShow a { s.shows[a] with airPort := port }).clearFrame a), Reply.ok)
    | _, _ => refuse .range s

/-- ASSIGN_AIR (R50). -/
def execAssignAir (r : Req) (s : State) : Out := .next (request r kindAssignAir (assignAir r) s)

/-! ### ARM (R54 to R57) -/

/-- The sector a pending program or erase targets; a verify targets none (R55). -/
def Maintenance.targetSector : Maintenance → Option Nat
  | .none => Option.none
  | .program _ block _ _ => some (block / Config.sectorPages)
  | .erase _ sector => some sector
  | .verify .. => Option.none

/-- Does a defined clip have a block in the sector (R55, R187)? -/
def ClipEntry.inSector (c : ClipEntry) (sector : Nat) : Bool :=
  c.defined && 1 ≤ c.length && c.first / Config.sectorPages ≤ sector &&
    sector ≤ (c.first + c.length - 1) / Config.sectorPages

/-- Does a clip of the list conflict with the pending maintenance (R55)? -/
def armConflict (s : State) (clips : List Nat) : Bool :=
  match s.store.op.targetSector with
  | some sector => clips.any fun c => (clipEntry s c).inSector sector
  | none => false

/-- The in-use counts with each clip of the list changed by `f` (R65). -/
def countClips (f : Nat → Nat) (clips : List Nat) (v : Vector Nat 1024) : Vector Nat 1024 :=
  clips.foldl (fun w c => if h : c < 1024 then modAt w ⟨c, h⟩ f else w) v

/-- ARM binds the context, the title and its clips (R56). -/
def bindTitle (a : Aud) (t : TitleNo) (s : State) : State :=
  let ti := s.title t
  let s1 := s.setShow a { s.shows[a] with state := .armed, title := some t }
  let s2 := s1.setTitle t { ti with refs := ti.refs + 1 }
  { s2 with store := { s2.store with inUse := countClips (· + 1) ti.clips s2.store.inUse } }

/-- The fresh clock of ARM: P, T and the silence count 0, J, G and I kept (R57). -/
def AudClock.fresh (c : AudClock) : AudClock := { c with pos := 0, trim := 0, silence := 0 }

/-- A taken ARM: the binding, then a fresh start in every block, then the suspension test (R56, R57, R193). -/
def armTaken (a : Aud) (t : TitleNo) (s : State) : State :=
  let s1 := bindTitle a t s
  let s2 := ((s1.setClock a s1.clock.auds[a].fresh).clearCursors a).clearFrame a
  suspendTest (handEdges s2.rcv.counts (reresolveAud a s2))

/-- The effect of ARM (R52, R54). -/
def arm (r : Req) (s : State) : State × Reply :=
  match admitShow r 2 false s with
  | .error c => refuse c s
  | .ok a =>
    if s.shows[a].state ≠ .dark then refuse .wrongState s
    else if 24 < at1 r.body 1 then refuse .range s
    else
      match titleOfHandle (at1 r.body 1) with
      | none => refuse .noTitle s
      | some t =>
        if (s.title t).state ≠ .ready then refuse .noTitle s
        else if armConflict s (s.title t).clips then refuse .storageBusy s
        else (armTaken a t s, Reply.ok)

/-- ARM (R54). -/
def execArm (r : Req) (s : State) : Out := .next (request r kindArm (arm r) s)

/-! ### RUN and HOLD (R59, R60) -/

/-- RUN from ARMED, HELD or LOST: RUNNING, silence count 0 (R59). -/
def startClock (a : Aud) (s : State) : State :=
  (s.setShow a { s.shows[a] with state := .running }).setClock a { s.clock.auds[a] with silence := 0 }

/-- The effect of RUN (R59). -/
def run (r : Req) (s : State) : State × Reply :=
  match admitShow r 1 false s with
  | .error c => refuse c s
  | .ok a =>
    match s.shows[a].state with
    | .armed => (startClock a s, Reply.ok)
    | .held => (startClock a s, Reply.ok)
    | .lost => (startClock a s, Reply.ok)
    | .running => (s, Reply.ok)
    | .freewheel => (s, Reply.ok)
    | .dark => refuse .wrongState s

/-- RUN (R59). -/
def execRun (r : Req) (s : State) : Out := .next (request r kindRun (run r) s)

/-- HOLD from RUNNING, FREEWHEEL or LOST: HELD; P, T and the silence count stand (R60). -/
def holdClock (a : Aud) (s : State) : State := s.setShow a { s.shows[a] with state := .held }

/-- The effect of HOLD (R60). -/
def hold (r : Req) (s : State) : State × Reply :=
  match admitShow r 1 false s with
  | .error c => refuse c s
  | .ok a =>
    match s.shows[a].state with
    | .running => (holdClock a s, Reply.ok)
    | .freewheel => (holdClock a s, Reply.ok)
    | .lost => (holdClock a s, Reply.ok)
    | .held => (s, Reply.ok)
    | .armed => refuse .wrongState s
    | .dark => refuse .wrongState s

/-- HOLD (R60). -/
def execHold (r : Req) (s : State) : Out := .next (request r kindHold (hold r) s)

/-! ### DARKEN (R61) -/

/-- Steps 4 and 5 of DARKEN: the title and its clips are let go, and the context is DARK (R61). -/
def unbindTitle (a : Aud) (s : State) : State :=
  let s1 := match s.shows[a].title with
    | some t =>
      let ti := s.title t
      let s0 := s.setTitle t { ti with refs := ti.refs - 1 }
      { s0 with store := { s0.store with inUse := countClips (· - 1) ti.clips s0.store.inUse } }
    | none => s
  s1.setShow a { s1.shows[a] with state := .dark, title := none }

/-- A taken DARKEN of an auditorium that is not DARK, in the order of R61. -/
def darkenTaken (a : Aud) (s : State) : State :=
  let s1 := handEdges s.rcv.counts (unresolveAud a s)
  suspendTest (unbindTitle a ((s1.clearCursors a).clearFrame a))

/-- The effect of DARKEN (R61). -/
def darken (r : Req) (s : State) : State × Reply :=
  match admitShow r 1 true s with
  | .error c => refuse c s
  | .ok a => if s.shows[a].state = .dark then (s, Reply.ok) else (darkenTaken a s, Reply.ok)

/-- DARKEN (R61). -/
def execDarken (r : Req) (s : State) : Out := .next (request r kindDarken (darken r) s)

end Sys2Proof.Machine
end

