-- ==== Sys2Proof/Machine/Store.lean ====
section
/-! DEFINITION. Clip store maintenance and the flash: the CLIP requests, the arbiter's choice, and the completions (R173 to R175, chapter 9). -/

namespace Sys2Proof.Machine

/-- All clip numbers, ascending. -/
def allClips : List ClipNo := List.ofFn id

/-- The clip a number names, if it is 0 to 1,023. -/
def clipNo (n : Nat) : Option ClipNo := if h : n < 1024 then some ⟨n, h⟩ else none

/-- The state with a directory entry changed. -/
def State.setClip (s : State) (c : ClipNo) (x : ClipEntry) : State :=
  { s with store := { s.store with directory := setAt s.store.directory c x } }

/-- The state with the maintenance operation changed. -/
def State.setOp (s : State) (op : Maintenance) : State := { s with store := { s.store with op := op } }

/-- The state with the flash's use changed. -/
def State.setUse (s : State) (use : FlashUse) : State := { s with store := { s.store with use := use } }

/-! ### The directory (R184, R185) -/

/-- Do the extents share a block (R184)? -/
def overlaps (first length : Nat) (c : ClipEntry) : Bool :=
  c.defined && first < c.first + c.length && c.first < first + length

/-- The effect of CLIP.DEFINE (R184). -/
def clipDefine (r : Req) (s : State) : State × Reply :=
  let first := field r.body 2 2
  let length := field r.body 4 2
  if r.body.length ≠ 6 then refuse .badLength s
  else
    match clipNo (field r.body 0 2) with
    | none => refuse .range s
    | some c =>
      if length < 1 || 4096 < length || 65536 < first + length then refuse .range s
      else if s.store.inUse[c] ≠ 0 then refuse .inUse s
      else if allClips.any fun d => d != c && overlaps first length s.store.directory[d] then refuse .overlap s
      else (s.setClip c ⟨true, first, length⟩, Reply.ok)

/-- CLIP_DEFINE (R184). -/
def execClipDefine (r : Req) (s : State) : Out := .next (request r kindClipDefine (clipDefine r) s)

/-- The effect of CLIP.DELETE (R185). -/
def clipDelete (r : Req) (s : State) : State × Reply :=
  if r.body.length ≠ 2 then refuse .badLength s
  else
    match clipNo (field r.body 0 2) with
    | none => refuse .range s
    | some c => if s.store.inUse[c] ≠ 0 then refuse .inUse s else (s.setClip c ClipEntry.clear, Reply.ok)

/-- CLIP_DELETE (R185). -/
def execClipDelete (r : Req) (s : State) : Out := .next (request r kindClipDelete (clipDelete r) s)

/-! ### Protection and the latch (R186, R187, R190) -/

/-- The effect of CLIP.PROTECT: the floor rises and does not fall (R186). -/
def clipProtect (r : Req) (s : State) : State × Reply :=
  let v := field r.body 0 2
  if r.body.length ≠ 2 then refuse .badLength s
  else
    let raised := max s.store.floor (min v Config.sectors)
    ({ s with store := { s.store with floor := raised } }, Reply.okClamped (Config.sectors < v || v < s.store.floor))

/-- CLIP_PROTECT (R186). -/
def execClipProtect (r : Req) (s : State) : Out := .next (request r kindClipProtect (clipProtect r) s)

/-- Is the sector protected: below the floor, or holding a block of a defined clip in use (R187)? -/
def isProtected (s : State) (sector : Nat) : Bool :=
  sector < s.store.floor ||
    allClips.any fun c => s.store.inUse[c] != 0 && s.store.directory[c].inSector sector

/-- The state with the write-enable latch set or clear. -/
def State.setLatch (s : State) (x : Bool) : State := { s with store := { s.store with latch := x } }

/-- The effect of CLIP.WRITE_ENABLE (R190). -/
def clipWriteEnable (r : Req) (s : State) : State × Reply :=
  if r.body.length ≠ 0 then refuse .badLength s else (s.setLatch true, Reply.ok)

/-- CLIP_WRITE_ENABLE (R190). -/
def execClipWriteEnable (r : Req) (s : State) : Out := .next (request r kindClipWriteEnable (clipWriteEnable r) s)

/-! ### Program, erase, verify (R191, R192, R195) -/

/-- The effect of CLIP.PROGRAM: the latch is cleared whatever the answer (R190, R191). -/
def clipProgram (r : Req) (s : State) : State × Reply :=
  let block := field r.body 0 2
  let data := r.body.drop 2
  let s1 := s.setLatch false
  if r.body.length ≠ 514 then refuse .badLength s1
  else if !s.store.latch then refuse .notEnabled s1
  else if isProtected s (block / Config.sectorPages) then refuse .isProtected s1
  else if s.store.op ≠ .none then refuse .busy s1
  else (s1.setOp (.program .waiting block data (checkWord data)), Reply.of .accepted)

/-- CLIP_PROGRAM (R191). -/
def execClipProgram (r : Req) (s : State) : Out := .next (request r kindClipProgram (clipProgram r) s)

/-- The effect of CLIP.ERASE: the latch is cleared whatever the answer (R190, R192). -/
def clipErase (r : Req) (s : State) : State × Reply :=
  let sector := field r.body 0 2
  let s1 := s.setLatch false
  if r.body.length ≠ 2 then refuse .badLength s1
  else if Config.sectors ≤ sector then refuse .range s1
  else if !s.store.latch then refuse .notEnabled s1
  else if isProtected s sector then refuse .isProtected s1
  else if s.store.op ≠ .none then refuse .busy s1
  else (s1.setOp (.erase .waiting sector), Reply.of .accepted)

/-- CLIP_ERASE (R192). -/
def execClipErase (r : Req) (s : State) : Out := .next (request r kindClipErase (clipErase r) s)

/-- The effect of CLIP.VERIFY (R195). -/
def clipVerify (r : Req) (s : State) : State × Reply :=
  if r.body.length ≠ 2 then refuse .badLength s
  else
    match clipNo (field r.body 0 2) with
    | none => refuse .range s
    | some c =>
      let d := s.store.directory[c]
      if !d.defined then refuse .wrongState s
      else if s.store.op ≠ .none then refuse .busy s
      else (s.setOp (.verify .waiting c.val d.first d.length 0 0), Reply.of .accepted)

/-- CLIP_VERIFY (R195). -/
def execClipVerify (r : Req) (s : State) : Out := .next (request r kindClipVerify (clipVerify r) s)

/-! ### The arbiter (R173, R194) -/

/-- Is maintenance waiting for the flash: WAITING or SUSPENDED (R189)? -/
def Maintenance.waiting : Maintenance → Bool
  | .none => false
  | .program st _ _ _ => st != .inFlight
  | .erase st _ => st != .inFlight
  | .verify st _ _ _ _ _ => st != .inFlight

/-- The maintenance operation given the flash: its turn starts, or a SUSPENDED erase resumes (R189, R194). -/
def startTurn (s : State) : State :=
  match s.store.op with
  | .none => s
  | .program _ block data check => (s.setOp (.program .inFlight block data check)).setUse .program
  | .erase _ sector => (s.setOp (.erase .inFlight sector)).setUse .erase
  | .verify _ clip first length read failed => (s.setOp (.verify .inFlight clip first length read failed)).setUse .verify

/-- The record of least slack; ties go to the lower stream number and then to the record placed earlier (R173). -/
def leastRecord (s : State) : Option FetchRecord :=
  leastBy (fun r => slack s r * 24 + r.stream.val) s.stream.pool

/-- A fetch starts: its record leaves the pool for the flash, and its place is granted (R170, R173). -/
def startFetch (r : FetchRecord) (s : State) : State :=
  let s1 := s.setUse (.fetch r)
  grantRoom 24 { s1 with stream := { s1.stream with pool := s1.stream.pool.erase r } }

/-- Does the flash go to maintenance (R173)? A SUSPENDED erase that a RESET waits for resumes whatever the slack of the
pooled records (R199). -/
def maintenanceTurn (s : State) : Bool :=
  s.store.op.waiting && (!urgent s || (s.link.resetTag.isSome && s.store.op.started))

/-- The arbiter's choice at an idle flash (R173). -/
def arbiterChoice (s : State) : State :=
  if s.store.use = .idle then
    if maintenanceTurn s then startTurn s
    else
      match leastRecord s with
      | some r => suspendTest (startFetch r s)
      | none => s
  else s

/-- FLASH_ARBITER_CHOICE (R173). -/
def execFlashArbiterChoice (s : State) : Out := .next (arbiterChoice s)

/-! ### Reads (R174, R175, R181) -/

/-- The 512 data bytes and 2 check bytes a read of a block returns (R174, R181). -/
def readPage (b : StoreBlock) (block : Nat) : List Byte :=
  if b.op.erasing = some (block / Config.sectorPages) then List.replicate 514 0xFF
  else Memory.readRun flashEmpty b.flash (block * Config.pageBytes) 514

/-- Does the page read pass its check (R182)? -/
def pagePasses (page : List Byte) : Bool := leVal (page.drop 512) == checkWord (page.take 512)

/-- Is the position the one the record was placed for (R171)? -/
def FetchRecord.fits (r : FetchRecord) (p : RingPos) : Bool :=
  p.state == .outstanding && p.play == r.play && p.flashBlock == r.flashBlock

/-- Is the record stale (R171)? -/
def isStale (s : State) (r : FetchRecord) : Bool :=
  let st := s.stream.entries[r.stream]
  !st.alloc || st.generation != r.generation || !st.ring.any r.fits

/-- The ring with the first position the record fits filled (R175). -/
def fillPosition (r : FetchRecord) (x : RingState) : List RingPos → List RingPos
  | [] => []
  | p :: ps => if r.fits p then { p with state := x } :: ps else p :: fillPosition r x ps

/-- What the completion of a fetch does to the Stream Unit: the outstanding count falls; a stale result is discarded
and counted; else the position becomes PRESENT with the data, or BAD with a check error counted (R175). -/
def completeFetch (s : State) (r : FetchRecord) : StreamBlock :=
  let page := readPage s.store r.flashBlock
  let st := s.stream.entries[r.stream]
  let lowered := { st with outstanding := st.outstanding - 1 }
  if isStale s r then
    { s.stream.setEntry r.stream lowered with discarded := bump s.stream.discarded }
  else if pagePasses page then
    s.stream.setEntry r.stream { lowered with ring := fillPosition r (.present (page.take 512)) st.ring }
  else
    (s.stream.setEntry r.stream { lowered with ring := fillPosition r .bad st.ring }).count st.aud
      fun c => { c with checkErrors := bump c.checkErrors }

/-- The completion of the fetch in flight (R175). -/
def fetchCompletion (s : State) : State :=
  match s.store.use with
  | .fetch r => { s.setUse .idle with stream := completeFetch s r }
  | .idle => s
  | .program => s
  | .erase => s
  | .verify => s

/-- FETCH_COMPLETION (R175). -/
def execFetchCompletion (s : State) : Out := .next (fetchCompletion s)

/-! ### Completions of maintenance (R191, R192, R196, R197) -/

/-- The Clip Storage Controller with its operation done and the flash idle, the content `flash`. -/
def StoreBlock.done (b : StoreBlock) (flash : List Host.Cell) : StoreBlock :=
  { b with flash := flash, op := .none, use := .idle }

/-- The completion of the program in flight. Where a RESET waits for it, the reset takes effect instead (R191, R199). -/
def programCompletion (s : State) : State :=
  match s.store.op with
  | .program .inFlight block data check =>
    if s.link.resetTag.isSome then resetTakesEffect s
    else
      { s with
        store := s.store.done (programPage s.store.flash block data check)
        link := s.link.latchProgramDone block }
  | _ => s

/-- PROGRAM_COMPLETION (R191). -/
def execProgramCompletion (s : State) : Out := .next (programCompletion s)

/-- The completion of the erase in flight. Where a RESET waits for it, the reset takes effect instead (R192, R199). -/
def eraseCompletion (s : State) : State :=
  match s.store.op with
  | .erase .inFlight sector =>
    if s.link.resetTag.isSome then resetTakesEffect s
    else
      { s with
        store := s.store.done (eraseSector s.store.flash sector)
        link := s.link.latchEraseDone sector }
  | _ => s

/-- ERASE_COMPLETION (R192). -/
def execEraseCompletion (s : State) : Out := .next (eraseCompletion s)

/-- The completion of a verify turn: the page read counts, and counts as failed when its check fails; after the last
page the record is NONE and VERIFY_DONE is latched (R196). -/
def verifyTurnCompletion (s : State) : State :=
  match s.store.op with
  | .verify .inFlight clip first length read failed =>
    let failed' := if pagePasses (readPage s.store (first + read)) then failed else failed + 1
    if read + 1 < length then
      (s.setOp (.verify .waiting clip first length (read + 1) failed')).setUse .idle
    else
      { s with
        store := s.store.done s.store.flash
        link := s.link.latchVerifyDone clip failed' }
  | _ => s

/-- VERIFY_TURN_COMPLETION (R196). -/
def execVerifyTurnCompletion (s : State) : Out := .next (verifyTurnCompletion s)

end Sys2Proof.Machine
end

