-- ==== Sys2Proof/Machine/Ports.lean ====
section
/-! DEFINITION. Frames at the ports, SENSE, STATS and TABLE.READ (chapter 10). -/

namespace Sys2Proof.Machine

/-! ### Frame events (R204, R205) -/

/-- A frame whose check fails: discarded, counted, and LINK_ERROR owed with kind 0 and tag 0. On a port that is OWED
its bytes are discarded (R204; log 1). -/
def frameCheckFail (p : Port) (s : State) : State :=
  if s.owing p then s.owedByte p
  else s.linkError p (.owed (some ⟨0, 0, .linkError, false, []⟩) false)

/-- FRAME_CHECK_FAIL (R204). -/
def execFrameCheckFail (p : Port) (s : State) : Out := .next (frameCheckFail p s)

/-- A frame whose length field exceeds 1,024: discarded and counted (R204; log 1). -/
def frameLengthDiscard (p : Port) (s : State) : State :=
  if s.owing p then s.owedByte p else s.linkError p .hunt

/-- FRAME_LENGTH_DISCARD (R204). -/
def execFrameLengthDiscard (p : Port) (s : State) : Out := .next (frameLengthDiscard p s)

/-- A partial frame is discarded and counted; in HUNT and OWED nothing happens (R204). -/
def discardPartial (p : Port) (s : State) : State :=
  match (s.port p).rx with
  | .frame => s.linkError p .hunt
  | .hunt => s
  | .owed _ _ => s

/-- FRAME_GAP_TIMEOUT: more than 2 ms between two bytes of a frame (R204). -/
def execFrameGapTimeout (p : Port) (s : State) : Out := .next (discardPartial p s)

/-- BREAK_CONDITION (R204). -/
def execBreakCondition (p : Port) (s : State) : Out := .next (discardPartial p s)

/-- OWED_BYTE_DISCARD (R204). -/
def execOwedByteDiscard (p : Port) (s : State) : Out := .next (s.owedByte p)

/-- A checked frame of a kind not valid on its port: UNKNOWN_REQUEST with its kind and tag, no other effect. A kind
that is valid on the port is another row's frame and changes nothing here (R205; log 3). -/
def unknownRequest (p : Port) (kind tag : Byte) (s : State) : State :=
  if s.owing p then s.owedByte p
  else if validKind p kind then s
  else s.owe p ⟨kind, tag, .unknownRequest, false, []⟩

/-- UNKNOWN_REQUEST (R205). -/
def execUnknownRequest (p : Port) (kind tag : Byte) (s : State) : Out := .next (unknownRequest p kind tag s)

/-- The last byte of the owed response is sent: HUNT. A RESET that has not taken effect has no response yet (R204,
R212). -/
def responseSent (p : Port) (s : State) : State :=
  match (s.port p).rx with
  | .owed (some _) _ => s.setRx p .hunt
  | .owed none _ => s
  | .hunt => s
  | .frame => s

/-- RESPONSE_SENT (R204). -/
def execResponseSent (p : Port) (s : State) : Out := .next (responseSent p s)

/-- A byte 0xC5: in HUNT a frame begins; in FRAME it is a byte of the frame; in OWED it is discarded (R204). -/
def syncByte (p : Port) (s : State) : State :=
  match (s.port p).rx with
  | .hunt => s.setRx p .frame
  | .frame => s
  | .owed _ _ => s.owedByte p

/-- SYNC_BYTE (R204). -/
def execSyncByte (p : Port) (s : State) : Out := .next (syncByte p s)

/-! ### SENSE (R210) -/

/-- The data of SENSE: H, the flag word, and the detail of each set flag in bit order (R210, R214). -/
def senseData (p : Port) (s : State) : List Byte :=
  let ds := s.link.details p
  le 4 s.clock.h.toNat ++ [byte (flagWord ds)] ++ ds.flatMap fun d => d.getD []

/-- The effect of SENSE (R210). -/
def sense (r : Req) (s : State) : State × Reply :=
  let clear := at1 r.body 0
  if r.body.length ≠ 1 then refuse .badLength s
  else if 1 < clear then refuse .range s
  else
    let x := Reply.okData (senseData r.port s)
    if clear = 1 then ({ s with link := s.link.clearFlags r.port }, x) else (s, x)

/-- SENSE (R210). -/
def execSense (r : Req) (s : State) : Out := .next (request r kindSense (sense r) s)

/-! ### STATS (R208) -/

/-- The seven ports in the order of their codes (R207). -/
def allPorts : List Port := [.feed 0, .feed 1, .feed 2, .feed 3, .air 0, .air 1, .m]

/-- The air ports. -/
def allAirs : List (Fin 2) := [0, 1]

/-- The statistics of an air port (R208). -/
def airStats (s : State) (p : Fin 2) : List Stat :=
  [s.frame.air[p].deferred, s.rcv.joinRefusals[p], s.rcv.expiries[p]]

/-- The statistics of an auditorium (R208). -/
def audStats (s : State) (a : Aud) : List Stat :=
  let c := s.clock.auds[a]
  let x := s.stream.stats[a]
  [c.steps, c.reelClamps, x.late, x.underruns, x.checkErrors, x.silent]

/-- All 114 statistics in the order of R208. -/
def allStats (s : State) : List Stat :=
  allPorts.map (fun p => (s.port p).linkErrors) ++ allAirs.flatMap (airStats s) ++ allAuds.flatMap (audStats s) ++
    [s.cues.hits, s.cues.misses, s.stream.discarded, s.stream.denials, s.store.suspensions]

/-- Every statistic set to 0 (R208). -/
def clearStats (s : State) : State :=
  { s with
    link := { s.link with ports := mapTable (fun x => { x with linkErrors := 0 }) s.link.ports }
    frame := { s.frame with air := mapTable (fun x => { x with deferred := 0 }) s.frame.air }
    rcv := { s.rcv with joinRefusals := fillTable 2 0, expiries := fillTable 2 0 }
    clock := { s.clock with auds := mapTable (fun c => { c with steps := 0, reelClamps := 0 }) s.clock.auds }
    stream := { s.stream with stats := fillTable 16 StreamStats.reset, discarded := 0, denials := 0 }
    cues := { s.cues with hits := 0, misses := 0 }
    store := { s.store with suspensions := 0 } }

/-- The effect of STATS (R208). -/
def stats (r : Req) (s : State) : State × Reply :=
  let clear := at1 r.body 0
  if r.body.length ≠ 1 then refuse .badLength s
  else if 1 < clear then refuse .range s
  else
    let x := Reply.okData ((allStats s).flatMap fun n => le 2 n.toNat)
    if clear = 1 then (clearStats s, x) else (s, x)

/-- STATS (R208). -/
def execStats (r : Req) (s : State) : Out := .next (request r kindStats (stats r) s)

/-! ### TABLE.READ (R209, R214) -/

/-- The code of a title state (R214). -/
def TitleState.toNat : TitleState → Nat
  | .free => 0
  | .loading => 1
  | .finishing => 2
  | .ready => 3

/-- The code of a track kind (R214). -/
def TrackKind.toNat : TrackKind → Nat
  | .caption => 0
  | .description => 1

/-- A track in a title entry, 16 bytes (R214). -/
def Track.bytes (t : Track) : List Byte :=
  byte t.kind.toNat :: t.lang.bytes ++ le 2 t.nDecl ++ le 2 t.n ++ le 3 t.entryBase ++ le 3 t.anchorBase ++
    le 2 t.anchorCount

/-- A title entry (R1, R214). -/
def Title.bytes (t : Title) : List Byte :=
  byte t.state.toNat :: le 8 t.key.toNat ++ [byte (loadCode t.loader)] ++ le 3 t.base ++ le 3 t.count ++
    le 4 t.lastActivity.toNat ++ [byte t.refs] ++ le 3 t.fill ++
    [byte t.reels.length] ++ t.reels.flatMap (le 3 ·) ++
    [byte t.tracks.length] ++ t.tracks.flatMap Track.bytes ++
    le 2 t.clips.length ++ t.clips.flatMap (le 2 ·)

/-- A receiver entry with the house-second count (R115, R214). -/
def receiverBytes (r : Receiver) (seconds : BitVec 32) : List Byte :=
  byte (flag r.bound) :: le 4 r.id.toNat ++ [byte (airCode r.airPort), byte r.aud.val] ++ prefBytes r.captionPref ++
    prefBytes r.descPref ++ [byte (trackCode r.captionTrack), byte (trackCode r.descTrack)] ++
    le 4 r.lastHeard.toNat ++ le 4 seconds.toNat

/-- The code of a ring position's state (R214). -/
def RingState.toNat : RingState → Nat
  | .outstanding => 0
  | .present _ => 1
  | .bad => 2
  | .silent => 3

/-- A stream entry (R162, R214). While its next fetch position is ended, the entry index and block fields hold free
values (log 8). -/
def streamBytes (x : Stream) (count : Nat) : List Byte :=
  let next := match x.next with
    | some (e, k) => le 2 e ++ le 2 k
    | none => le 2 (Config.endedEntryIndex count).toNat ++ le 2 (Config.endedBlock count).toNat
  [byte (flag x.alloc), byte x.aud.val, byte x.track.val, byte x.generation.toNat] ++ next ++
    [byte (flag x.next.isNone), byte x.outstanding, byte x.ring.length] ++
    x.ring.flatMap fun p => le 4 p.play ++ [byte p.state.toNat]

/-- The code of an operation state (R214). -/
def OpState.toNat : OpState → Nat
  | .waiting => 1
  | .inFlight => 2
  | .suspended => 3

/-- Operation kind, state, target, verify read and verify failed of a directory entry (R214). -/
def Maintenance.bytes : Maintenance → List Byte
  | .none => [0, 0] ++ le 2 0 ++ le 2 0 ++ le 2 0
  | .program st block _ _ => [1, byte st.toNat] ++ le 2 block ++ le 2 0 ++ le 2 0
  | .erase st sector => [2, byte st.toNat] ++ le 2 sector ++ le 2 0 ++ le 2 0
  | .verify st clip _ _ read failed => [3, byte st.toNat] ++ le 2 clip ++ le 2 read ++ le 2 failed

/-- A directory entry with the in-use count, floor, latch and operation (R183, R214). -/
def directoryBytes (s : State) (c : ClipNo) : List Byte :=
  let d := s.store.directory[c]
  byte (flag d.defined) :: le 2 d.first ++ le 2 d.length ++ [byte s.store.inUse[c]] ++ le 2 s.store.floor ++
    [byte (flag s.store.latch)] ++ s.store.op.bytes

/-- The entry of a table, or none for a table or an index out of range (R209). -/
def tableEntry (s : State) (table index : Nat) : Option (List Byte) :=
  match table with
  | 1 => (titleOfHandle index).map fun t => (s.title t).bytes
  | 2 => if h : index < 512 then some (receiverBytes s.rcv.recs[index] s.rcv.seconds) else none
  | 3 => if h : index < 24 then some (streamBytes s.stream.entries[index] s.freeCount) else none
  | 4 => (clipNo index).map (directoryBytes s)
  | _ => none

/-- The effect of TABLE.READ; the free-value counter advances past a read of the stream table (R209; log 8). -/
def tableRead (r : Req) (s : State) : State × Reply :=
  let table := at1 r.body 0
  if r.body.length ≠ 3 then refuse .badLength s
  else
    match tableEntry s table (field r.body 1 2) with
    | none => refuse .range s
    | some bs => (if table = 3 then { s with freeCount := s.freeCount + 1 } else s, Reply.okData bs)

/-- TABLE_READ (R209). -/
def execTableRead (r : Req) (s : State) : Out := .next (request r kindTableRead (tableRead r) s)

end Sys2Proof.Machine
end

