-- ==== Sys2Proof/Machine/Settings.lean ====
section
/-! DEFINITION. SET and its eleven parameters, and stored bit rates coming into force (R43, R83, R86, R132, R159, R177, R202, R207). -/

namespace Sys2Proof.Machine

/-- A value clamped to a range (00_scope, Settings out of range). -/
def clampTo (lo hi v : Nat) : Nat := max lo (min v hi)

/-- The reply of SET: OK, CLAMPED when the value was clamped, and the stored value as its data (R207). -/
def setReply (v stored : Nat) : Reply := ⟨.ok, v != stored, le 4 stored⟩

/-- SET of a parameter with range `lo` to `hi`: the checks of R207, then `store` with the target
byte and the value to store; `store` answers none for a target outside the parameter's range. A body whose parameter
is another row's is that row's command and changes nothing here (log 21). -/
def setParam (lo hi : Nat) (store : Nat → Nat → State → Option State) (r : Req) (s : State) : State × Reply :=
  let p := at1 r.body 0
  let v := field r.body 2 4
  let stored := clampTo lo hi v
  if r.body.length ≠ 6 then refuse .badLength s
  else if p < 1 || 11 < p then refuse .range s
  else
    match store (at1 r.body 1) stored s with
    | none => refuse .range s
    | some s1 => (s1, setReply v stored)

/-- The request of a SET row; ill-formed ones, whose parameter is another row's, change nothing (log 21). -/
def setRequest (param lo hi : Nat) (store : Nat → Nat → State → Option State) (r : Req) (s : State) : State :=
  if r.setsOwn param then request r kindSet (setParam lo hi store r) s else s

/-- A setting of an auditorium's clock, `f` storing the value; a target above 15 is out of range (R86). -/
def setClockParam (f : AudClock → Nat → AudClock) (target v : Nat) (s : State) : Option State :=
  (audOf target).map fun a => s.setClock a (f s.clock.auds[a] v)

/-- The air port of a target code: A0 is 4, A1 is 5 (R159, R207). -/
def airTarget (n : Nat) : Option (Fin 2) := if n = 4 then some 0 else if n = 5 then some 1 else none

/-- A setting of an air port, `f` storing the value; any other target is out of range (R159). -/
def setAirParam (f : AirParams → Nat → AirParams) (target v : Nat) (s : State) : Option State :=
  (airTarget target).map fun p =>
    { s with frame := { s.frame with air := modAt s.frame.air p fun x => f x v } }

/-- Parameter 1, the load idle time; its target is ignored (R43). -/
def storeLoadIdleTime (_target v : Nat) (s : State) : Option State :=
  some { s with loader := { s.loader with idleTime := v } }

/-- Parameter 2, the keep-alive time K; its target is ignored (R132). -/
def storeKeepAlive (_target v : Nat) (s : State) : Option State :=
  some { s with rcv := { s.rcv with keepAlive := v } }

/-- Parameter 3, the urgency margin U; its target is ignored. The suspension test follows (R177, R193). -/
def storeMargin (_target v : Nat) (s : State) : Option State :=
  some (suspendTest { s with store := { s.store with margin := v } })

/-- Parameter 7, the lead. The suspension test follows (R159, R193). -/
def storeLead (target v : Nat) (s : State) : Option State :=
  (setAirParam (fun x v => { x with lead := v }) target v s).map suspendTest

/-- The port of a code (R207). -/
def portOfCode (n : Nat) : Option Port :=
  if h : n < 4 then some (.feed ⟨n, h⟩)
  else if n = 4 then some (.air 0)
  else if n = 5 then some (.air 1)
  else if n = 6 then some .m
  else none

/-- Parameter 11, a port's bit rate: stored, to come into force when the port is next idle (R202). -/
def storeBitRate (target v : Nat) (s : State) : Option State :=
  (portOfCode target).map fun p => s.setPort p { s.port p with newRate := some v }

/-- SET_LOAD_IDLE_TIME (R43). -/
def execSetLoadIdleTime (r : Req) (s : State) : Out := .next (setRequest 1 5 120 storeLoadIdleTime r s)

/-- SET_KEEP_ALIVE_TIME (R132). -/
def execSetKeepAliveTime (r : Req) (s : State) : Out := .next (setRequest 2 10 600 storeKeepAlive r s)

/-- SET_URGENCY_MARGIN (R177). -/
def execSetUrgencyMargin (r : Req) (s : State) : Out := .next (setRequest 3 60 2400 storeMargin r s)

/-- SET_JUMP_THRESHOLD (R86). -/
def execSetJumpThreshold (r : Req) (s : State) : Out :=
  .next (setRequest 4 1 65535 (setClockParam fun c v => { c with jump := v }) r s)

/-- SET_GAIN_EXPONENT (R86). -/
def execSetGainExponent (r : Req) (s : State) : Out :=
  .next (setRequest 5 12 20 (setClockParam fun c v => { c with gain := v }) r s)

/-- SET_SILENCE_INTERVAL (R83, R86). -/
def execSetSilenceInterval (r : Req) (s : State) : Out :=
  .next (setRequest 6 120 12000 (setClockParam fun c v => { c with interval := v }) r s)

/-- SET_LEAD (R159). -/
def execSetLead (r : Req) (s : State) : Out := .next (setRequest 7 0 2400 storeLead r s)

/-- SET_CAPACITY (R159). -/
def execSetCapacity (r : Req) (s : State) : Out :=
  .next (setRequest 8 512 4096 (setAirParam fun x v => { x with capacity := v }) r s)

/-- SET_REPEAT_PERIOD (R159). -/
def execSetRepeatPeriod (r : Req) (s : State) : Out :=
  .next (setRequest 9 1 64 (setAirParam fun x v => { x with repeatPeriod := v }) r s)

/-- SET_WINDOW (R159). -/
def execSetWindow (r : Req) (s : State) : Out :=
  .next (setRequest 10 0 1200 (setAirParam fun x v => { x with window := v }) r s)

/-- SET_BIT_RATE (R202). -/
def execSetBitRate (r : Req) (s : State) : Out := .next (setRequest 11 9600 12000000 storeBitRate r s)

/-- May a stored rate come into force on the port: not receiving a frame nor sending a response; on M, once the
SET's response has been sent (R202)? A port counts as sending for as long as it is OWED, whether the sending has begun
or not (the model's choice, log 29). -/
def rateMayApply (p : Port) (x : Rx) : Bool :=
  match x with
  | .hunt => true
  | .frame => p == .m
  | .owed _ _ => false

/-- A stored bit rate comes into force (R202). -/
def bitRateChangeApplies (p : Port) (s : State) : State :=
  let x := s.port p
  match x.newRate with
  | some v => if rateMayApply p x.rx then s.setPort p { x with bitRate := v, newRate := none } else s
  | none => s

/-- BIT_RATE_CHANGE_APPLIES (R202). -/
def execBitRateChangeApplies (p : Port) (s : State) : Out := .next (bitRateChangeApplies p s)

end Sys2Proof.Machine
end

