-- ==== Sys2Proof/Machine/Dispatch.lean ====
section
/-! DEFINITION. The commands' meanings: one arm per constructor of Instr. -/

namespace Sys2Proof.Machine

/-- The effect of a command on everything but the queue. -/
def exec (i : Instr) (s : State) : Host.Outcome State Fault Refusal :=
  match i with
  | .powerOn => Sys2Proof.Machine.execPowerOn s
  | .reset r => Sys2Proof.Machine.execReset r s
  | .resetTakesEffect => Sys2Proof.Machine.execResetTakesEffect s
  | .houseTick => Sys2Proof.Machine.execHouseTick s
  | .silenceBoundary aud => Sys2Proof.Machine.execSilenceBoundary aud s
  | .houseSecondBoundary => Sys2Proof.Machine.execHouseSecondBoundary s
  | .keepAliveExpiry => Sys2Proof.Machine.execKeepAliveExpiry s
  | .loadIdleTimeout title => Sys2Proof.Machine.execLoadIdleTimeout title s
  | .loadOpen r => Sys2Proof.Machine.execLoadOpen r s
  | .loadData r => Sys2Proof.Machine.execLoadData r s
  | .loadFinish r => Sys2Proof.Machine.execLoadFinish r s
  | .finishingCompletion title => Sys2Proof.Machine.execFinishingCompletion title s
  | .clipListOverflow title => Sys2Proof.Machine.execClipListOverflow title s
  | .loadAbort r => Sys2Proof.Machine.execLoadAbort r s
  | .unload r => Sys2Proof.Machine.execUnload r s
  | .arm r => Sys2Proof.Machine.execArm r s
  | .run r => Sys2Proof.Machine.execRun r s
  | .hold r => Sys2Proof.Machine.execHold r s
  | .darken r => Sys2Proof.Machine.execDarken r s
  | .position r => Sys2Proof.Machine.execPosition r s
  | .assignFeed r => Sys2Proof.Machine.execAssignFeed r s
  | .assignAir r => Sys2Proof.Machine.execAssignAir r s
  | .report r => Sys2Proof.Machine.execReport r s
  | .pull r => Sys2Proof.Machine.execPull r s
  | .sense r => Sys2Proof.Machine.execSense r s
  | .setLoadIdleTime r => Sys2Proof.Machine.execSetLoadIdleTime r s
  | .setKeepAliveTime r => Sys2Proof.Machine.execSetKeepAliveTime r s
  | .setUrgencyMargin r => Sys2Proof.Machine.execSetUrgencyMargin r s
  | .setJumpThreshold r => Sys2Proof.Machine.execSetJumpThreshold r s
  | .setGainExponent r => Sys2Proof.Machine.execSetGainExponent r s
  | .setSilenceInterval r => Sys2Proof.Machine.execSetSilenceInterval r s
  | .setLead r => Sys2Proof.Machine.execSetLead r s
  | .setCapacity r => Sys2Proof.Machine.execSetCapacity r s
  | .setRepeatPeriod r => Sys2Proof.Machine.execSetRepeatPeriod r s
  | .setWindow r => Sys2Proof.Machine.execSetWindow r s
  | .setBitRate r => Sys2Proof.Machine.execSetBitRate r s
  | .bitRateChangeApplies port => Sys2Proof.Machine.execBitRateChangeApplies port s
  | .stats r => Sys2Proof.Machine.execStats r s
  | .tableRead r => Sys2Proof.Machine.execTableRead r s
  | .cacheProbe r => Sys2Proof.Machine.execCacheProbe r s
  | .cacheFlush r => Sys2Proof.Machine.execCacheFlush r s
  | .clipDefine r => Sys2Proof.Machine.execClipDefine r s
  | .clipDelete r => Sys2Proof.Machine.execClipDelete r s
  | .clipWriteEnable r => Sys2Proof.Machine.execClipWriteEnable r s
  | .clipProgram r => Sys2Proof.Machine.execClipProgram r s
  | .clipErase r => Sys2Proof.Machine.execClipErase r s
  | .clipVerify r => Sys2Proof.Machine.execClipVerify r s
  | .clipProtect r => Sys2Proof.Machine.execClipProtect r s
  | .flashArbiterChoice => Sys2Proof.Machine.execFlashArbiterChoice s
  | .fetchCompletion => Sys2Proof.Machine.execFetchCompletion s
  | .programCompletion => Sys2Proof.Machine.execProgramCompletion s
  | .eraseCompletion => Sys2Proof.Machine.execEraseCompletion s
  | .verifyTurnCompletion => Sys2Proof.Machine.execVerifyTurnCompletion s
  | .frameCheckFail port => Sys2Proof.Machine.execFrameCheckFail port s
  | .frameLengthDiscard port => Sys2Proof.Machine.execFrameLengthDiscard port s
  | .frameGapTimeout port => Sys2Proof.Machine.execFrameGapTimeout port s
  | .breakCondition port => Sys2Proof.Machine.execBreakCondition port s
  | .owedByteDiscard port => Sys2Proof.Machine.execOwedByteDiscard port s
  | .unknownRequest port kind tag => Sys2Proof.Machine.execUnknownRequest port kind tag s
  | .responseSent port => Sys2Proof.Machine.execResponseSent port s
  | .syncByte port => Sys2Proof.Machine.execSyncByte port s

end Sys2Proof.Machine
end

