-- ==== Sys2Proof/Safety.lean ====
section
/-! DEFINITION. The words the statements use: requests with their kinds, answers, bodies laid out as bytes; and what a sound state of the part is: the laws the spec states (R19, R20, R79, R96, R100, R108, R121, R128, R129, R148, R163, R188, R189, R193, R211) and the facts they rest on. -/

namespace Sys2Proof.Safety

open Sys2Proof.Machine

/-- The request a command is, with its kind by the table of R205; none for an event. -/
def asRequest : Instr → Option (Req × Byte)
  | .powerOn => none
  | .reset r => some (r, 28)
  | .resetTakesEffect => none
  | .houseTick => none
  | .silenceBoundary _ => none
  | .houseSecondBoundary => none
  | .keepAliveExpiry => none
  | .loadIdleTimeout _ => none
  | .loadOpen r => some (r, 6)
  | .loadData r => some (r, 7)
  | .loadFinish r => some (r, 8)
  | .finishingCompletion _ => none
  | .clipListOverflow _ => none
  | .loadAbort r => some (r, 9)
  | .unload r => some (r, 10)
  | .arm r => some (r, 1)
  | .run r => some (r, 2)
  | .hold r => some (r, 3)
  | .darken r => some (r, 4)
  | .position r => some (r, 5)
  | .assignFeed r => some (r, 14)
  | .assignAir r => some (r, 15)
  | .report r => some (r, 13)
  | .pull r => some (r, 12)
  | .sense r => some (r, 11)
  | .setLoadIdleTime r => some (r, 16)
  | .setKeepAliveTime r => some (r, 16)
  | .setUrgencyMargin r => some (r, 16)
  | .setJumpThreshold r => some (r, 16)
  | .setGainExponent r => some (r, 16)
  | .setSilenceInterval r => some (r, 16)
  | .setLead r => some (r, 16)
  | .setCapacity r => some (r, 16)
  | .setRepeatPeriod r => some (r, 16)
  | .setWindow r => some (r, 16)
  | .setBitRate r => some (r, 16)
  | .bitRateChangeApplies _ => none
  | .stats r => some (r, 17)
  | .tableRead r => some (r, 18)
  | .cacheProbe r => some (r, 19)
  | .cacheFlush r => some (r, 20)
  | .clipDefine r => some (r, 21)
  | .clipDelete r => some (r, 22)
  | .clipWriteEnable r => some (r, 23)
  | .clipProgram r => some (r, 24)
  | .clipErase r => some (r, 25)
  | .clipVerify r => some (r, 26)
  | .clipProtect r => some (r, 27)
  | .flashArbiterChoice => none
  | .fetchCompletion => none
  | .programCompletion => none
  | .eraseCompletion => none
  | .verifyTurnCompletion => none
  | .frameCheckFail _ => none
  | .frameLengthDiscard _ => none
  | .frameGapTimeout _ => none
  | .breakCondition _ => none
  | .owedByteDiscard _ => none
  | .unknownRequest _ _ _ => none
  | .responseSent _ => none
  | .syncByte _ => none

/-- The body length R214 fixes for a request, for the requests whose length does not depend on their contents. -/
def fixedLength : Instr → Option Nat
  | .arm _ | .assignFeed _ | .assignAir _ | .clipDelete _ | .clipErase _ | .clipVerify _ | .clipProtect _ => some 2
  | .run _ | .hold _ | .darken _ | .pull _ | .unload _ | .loadFinish _ | .loadAbort _ | .sense _ | .stats _ => some 1
  | .position _ | .clipDefine _ => some 6
  | .setLoadIdleTime _ | .setKeepAliveTime _ | .setUrgencyMargin _ | .setJumpThreshold _ | .setGainExponent _ => some 6
  | .setSilenceInterval _ | .setLead _ | .setCapacity _ | .setRepeatPeriod _ | .setWindow _ | .setBitRate _ => some 6
  | .tableRead _ => some 3
  | .cacheProbe _ => some 4
  | .cacheFlush _ | .clipWriteEnable _ | .reset _ => some 0
  | .clipProgram _ => some 514
  | _ => none

/-- The state with port `p` owing an answer to a request of kind `kind` and tag `tag` (R203 to R205). -/
def answer (p : Port) (kind tag : Byte) (x : Reply) (t : State) : State :=
  t.owe p ⟨kind, tag, x.code, x.clamped, x.data⟩

/-- The value nearest to `v` in the range `lo` to `hi` (00_scope, Settings out of range). -/
def nearest (lo hi v : Nat) : Nat := if v < lo then lo else if hi < v then hi else v

/-- The answer of SET for the value `v` and the range `lo` to `hi` (R207). -/
def setAnswer (lo hi v : Nat) : Reply := ⟨.ok, decide (v < lo ∨ hi < v), le 4 (nearest lo hi v)⟩

/-- The body bytes of a declaration (R214). -/
def declBytes (d : Decl) : List Byte :=
  le 8 d.key.toNat ++ [byte d.reelCount, byte d.trackCount] ++ d.reels.flatMap (le 3 ·) ++
    d.tracks.flatMap (fun t => [byte t.kindCode] ++ t.lang ++ le 2 t.nDecl) ++ le 3 d.textBytes

/-- The bytes of an entry in a LOAD.DATA body (R214). -/
def entryBytes : RawEntry → List Byte
  | .caption start dur bits text => le 3 start ++ le 2 dur ++ [byte bits, byte text.length] ++ text
  | .description start dur clipBlock level => le 3 start ++ le 2 dur ++ le 3 clipBlock ++ [byte level]

/-- The code of a REPORT item kind (R214). -/
def itemCode : ItemKind → Nat
  | .hello => 0
  | .choose => 1
  | .alive => 2
  | .bye => 3

/-- The twelve bytes of a REPORT item (R214). -/
def itemBytes (kind : ItemKind) (aud : Nat) (id : BitVec 32) (caption desc : Option Lang) : List Byte :=
  [byte (itemCode kind), byte aud] ++ le 4 id.toNat ++ prefBytes caption ++ prefBytes desc

/-- The declaration's counts match its lists and every item fits its field of R214. -/
def declFits (d : Decl) : Prop :=
  d.reelCount = d.reels.length ∧ d.trackCount = d.tracks.length ∧ d.reelCount < 256 ∧ d.trackCount < 256 ∧
    (∀ x ∈ d.reels, x < 2 ^ 24) ∧ d.textBytes < 2 ^ 24 ∧
    ∀ t ∈ d.tracks, t.kindCode < 256 ∧ t.lang.length = 3 ∧ t.nDecl < 65536

/-- Every item of the declaration lies in its range (R4, R27). -/
def declInRange (d : Decl) : Prop :=
  (1 ≤ d.reelCount ∧ d.reelCount ≤ 16) ∧ (1 ≤ d.trackCount ∧ d.trackCount ≤ 8) ∧ (∀ x ∈ d.reels, 1 ≤ x) ∧
    d.reels.sum ≤ 16777215 ∧ d.textBytes ≤ 2097151 ∧
    ∀ t ∈ d.tracks, t.kindCode ≤ 1 ∧ (∀ c ∈ t.lang, 97 ≤ c.toNat ∧ c.toNat ≤ 122) ∧ t.nDecl ≤ 16383

/-- The entry is of the track's kind and every item of it fits its field of R214. -/
def entryFits (k : TrackKind) : RawEntry → Prop
  | .caption start dur bits text => k = .caption ∧ start < 2 ^ 24 ∧ dur < 65536 ∧ bits < 256 ∧ text.length < 256
  | .description start dur clipBlock level =>
    k = .description ∧ start < 2 ^ 24 ∧ dur < 65536 ∧ clipBlock < 2 ^ 24 ∧ level < 256

/-- Some description entry of the title names the clip (R14). -/
def namesClip (m : List Host.Cell) (ti : Title) (c : Nat) : Prop :=
  ∃ (i : Nat) (tr : Track) (k : Nat), ti.tracks[i]? = some tr ∧ tr.kind = .description ∧ k < tr.n ∧ (descEntry m ti tr k).clip = c

/-- The state once the load of title `t`, whose loader port is `p`, is released: the record is FREE, its region is in
the free-extent list, and the context is closed (R2, R18, R25). -/
def loadReleased (s : State) (t : TitleNo) (p : LoadPort) : State :=
  { s with
    titles := { s.titles with
      recs := setAt s.titles.recs t Title.free
      free := releaseRegion (s.title t).base (s.title t).count s.titles.free }
    loader := { s.loader with ctx := setAt s.loader.ctx p .closed } }

/-- The state once that load fails for a reason: released, and LOAD_FAILED latched (R41). -/
def loadFailed (s : State) (t : TitleNo) (p : LoadPort) (reason : FailReason) : State :=
  { loadReleased s t p with link := s.link.latchLoadFailed p t reason }

/-- Every block but the Link Interface and the Clip Storage Controller is at its reset value; the cue store's content,
the queue and the free-value counter stand (R24, R45, R66, R91, R114, R138, R161, R180; log 17). -/
def blocksReset (s t : State) : Prop :=
  t.titles = { TitleBlock.reset with cue := s.titles.cue } ∧ t.loader = LoaderBlock.reset ∧
    t.shows = fillTable 16 Context.reset ∧ t.clock = ClockBlock.reset ∧ t.cues = CueBlock.reset ∧
    t.rcv = ReceiverBlock.reset ∧ t.frame = FrameBlock.reset ∧ t.stream = StreamBlock.reset ∧ t.due = Due.reset ∧
    t.freeCount = s.freeCount ∧ t.pending = s.pending

/-- The Link Interface after RESET: flags clear, lines released, link errors 0, bit rates kept, M owing the RESET's
answer, another owing port still owing, every other port in HUNT (R204, R211, R212). -/
def linkReset (s t : State) (tag : Byte) : Prop :=
  t.link = { LinkBlock.reset with ports := t.link.ports } ∧
    ∀ p : Port, (t.port p).linkErrors = 0 ∧ (t.port p).bitRate = (s.port p).bitRate ∧
      (t.port p).newRate = (s.port p).newRate ∧
      if p = .m then ∃ counted, (t.port p).rx = .owed (some ⟨28, tag, .ok, false, []⟩) counted
      else (t.port p).rx = (if s.owing p then (s.port p).rx else .hunt)

/-- The reported show time of frame `frame` at `tpf` ticks a frame in reel `reel`, and whether it was clamped to the
reel's last tick (R4, R72). -/
def reportedTime (reels : List Nat) (reel frame tpf : Nat) : Nat × Bool :=
  let start := (reels.take reel).sum
  let len := reels.getD reel 0
  if frame * tpf < len then (start + frame * tpf, false) else (start + len - 1, true)

/-- The state once a report of auditorium `a` was clamped: the reel-clamp statistic counts one and END_OF_REEL is latched
on the feed owner `n` (R72). -/
def reelClamped (s : State) (a : Aud) (n : Fin 4) : State :=
  { s with
    clock := { s.clock with
      auds := setAt s.clock.auds a { s.clock.auds[a] with reelClamps := bump s.clock.auds[a].reelClamps } }
    link := s.link.latchFeed n .endOfReel a }

/-- The entries of a track lie in order, each ending no later than the next starts, and its anchors hold the starts of
entries 0, 32, 64 and so on (R7, R11, R13). -/
def TrackSound (m : List Host.Cell) (x : TitleTrack) : Prop :=
  (∀ i j, i < j → j < x.track.n → entryEnd m x.title x.track i ≤ entryStart m x.title x.track j) ∧
    x.track.anchorCount = ceilDiv x.track.n 32 ∧
    ∀ k, k < x.track.anchorCount → anchorAt m x.title x.track k = entryStart m x.title x.track (32 * k)

/-- `i` is the lowest index whose entry ends after `t`, or n when none does (R93). -/
def isLowestAfter (m : List Host.Cell) (x : TitleTrack) (t i : Nat) : Prop :=
  i ≤ x.track.n ∧ (∀ j, j < i → entryEnd m x.title x.track j ≤ t) ∧
    (i < x.track.n → t < entryEnd m x.title x.track i)

/-- `new` is the clip store `old` with the page of `block` programmed: each of its 528 bytes is the AND of its old value and
the byte written, the 512 data bytes, the check word, 14 bytes of 0xFF (R191). -/
def programmed (old new : List Host.Cell) (block : Nat) (data : List Byte) (check : Nat) : Prop :=
  ∀ a, Memory.read flashEmpty new a =
    if 528 * block ≤ a ∧ a < 528 * block + 528 then
      Memory.read flashEmpty old a &&& (data ++ le 2 check ++ List.replicate 14 0xFF).getD (a - 528 * block) 0
    else Memory.read flashEmpty old a

/-- `new` is the clip store `old` with every byte of the sector 0xFF (R192). -/
def erased (old new : List Host.Cell) (sector : Nat) : Prop :=
  ∀ a, Memory.read flashEmpty new a =
    if 8448 * sector ≤ a ∧ a < 8448 * sector + 8448 then 0xFF else Memory.read flashEmpty old a

/-- Is `b` a block of the clip (R183)? -/
def inExtent (d : ClipEntry) (b : Nat) : Prop := d.defined = true ∧ d.first ≤ b ∧ b < d.first + d.length

/-- Has the defined clip a block in the sector (R55, R187)? -/
def clipInSector (d : ClipEntry) (sector : Nat) : Prop := ∃ b, inExtent d b ∧ b / 16 = sector

/-- Does the pending operation target the sector (R55)? -/
def targets (op : Maintenance) (sector : Nat) : Prop :=
  (∃ st block data check, op = .program st block data check ∧ block / 16 = sector) ∨ ∃ st, op = .erase st sector

/-- A clip of the list has a block in the sector a pending program or erase targets (R55). -/
def armConflicts (s : State) (clips : List Nat) : Prop :=
  ∃ (c : ClipNo) (sector : Nat), c.val ∈ clips ∧ targets s.store.op sector ∧ clipInSector s.store.directory[c] sector

/-- The sector is protected: below the floor, or with a block of a defined clip in use (R187). -/
def sectorProtected (s : State) (sector : Nat) : Prop :=
  sector < s.store.floor ∨ ∃ c : ClipNo, s.store.inUse[c] ≠ 0 ∧ clipInSector s.store.directory[c] sector

/-- Every rising edge of a description track from `counts` to `u`'s is handed on: the track has a stream, or is UNSERVED
(R130, R164). -/
def edgesHandled (counts : Vector (Vector Nat 8) 16) (u : State) : Prop :=
  ∀ (a : Aud) (t : TrackNo), isKind u .description a t = true → counts[a][t] = 0 → 1 ≤ u.rcv.counts[a][t] →
    (u.stream.streamOf a t).isSome = true ∨ u.stream.isUnserved a t = true

/-- Everything but the Link Interface, the Cue Locator and the Stream Unit is as in `u`: what handing on edges, a refill, a
fill and a grant of room leave (R131, R169, R170, R176). -/
def otherBlocks (u t : State) : Prop :=
  t.titles = u.titles ∧ t.loader = u.loader ∧ t.shows = u.shows ∧ t.clock = u.clock ∧ t.rcv = u.rcv ∧
    t.frame = u.frame ∧ t.store = u.store ∧ t.due = u.due ∧ t.freeCount = u.freeCount ∧ t.pending = u.pending

/-- The Link Interface of `u` but for STREAM_DENIED and M's attention line, which a denied stream request may raise
(R164). -/
def linkButDenied (u t : LinkBlock) : Prop :=
  t.ports = u.ports ∧ t.load = u.load ∧ t.feed = u.feed ∧ t.air = u.air ∧ t.resetTag = u.resetTag ∧
    t.mgmt = { u.mgmt with streamDenied := t.mgmt.streamDenied } ∧
    ∀ p : Port, p ≠ .m → t.attention[portIx p] = u.attention[portIx p]

/-- The supply count of description entry `j` of a track (R167). -/
def entrySupply (s : State) (x : TitleTrack) (j : Nat) : Nat :=
  let d := descEntry s.titles.cue x.title x.track j
  let dir := clipEntry s d.clip
  if dir.defined then min (ceilDiv d.dur 96) (dir.length - d.first) else min (ceilDiv d.dur 96) (4096 - d.first)

/-- `next` is the first block that the track supplies from block `k` of entry `e` on: that block, where entry `e` supplies
it; else the first block of the next entry whose supply count is above 0; ended where no such entry remains (R167). -/
def comesNext (s : State) (x : TitleTrack) (e k : Nat) (next : Option (Nat × Nat)) : Prop :=
  let first := fun j => (descEntry s.titles.cue x.title x.track j).first
  (k < first e + entrySupply s x e → next = some (e, k)) ∧
    (first e + entrySupply s x e ≤ k →
      ((∀ j, e < j → j < x.track.n → entrySupply s x j = 0) → next = none) ∧
      ∀ j, e < j → j < x.track.n → entrySupply s x j ≠ 0 → (∀ l, e < l → l < j → entrySupply s x l = 0) →
        next = some (j, first j))

/-- Stream `i` waits for room, and `d` is the slack of its next position (R169, R170). -/
def waitsWith (s : State) (i : StreamNo) (d : Int) : Prop :=
  let st := s.stream.entries[i]
  ∃ (e k : Nat) (x : TitleTrack), st.alloc = true ∧ st.ring.length < 8 ∧ st.next = some (e, k) ∧
    trackOf s st.aud st.track = some x ∧
    let c := descEntry s.titles.cue x.title x.track e
    d = ((c.start + 96 * (k - c.first) : Nat) : Int) -
      (min (s.clock.auds[st.aud].pos / 65536 + lead s st.aud) 16777215 : Nat)

/-- The state with one more section skipped for air port `p` (R146). -/
def sectionSkipped (s : State) (p : Fin 2) : State :=
  { s with frame := { s.frame with
      air := setAt s.frame.air p { s.frame.air[p] with deferred := bump s.frame.air[p].deferred } } }

/-- Law of attention (R211): a port's line is low exactly when at least one of its latched conditions is set. -/
def AttentionLaw (s : State) : Prop := ∀ p : Port, s.link.attention[portIx p] = s.link.flagged p

/-- Law of the show clock (R79): each trim within -655 to 655, each position within 0 to 2^40 - 1. -/
def ClockLaw (s : State) : Prop :=
  ∀ a : Aud, s.clock.auds[a].pos ≤ Config.maxPos ∧
    -Config.maxTrim ≤ s.clock.auds[a].trim ∧ s.clock.auds[a].trim ≤ Config.maxTrim

/-- Every reel table totals at most 16,777,215 ticks (R4). -/
def ReelLaw (s : State) : Prop := ∀ t : TitleNo, (s.title t).reels.sum ≤ Config.maxShow

/-- Does the run of `c` slots from `b` hold slot `n`? -/
def holdsSlot (b c n : Nat) : Bool := b ≤ n && n < b + c

/-- How many free extents, and regions of titles that are not FREE, hold slot `n`. -/
def slotOwners (s : State) (n : Nat) : Nat :=
  s.titles.free.countP (fun e => holdsSlot e.base e.count n) +
    all24.countP fun t => (s.title t).state != .free && holdsSlot (s.title t).base (s.title t).count n

/-- Law of the cue store (R16, R19): the free extents and the regions of titles not FREE cover every slot exactly once
(and no slot beyond the store); free extents are not empty, ascend, and do not touch. -/
def CueStoreLaw (s : State) : Prop :=
  (∀ n, slotOwners s n = if n < Config.slots then 1 else 0) ∧
    (∀ e ∈ s.titles.free, 1 ≤ e.count) ∧ s.titles.free.Pairwise fun e e' => e.base + e.count < e'.base

/-- A context is DARK exactly when it holds no title (R46). -/
def DarkLaw (s : State) : Prop := ∀ a : Aud, s.shows[a].state = .dark ↔ s.shows[a].title = none

/-- How many contexts that are not DARK hold the title. -/
def holders (s : State) (t : TitleNo) : Nat :=
  allAuds.countP fun a => s.shows[a].state != .dark && s.shows[a].title == some t

/-- Law of the title table (R20): a reference count is the number of contexts not DARK that hold the handle, and a
title with a nonzero count is READY. -/
def TitleLaw (s : State) : Prop :=
  ∀ t : TitleNo, (s.title t).refs = holders s t ∧ ((s.title t).refs ≠ 0 → (s.title t).state = .ready)

/-- Law of the position cache (R108): no two valid ways of a set hold the same key, and every valid way names a READY
title. -/
def CacheLaw (s : State) : Prop :=
  ∀ i : Fin 16,
    (∀ w w' : Fin 4, s.cues.sets[i].ways[w].valid → s.cues.sets[i].ways[w'].valid →
      s.cues.sets[i].ways[w].handle = s.cues.sets[i].ways[w'].handle →
      s.cues.sets[i].ways[w].track = s.cues.sets[i].ways[w'].track →
      s.cues.sets[i].ways[w].bucket = s.cues.sets[i].ways[w'].bucket → w = w') ∧
    ∀ w : Fin 4, s.cues.sets[i].ways[w].valid →
      ∃ t : TitleNo, handle t = s.cues.sets[i].ways[w].handle ∧ (s.title t).state = .ready

/-- What every lookup rests on (R96, R100): each entry below a valid cursor's index has ended by its placed-at, and a valid
way holds the bucket index of its key. -/
def LocateLaw (s : State) : Prop :=
  (∀ (a : Aud) (t : TrackNo) (x : TitleTrack), trackOf s a t = some x → s.cues.cursors[a][t].valid = true →
    s.cues.cursors[a][t].index ≤ x.track.n ∧
      ∀ j, j < s.cues.cursors[a][t].index →
        entryEnd s.titles.cue x.title x.track j ≤ s.cues.cursors[a][t].placedAt) ∧
    ∀ (i : Fin 16) (w : Fin 4) (h : TitleNo) (tr : Track),
      let y := s.cues.sets[i].ways[w]
      y.valid = true → y.handle = handle h → (s.title h).tracks[y.track]? = some tr →
        isLowestAfter s.titles.cue ⟨s.title h, tr⟩ (2048 * y.bucket) y.index

/-- The laws of titles, contexts and the position cache together: each needs the others to be kept by every step. -/
def ShowLaw (s : State) : Prop := TitleLaw s ∧ DarkLaw s ∧ CacheLaw s

/-- Law of the receiver table (R121): each id is held by at most one BOUND record. -/
def ReceiverLaw (s : State) : Prop :=
  ∀ i j : RecNo, s.rcv.recs[i].bound → s.rcv.recs[j].bound → s.rcv.recs[i].id = s.rcv.recs[j].id → i = j

/-- Law of the subscriber counts (R129): the count of (a, t) is the number of BOUND records with auditorium a whose
resolved caption or description track is t. -/
def CountLaw (s : State) : Prop :=
  ∀ (a : Aud) (t : TrackNo), s.rcv.counts[a][t] = allRecs.countP fun i => s.rcv.recs[i].wants a t

/-- The 12 header bytes of a payload of `count` sections that auditorium `a` gets on air port `p` (R142, R143, R214). -/
def payloadHeader (s : State) (p : Fin 2) (a : Aud) (count : Nat) : List Byte :=
  let air := s.frame.air[p]
  [byte a.val, byte s.shows[a].state.toNat] ++ le 3 (min (s.clock.auds[a].pos / 65536 + air.lead) 16777215) ++
    le 2 air.lead ++ [byte air.repeatPeriod] ++ le 2 (s.frame.auds[a].seq + 1).toNat ++
    [byte count, byte (flag s.frame.auds[a].stepPending + 2 * flag (s.shows[a].state == .freewheel))]

/-- Is the track a subscribed one of the kind (R142)? -/
def isSubscribed (s : State) (k : TrackKind) (a : Aud) (v : TrackNo) : Bool :=
  isKind s k a v && decide (1 ≤ s.rcv.counts[a][v])

/-- The Frame Builder state after steps 1 to 4 of a PULL: the sequence number one more, STEP taken, tracks that are no
subscribed caption track cleared, the other countdowns one less (R142). -/
def pulled (s : State) (a : Aud) : State :=
  s.modFrame a fun f => ⟨f.seq + 1, false,
    Vector.ofFn fun v => if isSubscribed s .caption a v then f.sent[v] else .nothing,
    Vector.ofFn fun v => if isSubscribed s .caption a v then f.countdown[v] - 1 else 0⟩

/-- The bytes that air what a lookup found on a caption track: a CAPTION of the active entry, or a CLEAR with the start of
the next (R145, R154, R214). -/
def captionBytes (m : List Host.Cell) (x : TitleTrack) (v : TrackNo) (f : Found) (isRepeat : Bool) : List Byte :=
  if f.active then
    let e := captionEntry m x.title x.track f.index
    [byte (16 + v.val), byte (flag e.top + 2 * flag e.italic + 4 * flag isRepeat), byte e.textLength] ++
      le 3 e.start ++ le 2 e.dur ++ captionText m x.title e
  else
    byte (32 + v.val) :: le 3 (if f.index < x.track.n then entryStart m x.title x.track f.index else 16777215)

/-- The bytes that air a ring position: AUDIO of a PRESENT one, else SILENCE with its reason (R145, R150, R214). -/
def blockSection (v : TrackNo) (p : RingPos) : List Byte :=
  let tail := le 3 p.play ++ le 3 (p.clip + 4096 * p.block)
  let high := 128 * (p.play / 2 ^ 24 % 2)
  match p.state with
  | .present data => [byte (48 + v.val), byte (p.level + high)] ++ tail ++ data
  | .outstanding => [byte (64 + v.val), byte high] ++ tail
  | .bad => [byte (64 + v.val), byte (1 + high)] ++ tail
  | .silent => [byte (64 + v.val), byte (2 + high)] ++ tail

/-- The state with record `i` of the Receiver Table replaced, the counts left alone. -/
def withRec (s : State) (i : RecNo) (x : Receiver) : State :=
  { s with rcv := { s.rcv with recs := setAt s.rcv.recs i x } }

/-- `u` is `s` after a change of records: the records and counts of `u`, the law of the counts kept, the rising edges
handed on, and nothing else but streams, cursors and STREAM_DENIED (R129, R131, R164, R165). -/
def recordsChanged (s u : State) : Prop :=
  otherBlocks { s with rcv := { s.rcv with recs := u.rcv.recs, counts := u.rcv.counts } } u ∧ linkButDenied s.link u.link ∧
    (CountLaw s → CountLaw u) ∧ edgesHandled s.rcv.counts u

/-- Every ring holds at most 8 positions (R163) and the fetch pool at most 32 records (R189). -/
def StreamLaw (s : State) : Prop :=
  (∀ i : StreamNo, s.stream.entries[i].ring.length ≤ Config.ringSize) ∧ s.stream.pool.length ≤ Config.poolSize

/-- The entries of every title that is not FREE lie in order, each ending no later than the next starts, and the anchors
of a READY one hold their entries' starts (R7, R11, R13). -/
def EntryLaw (s : State) : Prop :=
  ∀ (t : TitleNo) (i : Nat) (tr : Track), (s.title t).state ≠ .free → (s.title t).tracks[i]? = some tr →
    (∀ j k, j < k → k < tr.n →
      entryEnd s.titles.cue (s.title t) tr j ≤ entryStart s.titles.cue (s.title t) tr k) ∧
    ((s.title t).state = .ready → TrackSound s.titles.cue ⟨s.title t, tr⟩)

/-- The streams and the UNSERVED marks (R148, R162, R164, R165): no track has two streams, or a stream and a mark; and the
tracks with either are exactly the subscribed description tracks. -/
def ServeLaw (s : State) : Prop :=
  let serves := fun (i : StreamNo) (a : Aud) (v : TrackNo) =>
    s.stream.entries[i].alloc = true ∧ s.stream.entries[i].aud = a ∧ s.stream.entries[i].track = v
  (∀ i j a v, serves i a v → serves j a v → i = j) ∧
    ∀ a v, ¬((∃ i, serves i a v) ∧ s.stream.unserved[a][v] = true) ∧
      ((∃ i, serves i a v) ∨ s.stream.unserved[a][v] = true ↔
        isKind s .description a v = true ∧ 1 ≤ s.rcv.counts[a][v])

/-- Law of the rings (R163), its second half: the play times of a ring rise strictly; with what the fill rests on: a
stream's next fetch position is a block of an entry of its track, within the entry's effective duration, that plays after
every position of its ring (R167, R169). -/
def RingLaw (s : State) : Prop :=
  ∀ i : StreamNo,
    let st := s.stream.entries[i]
    st.ring.Pairwise (fun p q => p.play < q.play) ∧
      ∀ (e k : Nat) (x : TitleTrack), st.alloc = true → st.next = some (e, k) → trackOf s st.aud st.track = some x →
        let d := descEntry s.titles.cue x.title x.track e
        e < x.track.n ∧ d.first ≤ k ∧ k < d.first + ceilDiv d.dur 96 ∧
          ∀ p ∈ st.ring, p.play < d.start + 96 * (k - d.first)

/-- Every setting lies in its range (R207). -/
def SettingsLaw (s : State) : Prop :=
  (5 ≤ s.loader.idleTime ∧ s.loader.idleTime ≤ 120) ∧ (10 ≤ s.rcv.keepAlive ∧ s.rcv.keepAlive ≤ 600) ∧
  (60 ≤ s.store.margin ∧ s.store.margin ≤ 2400) ∧
  (∀ a : Aud, (1 ≤ s.clock.auds[a].jump ∧ s.clock.auds[a].jump ≤ 65535) ∧
    (12 ≤ s.clock.auds[a].gain ∧ s.clock.auds[a].gain ≤ 20) ∧
    120 ≤ s.clock.auds[a].interval ∧ s.clock.auds[a].interval ≤ 12000) ∧
  (∀ p : Fin 2, s.frame.air[p].lead ≤ 2400 ∧
    (512 ≤ s.frame.air[p].capacity ∧ s.frame.air[p].capacity ≤ 4096) ∧
    (1 ≤ s.frame.air[p].repeatPeriod ∧ s.frame.air[p].repeatPeriod ≤ 64) ∧ s.frame.air[p].window ≤ 1200) ∧
  ∀ p : Port, (9600 ≤ (s.port p).bitRate ∧ (s.port p).bitRate ≤ 12000000) ∧
    ∀ v, (s.port p).newRate = some v → 9600 ≤ v ∧ v ≤ 12000000

/-- While a program or erase is pending, no defined clip with a nonzero in-use count has a block in its sector: what
the law of the clip store rests on (R55, R187, R188). -/
def InterlockLaw (s : State) : Prop :=
  ∀ sector, s.store.op.targetSector = some sector →
    ∀ c : ClipNo, s.store.inUse[c] ≠ 0 → s.store.directory[c].inSector sector = false

/-- A pending program holds the 512 data bytes of its page (R191). -/
def ProgramLaw (s : State) : Prop :=
  ∀ st block data check, s.store.op = .program st block data check → data.length = 512

/-- The clip directory (R183): a defined clip's extent has 1 to 4,096 blocks and lies in the store, a clear entry is zero,
and the extents of two defined clips do not overlap. -/
def DirectoryLaw (s : State) : Prop :=
  (∀ c : ClipNo, if s.store.directory[c].defined = true then
      1 ≤ s.store.directory[c].length ∧ s.store.directory[c].length ≤ 4096 ∧
        s.store.directory[c].first + s.store.directory[c].length ≤ 65536
    else s.store.directory[c] = ⟨false, 0, 0⟩) ∧
  ∀ (c d : ClipNo) (b : Nat), inExtent s.store.directory[c] b → inExtent s.store.directory[d] b → c = d

/-- What holds the flash agrees with the maintenance record (R173, R189): idle or a fetch while nothing of maintenance
is IN_FLIGHT, else the operation that is. -/
def FlashLaw (s : State) : Prop :=
  match s.store.use with
  | .idle => s.store.op = .none ∨ s.store.op.waiting
  | .fetch _ => s.store.op = .none ∨ s.store.op.waiting
  | .program => ∃ block data check, s.store.op = .program .inFlight block data check
  | .erase => ∃ sector, s.store.op = .erase .inFlight sector
  | .verify => ∃ clip first length read failed, s.store.op = .verify .inFlight clip first length read failed

/-- Both stores are in canonical form. -/
def MemoryLaw (s : State) : Prop := Memory.wf cueEmpty s.titles.cue ∧ Memory.wf flashEmpty s.store.flash

/-- An open load context's phase is the state of the title it names, whose loader port is the context's (R25). -/
def LoadLaw (s : State) : Prop :=
  ∀ p : LoadPort,
    match s.loader.ctx[p] with
    | .closed => True
    | .loading t => (s.title t).state = .loading ∧ (s.title t).loader = some p
    | .finishing t => (s.title t).state = .finishing ∧ (s.title t).loader = some p

/-- The place and bounds R5, R10, R13 and R15 give the parts of a title. -/
def laidOut (ti : Title) : Prop :=
  let pool := ceilDiv ti.textBytes Config.slotBytes
  ti.count = ti.entries + pool + (ti.tracks.map fun tr => ceilDiv tr.nDecl Config.anchorSpan).sum ∧
    ti.fill ≤ ti.textBytes ∧ ti.textBytes ≤ 2097151 ∧
    ∀ i tr, ti.tracks[i]? = some tr →
      tr.entryBase = ((ti.tracks.take i).map (·.nDecl)).sum ∧
      tr.anchorBase =
        ti.entries + pool + ((ti.tracks.take i).map fun u => ceilDiv u.nDecl Config.anchorSpan).sum ∧
      tr.n ≤ tr.nDecl ∧
      tr.anchorCount = if ti.state = .ready then ceilDiv tr.n Config.anchorSpan else 0

/-- Every title that is not FREE is laid out by R15, and its clip list is ascending, distinct and of at most 256 (R14). -/
def LayoutLaw (s : State) : Prop :=
  ∀ t : TitleNo, (s.title t).state ≠ .free →
    laidOut (s.title t) ∧ (s.title t).clips.Pairwise (· < ·) ∧ (s.title t).clips.length ≤ 256

/-- Every BOUND record's resolved tracks are the resolution of its preferences against its auditorium's title
(R127, R128). -/
def ResolveLaw (s : State) : Prop :=
  ∀ i : RecNo, s.rcv.recs[i].bound = true → resolve s s.rcv.recs[i] = s.rcv.recs[i]

/-- While an erase is IN_FLIGHT and no RESET waits for it, no pooled record has slack below U (R193, R199). -/
def SuspensionLaw (s : State) : Prop :=
  ∀ sector, s.store.op = .erase .inFlight sector → s.link.resetTag = none → urgent s = false

end Sys2Proof.Safety
end

