-- ==== Sys2Proof/Certificates/Slice0/Obligations.lean ====
section
/-! DEFINITION. The statements for the provers: what each command answers and changes, by the rules of spec/, and the laws every step keeps. -/

section Statements

open Sys2Proof Sys2Proof.Machine Sys2Proof.Safety

/-! ### The queue and the ports -/

/-- A step takes the command at the front of the queue; an empty queue idles (the model's choice, log 2). -/
def Obligations.StepTakesFrontCommand : Prop :=
  (∀ (c : Instr) (rest : List Instr) (s : State), s.pending = c :: rest → step s = exec c { s with pending := rest }) ∧
    ∀ s : State, s.pending = [] → step s = .next s

/-- Every command answers a next state, whatever the state, an event whose own condition does not hold included (the
model's choice, log 3), and leaves the queue as it is, at a reset too (the model's choice, log 17). -/
def Obligations.EveryCommandCompletes : Prop :=
  ∀ (c : Instr) (s : State), ∃ t, exec c s = .next t ∧ t.pending = s.pending

/-- A kind that R205 does not give the port is answered UNKNOWN_REQUEST; a body of another length than R214 fixes is
answered BAD_LENGTH; nothing else changes, but for the write-enable latch, which every CLIP.PROGRAM and CLIP.ERASE clears
(R190, R205, R214). -/
def Obligations.RequestsRefusedAtTheDoor : Prop :=
  ((∀ (i : Instr) (r : Req) (k : Byte) (s : State), asRequest i = some (r, k) → i.wellFormed = true →
    s.owing r.port = false → validKind r.port k = false →
    exec i s = .next (answer r.port k r.tag (Reply.of .unknownRequest) s)) ∧
  ∀ (p : Port) (k tag : Byte) (s : State), s.owing p = false → validKind p k = false →
    exec (.unknownRequest p k tag) s = .next (answer p k tag (Reply.of .unknownRequest) s)) ∧
  ∀ (i : Instr) (r : Req) (k : Byte) (n : Nat) (s : State), asRequest i = some (r, k) → i.wellFormed = true →
    s.owing r.port = false → validKind r.port k = true → fixedLength i = some n → r.body.length ≠ n →
    exec i s = .next (answer r.port k r.tag (Reply.of .badLength)
      (if k = 24 ∨ k = 25 then { s with store := { s.store with latch := false } } else s))

/-- Every request but RESET leaves its port owing one response with its kind and tag, CLAMPED with OK alone, data with OK
and ALREADY_LOADED alone; no other port's receiver changes (R203, R205, R206). -/
def Obligations.EveryRequestIsAnswered : Prop :=
  ∀ (i : Instr) (r : Req) (k : Byte) (s : State), asRequest i = some (r, k) → i.wellFormed = true →
    s.owing r.port = false → k ≠ 28 →
    ∃ (t : State) (x : Reply), exec i s = .next t ∧
      (t.port r.port).rx = .owed (some ⟨k, r.tag, x.code, x.clamped, x.data⟩) false ∧
      (x.clamped = true → x.code = .ok) ∧ (x.code ≠ .ok → x.code ≠ .alreadyLoaded → x.data = []) ∧
      ∀ p, p ≠ r.port → (t.port p).rx = (s.port p).rx

/-- The receiver of a port moves by the table of R204; a discarded frame touches no block; a frame that arrives on an
OWED port is discarded, its first byte of the spell counting a link error (R204; that a request is one whole frame is
log 1). -/
def Obligations.ReceiverFollowsItsTable : Prop :=
  (∀ (p : Port) (s : State),
    ((s.port p).rx = .hunt →
      exec (.syncByte p) s = .next (s.setPort p { s.port p with rx := .frame }) ∧
      exec (.frameGapTimeout p) s = .next s ∧ exec (.breakCondition p) s = .next s) ∧
    ((s.port p).rx = .frame →
      let discarded := s.setPort p { s.port p with rx := .hunt, linkErrors := bump (s.port p).linkErrors }
      exec (.syncByte p) s = .next s ∧ exec (.frameLengthDiscard p) s = .next discarded ∧
      exec (.frameGapTimeout p) s = .next discarded ∧ exec (.breakCondition p) s = .next discarded ∧
      exec (.frameCheckFail p) s = .next (s.setPort p { s.port p with
        rx := .owed (some ⟨0, 0, .linkError, false, []⟩) false
        linkErrors := bump (s.port p).linkErrors })) ∧
    (∀ resp, (s.port p).rx = .owed resp false → ∀ c ∈ [Instr.owedByteDiscard p, .syncByte p],
      exec c s = .next (s.setPort p { s.port p with
        rx := .owed resp true
        linkErrors := bump (s.port p).linkErrors })) ∧
    (∀ resp, (s.port p).rx = .owed resp true → ∀ c ∈ [Instr.owedByteDiscard p, .syncByte p], exec c s = .next s) ∧
    ∀ resp counted, (s.port p).rx = .owed (some resp) counted →
      exec (.responseSent p) s = .next (s.setPort p { s.port p with rx := .hunt })) ∧
  ∀ (i : Instr) (r : Req) (k : Byte) (s : State) (resp : Option Response) (counted : Bool),
    asRequest i = some (r, k) → i.wellFormed = true → (s.port r.port).rx = .owed resp counted →
    exec i s = .next (if counted then s else s.setPort r.port { s.port r.port with
      rx := .owed resp true
      linkErrors := bump (s.port r.port).linkErrors })

/-- SET stores a port's bit rate, clamped; it comes into force when the port is idle, on M once the response is sent
(R202, R207); a port counts as sending a response through the whole of OWED (the model's choice, log 29). -/
def Obligations.BitRateIsStoredThenApplied : Prop :=
  (∀ (p : Port) (v : Nat) (tag : Byte) (s : State), v < 2 ^ 32 → s.owing .m = false →
    exec (.setBitRate ⟨.m, tag, [11, byte (portIx p).val] ++ le 4 v⟩) s =
      .next (answer .m 16 tag (setAnswer 9600 12000000 v)
        (s.setPort p { s.port p with newRate := some (nearest 9600 12000000 v) }))) ∧
  (∀ (p : Port) (v : Nat) (s : State), (s.port p).newRate = some v → (s.port p).rx = .hunt →
    exec (.bitRateChangeApplies p) s = .next (s.setPort p { s.port p with bitRate := v, newRate := none })) ∧
  ∀ (p : Port) (s : State), s.owing p = true ∨ ((s.port p).rx = .frame ∧ p ≠ .m) →
    exec (.bitRateChangeApplies p) s = .next s

/-- A latch sets its flag and pulls the line of its port low: an auditorium set gains the auditorium, any other detail is
replaced by the newest, nothing else changes. SENSE returns H, the flag word and the details; with clear set it clears the
port's flags and releases its line, and touches no other port's (R210, R211). Flag word bits for which the port has no flag
are 0 (the model's choice, log 28). -/
def Obligations.SenseReportsAndClears : Prop :=
  (∀ (p : Port) (tag : Byte) (s : State), s.owing p = false →
    (let ds := s.link.details p
     let x := Reply.okData (le 4 s.clock.h.toNat ++ [byte (flagWord ds)] ++ ds.flatMap fun d => d.getD [])
     exec (.sense ⟨p, tag, [0]⟩) s = .next (answer p 11 tag x s) ∧
     ∃ l : LinkBlock, exec (.sense ⟨p, tag, [1]⟩) s = .next (answer p 11 tag x { s with link := l }) ∧
       l.ports = s.link.ports ∧ l.resetTag = s.link.resetTag ∧ (∀ d ∈ l.details p, d = none) ∧
       l.attention[portIx p] = false ∧
       ∀ q, q ≠ p → l.details q = s.link.details q ∧ l.attention[portIx q] = s.link.attention[portIx q]) ∧
    ∀ c : Byte, 1 < c.toNat → exec (.sense ⟨p, tag, [c]⟩) s = .next (answer p 11 tag (Reply.of .range) s)) ∧
  ∀ l : LinkBlock,
    let gains := fun (old new : AudSet) (a : Aud) => ∀ b : Aud, new.getLsbD b.val = (old.getLsbD b.val || decide (b = a))
    let low := fun p : Port => setAt l.attention (portIx p) true
    let feed := fun (n : Fin 4) (x : FeedFlags) => { l with feed := setAt l.feed n x, attention := low (.feed n) }
    let air := fun (n : Fin 2) (x : AirFlags) => { l with air := setAt l.air n x, attention := low (.air n) }
    let load := fun (p : LoadPort) (x : LoadFlags) => { l with load := setAt l.load p x, attention := low (portOfLoad p) }
    let mgmt := fun x : MgmtFlags => { l with mgmt := x, attention := low .m }
    (∀ (n : Fin 4) (a : Aud),
      (∃ y, gains l.feed[n].endOfReel y a ∧ l.latchFeed n .endOfReel a = feed n { l.feed[n] with endOfReel := y }) ∧
      (∃ y, gains l.feed[n].endReached y a ∧ l.latchFeed n .endReached a = feed n { l.feed[n] with endReached := y }) ∧
      (∃ y, gains l.feed[n].step y a ∧ l.latchFeed n .step a = feed n { l.feed[n] with step := y }) ∧
      (∃ y, gains l.feed[n].freewheel y a ∧ l.latchFeed n .freewheel a = feed n { l.feed[n] with freewheel := y }) ∧
      ∃ y, gains l.feed[n].lost y a ∧ l.latchFeed n .lost a = feed n { l.feed[n] with lost := y }) ∧
    (∀ (n : Fin 2) (a : Aud),
      (∃ y, gains l.air[n].tableFull y a ∧ l.latchTableFull n a = air n { l.air[n] with tableFull := y }) ∧
      ∃ y, gains l.air[n].expired y a ∧ l.latchExpired n a = air n { l.air[n] with expired := y }) ∧
    (∀ (p : LoadPort) (t : TitleNo) (r : FailReason),
      l.latchLoadDone p t = load p { l.load[p] with done := some t } ∧
      l.latchLoadFailed p t r = load p { l.load[p] with failed := some (t, r) }) ∧
    (∀ block : Nat, l.latchProgramDone block = mgmt { l.mgmt with programDone := some block }) ∧
    (∀ sector : Nat, l.latchEraseDone sector = mgmt { l.mgmt with eraseDone := some sector }) ∧
    (∀ clip failed : Nat, l.latchVerifyDone clip failed = mgmt { l.mgmt with verifyDone := some (clip, failed) }) ∧
    ∀ a : Aud, ∃ y, gains l.mgmt.streamDenied y a ∧ l.latchStreamDenied a = mgmt { l.mgmt with streamDenied := y }

/-- STATS returns the 114 statistics in 228 bytes; with clear set each of them becomes 0 and nothing else changes
(R208). -/
def Obligations.StatsReturnsAndClears : Prop :=
  ∀ (tag : Byte) (s : State), s.owing .m = false →
    (let x := Reply.okData ((allStats s).flatMap fun n => le 2 n.toNat)
     x.data.length = 228 ∧ exec (.stats ⟨.m, tag, [0]⟩) s = .next (answer .m 17 tag x s) ∧
     ∃ u : State, exec (.stats ⟨.m, tag, [1]⟩) s = .next (answer .m 17 tag x u) ∧
       allStats u = List.replicate 114 0 ∧
       u = { s with
         link := { s.link with ports := u.link.ports }
         clock := { s.clock with auds := u.clock.auds }
         cues := { s.cues with hits := 0, misses := 0 }
         rcv := { s.rcv with joinRefusals := u.rcv.joinRefusals, expiries := u.rcv.expiries }
         frame := { s.frame with air := u.frame.air }
         stream := { s.stream with stats := u.stream.stats, discarded := 0, denials := 0 }
         store := { s.store with suspensions := 0 } } ∧
       (∀ p, u.port p = { s.port p with linkErrors := 0 }) ∧
       (∀ a : Aud, u.clock.auds[a] = { s.clock.auds[a] with steps := 0, reelClamps := 0 }) ∧
       ∀ q : Fin 2, u.frame.air[q] = { s.frame.air[q] with deferred := 0 }) ∧
    ∀ c : Byte, 1 < c.toNat → exec (.stats ⟨.m, tag, [c]⟩) s = .next (answer .m 17 tag (Reply.of .range) s)

/-- TABLE.READ returns the entry named, laid out in the lengths of R214, and changes nothing (R209). The counter that
gives the free values of an ended stream advances past a read of table 3 (the model's choice, log 8). -/
def Obligations.TableReadReturnsEntry : Prop :=
  ∀ (tag : Byte) (s : State), s.owing .m = false →
    (∀ t : TitleNo, exec (.tableRead ⟨.m, tag, 1 :: le 2 (handle t)⟩) s =
        .next (answer .m 18 tag (Reply.okData (s.title t).bytes) s) ∧
      (s.title t).bytes.length =
        28 + 3 * (s.title t).reels.length + 16 * (s.title t).tracks.length + 2 * (s.title t).clips.length) ∧
    (∀ i : RecNo, exec (.tableRead ⟨.m, tag, 2 :: le 2 i.val⟩) s =
        .next (answer .m 18 tag (Reply.okData (receiverBytes s.rcv.recs[i] s.rcv.seconds)) s) ∧
      (receiverBytes s.rcv.recs[i] s.rcv.seconds).length = 23) ∧
    (∀ i : StreamNo, exec (.tableRead ⟨.m, tag, 3 :: le 2 i.val⟩) s =
        .next (answer .m 18 tag (Reply.okData (streamBytes s.stream.entries[i] s.freeCount))
          { s with freeCount := s.freeCount + 1 }) ∧
      (streamBytes s.stream.entries[i] s.freeCount).length = 11 + 5 * s.stream.entries[i].ring.length) ∧
    (∀ c : ClipNo, exec (.tableRead ⟨.m, tag, 4 :: le 2 c.val⟩) s =
        .next (answer .m 18 tag (Reply.okData (directoryBytes s c)) s) ∧ (directoryBytes s c).length = 17) ∧
    ∀ (table : Byte) (index : Nat), index < 65536 →
      (table = 0 ∨ 4 < table.toNat ∨ (table = 1 ∧ (index = 0 ∨ 24 < index)) ∨ (table = 2 ∧ 511 < index) ∨
        (table = 3 ∧ 23 < index) ∨ (table = 4 ∧ 1023 < index)) →
      exec (.tableRead ⟨.m, tag, table :: le 2 index⟩) s = .next (answer .m 18 tag (Reply.of .range) s)

/-! ### Settings -/

/-- SET stores the house, clock and air port parameters, clamped to their ranges, and changes nothing else; house
parameters ignore their target byte (R43, R83, R86, R132, R159, R177, R207); the suspension test follows a SET of U and of
a lead (R193). -/
def Obligations.SetStoresParameters : Prop :=
  (∀ (tag target : Byte) (v : Nat) (s : State), v < 2 ^ 32 → s.owing .m = false →
    exec (.setLoadIdleTime ⟨.m, tag, [1, target] ++ le 4 v⟩) s =
      .next (answer .m 16 tag (setAnswer 5 120 v) { s with loader := { s.loader with idleTime := nearest 5 120 v } }) ∧
    exec (.setKeepAliveTime ⟨.m, tag, [2, target] ++ le 4 v⟩) s =
      .next (answer .m 16 tag (setAnswer 10 600 v) { s with rcv := { s.rcv with keepAlive := nearest 10 600 v } }) ∧
    exec (.setUrgencyMargin ⟨.m, tag, [3, target] ++ le 4 v⟩) s =
      .next (answer .m 16 tag (setAnswer 60 2400 v)
        (suspendTest { s with store := { s.store with margin := nearest 60 2400 v } }))) ∧
  (∀ (tag : Byte) (a : Aud) (v : Nat) (s : State), v < 2 ^ 32 → s.owing .m = false →
    exec (.setJumpThreshold ⟨.m, tag, [4, byte a.val] ++ le 4 v⟩) s =
      .next (answer .m 16 tag (setAnswer 1 65535 v)
        (s.setClock a { s.clock.auds[a] with jump := nearest 1 65535 v })) ∧
    exec (.setGainExponent ⟨.m, tag, [5, byte a.val] ++ le 4 v⟩) s =
      .next (answer .m 16 tag (setAnswer 12 20 v) (s.setClock a { s.clock.auds[a] with gain := nearest 12 20 v })) ∧
    exec (.setSilenceInterval ⟨.m, tag, [6, byte a.val] ++ le 4 v⟩) s =
      .next (answer .m 16 tag (setAnswer 120 12000 v)
        (s.setClock a { s.clock.auds[a] with interval := nearest 120 12000 v }))) ∧
  ∀ (tag : Byte) (p : Fin 2) (v : Nat) (s : State), v < 2 ^ 32 → s.owing .m = false →
    let put := fun x : AirParams => { s with frame := { s.frame with air := setAt s.frame.air p x } }
    exec (.setLead ⟨.m, tag, [7, byte (4 + p.val)] ++ le 4 v⟩) s =
      .next (answer .m 16 tag (setAnswer 0 2400 v) (suspendTest (put { s.frame.air[p] with lead := nearest 0 2400 v }))) ∧
    exec (.setCapacity ⟨.m, tag, [8, byte (4 + p.val)] ++ le 4 v⟩) s =
      .next (answer .m 16 tag (setAnswer 512 4096 v) (put { s.frame.air[p] with capacity := nearest 512 4096 v })) ∧
    exec (.setRepeatPeriod ⟨.m, tag, [9, byte (4 + p.val)] ++ le 4 v⟩) s =
      .next (answer .m 16 tag (setAnswer 1 64 v) (put { s.frame.air[p] with repeatPeriod := nearest 1 64 v })) ∧
    exec (.setWindow ⟨.m, tag, [10, byte (4 + p.val)] ++ le 4 v⟩) s =
      .next (answer .m 16 tag (setAnswer 0 1200 v) (put { s.frame.air[p] with window := nearest 0 1200 v }))

/-- A parameter outside 1 to 11, or a target outside its parameter's range, is refused RANGE and nothing changes
(R207). -/
def Obligations.SetRefusesWhatIsOutOfRange : Prop :=
  ∀ (tag param target : Byte) (v : Nat) (s : State), s.owing .m = false →
    let r : Req := ⟨.m, tag, [param, target] ++ le 4 v⟩
    let refused := Host.Outcome.next (answer .m 16 tag (Reply.of .range) s)
    (param = 0 ∨ 11 < param.toNat → ∀ f ∈ [Instr.setLoadIdleTime, .setKeepAliveTime, .setUrgencyMargin,
      .setJumpThreshold, .setGainExponent, .setSilenceInterval, .setLead, .setCapacity, .setRepeatPeriod, .setWindow,
      .setBitRate], exec (f r) s = refused) ∧
    (15 < target.toNat → (param = 4 → exec (.setJumpThreshold r) s = refused) ∧
      (param = 5 → exec (.setGainExponent r) s = refused) ∧ (param = 6 → exec (.setSilenceInterval r) s = refused)) ∧
    (target.toNat ≠ 4 → target.toNat ≠ 5 → (param = 7 → exec (.setLead r) s = refused) ∧
      (param = 8 → exec (.setCapacity r) s = refused) ∧ (param = 9 → exec (.setRepeatPeriod r) s = refused) ∧
      (param = 10 → exec (.setWindow r) s = refused)) ∧
    (6 < target.toNat → param = 11 → exec (.setBitRate r) s = refused)

/-! ### Resets -/

/-- The part after power-on, block by block, by the reset values the rules state (R1, R24, R45, R66, R91, R94, R104, R115,
R129, R138, R139, R140, R162, R180, R183, R200, R204, R210, R211). -/
def Obligations.ResetStateHasStatedValues : Prop :=
  let s := State.reset
  (∀ p : Port, s.port p = ⟨.hunt, 0, 115200, none⟩ ∧ s.link.flagged p = false ∧ s.link.attention[portIx p] = false) ∧
  (∀ t : TitleNo, s.title t = Title.free) ∧ s.titles.free = [⟨0, 131072⟩] ∧
  (∀ n, Memory.read cueEmpty s.titles.cue n = 0) ∧ (∀ p : LoadPort, s.loader.ctx[p] = .closed) ∧ s.loader.idleTime = 30 ∧
  s.clock.h = 0 ∧ s.rcv.seconds = 0 ∧ s.rcv.keepAlive = 60 ∧ (∀ i : RecNo, s.rcv.recs[i] = Receiver.free) ∧
  (∀ a : Aud, s.shows[a] = ⟨.dark, none, none, none⟩ ∧ s.clock.auds[a] = ⟨0, 0, 0, 600, 16, 1200, 0, 0⟩ ∧
    s.frame.auds[a].seq = 0 ∧ s.frame.auds[a].stepPending = false ∧ s.stream.stats[a] = ⟨0, 0, 0, 0⟩ ∧
    ∀ t : TrackNo, s.cues.cursors[a][t] = ⟨false, 0, 0⟩ ∧ s.rcv.counts[a][t] = 0 ∧
      s.frame.auds[a].sent[t] = .nothing ∧ s.frame.auds[a].countdown[t] = 0 ∧ s.stream.unserved[a][t] = false) ∧
  (∀ i : Fin 16, (∀ w : Fin 4, s.cues.sets[i].ways[w] = ⟨false, 0, 0, 0, 0⟩) ∧ s.cues.sets[i].a = false ∧
    s.cues.sets[i].bw = false ∧ s.cues.sets[i].cw = false) ∧
  (∀ p : Fin 2, s.frame.air[p] = ⟨120, 2048, 8, 240, 7, 0⟩) ∧
  (∀ i : StreamNo, s.stream.entries[i] = ⟨false, 0, 0, 0, none, [], 0⟩) ∧ s.stream.pool = [] ∧
  (∀ c : ClipNo, s.store.directory[c] = ⟨false, 0, 0⟩ ∧ s.store.inUse[c] = 0) ∧ s.store.floor = 0 ∧
  s.store.latch = false ∧ s.store.op = .none ∧ s.store.use = .idle ∧ s.store.margin = 360 ∧
  ∀ x ∈ allStats s, x = 0

/-- Every law of a sound state holds after power-on. -/
def Obligations.ResetStateMeetsEveryLaw : Prop :=
  let s := State.reset
  AttentionLaw s ∧ ClockLaw s ∧ ReelLaw s ∧ CueStoreLaw s ∧ ShowLaw s ∧ ReceiverLaw s ∧ CountLaw s ∧ ResolveLaw s ∧
    StreamLaw s ∧ SettingsLaw s ∧ InterlockLaw s ∧ DirectoryLaw s ∧ ProgramLaw s ∧ FlashLaw s ∧ SuspensionLaw s ∧
    MemoryLaw s ∧ LoadLaw s ∧ LayoutLaw s ∧ EntryLaw s ∧ LocateLaw s ∧ ServeLaw s ∧ RingLaw s

/-- Power-on brings every block to its power-on values and keeps the clip store's content: a program that has not completed
has changed nothing, and the sector of a started erase reads 0xFF (R181, R200, R213; that it is so left at power-on is
log 7, and that the queue and the free-value counter stand is log 17, the model's). -/
def Obligations.PowerOnStartsAfresh : Prop :=
  ∀ s : State, ∃ t, exec .powerOn s = .next t ∧
    t = { State.reset with
      store := { StoreBlock.reset with flash := t.store.flash }
      freeCount := s.freeCount
      pending := s.pending } ∧
    ∀ a,
      let erasing := ∃ st, st ≠ OpState.waiting ∧ s.store.op = .erase st (a / 8448)
      (erasing → Memory.read flashEmpty t.store.flash a = 0xFF) ∧
        (¬erasing → Memory.read flashEmpty t.store.flash a = Memory.read flashEmpty s.store.flash a)

/-- RESET with no program or erase started takes effect at once; with one started it waits for its end on the flash:
until then M alone is OWED; at the end the content is written, every block is reset, and no DONE flag is latched (R199,
R200, R212). That the completion event and RESET_TAKES_EFFECT are one moment is read from R199 (log 24, DEDUCED); that the
queue, the free-value counter and the mark of a counted OWED byte stand is the model's choice (log 17). -/
def Obligations.ResetTakesEffect : Prop :=
  (∀ (tag : Byte) (s : State), s.owing .m = false → s.store.op.started = false →
    ∃ t, exec (.reset ⟨.m, tag, []⟩) s = .next t ∧ blocksReset s t ∧ linkReset s t tag ∧
      t.store = { StoreBlock.reset with
        flash := s.store.flash
        directory := s.store.directory
        floor := s.store.floor }) ∧
  (∀ (tag : Byte) (s : State), s.owing .m = false → s.store.op.started = true →
    exec (.reset ⟨.m, tag, []⟩) s = .next { s.setPort .m { s.port .m with rx := .owed none false } with
      link := { (s.setPort .m { s.port .m with rx := .owed none false }).link with resetTag := some tag } }) ∧
  ∀ (tag : Byte) (s : State), s.link.resetTag = some tag →
    (∀ block data check, s.store.op = .program .inFlight block data check → data.length = 512 →
      ∃ t, exec .resetTakesEffect s = .next t ∧ exec .programCompletion s = .next t ∧ blocksReset s t ∧
        linkReset s t tag ∧ programmed s.store.flash t.store.flash block data check ∧
        t.store = { StoreBlock.reset with
          flash := t.store.flash
          directory := s.store.directory
          floor := s.store.floor }) ∧
    ∀ sector, s.store.op = .erase .inFlight sector →
      ∃ t, exec .resetTakesEffect s = .next t ∧ exec .eraseCompletion s = .next t ∧ blocksReset s t ∧
        linkReset s t tag ∧ erased s.store.flash t.store.flash sector ∧
        t.store = { StoreBlock.reset with
          flash := t.store.flash
          directory := s.store.directory
          floor := s.store.floor }

/-! ### Time -/

/-- A house tick raises H by 1, advances the running clocks by 65,536 + T up to 2^40 - 1, latches END on the feed owner of
a clock that it brings to that limit, and changes nothing else but what it makes due (the model's marks, log 4); the
suspension test follows it (R67, R69, R70, R193). -/
def Obligations.HouseTickAdvancesClocks : Prop :=
  ∀ s : State, ∃ t, exec .houseTick s = .next (suspendTest t) ∧ t.clock.h = s.clock.h + 1 ∧
    (∀ a : Aud, t.clock.auds[a] =
      if s.shows[a].state = .running ∨ s.shows[a].state = .freewheel then
        { s.clock.auds[a] with
          pos := (min ((s.clock.auds[a].pos : Int) + 65536 + s.clock.auds[a].trim) (2 ^ 40 - 1)).toNat }
      else s.clock.auds[a]) ∧
    (let ends := fun (n : Fin 4) (a : Aud) => s.shows[a].feedOwner = some n ∧ s.clock.auds[a].pos < 2 ^ 40 - 1 ∧
       t.clock.auds[a].pos = 2 ^ 40 - 1
     ∀ n : Fin 4, t.link.feed[n] = { s.link.feed[n] with endReached := t.link.feed[n].endReached } ∧
      (∀ a : Aud, t.link.feed[n].endReached.getLsbD a.val =
        (s.link.feed[n].endReached.getLsbD a.val || decide (ends n a))) ∧
      t.link.attention[portIx (.feed n)] = (s.link.attention[portIx (.feed n)] || decide (∃ a, ends n a))) ∧
    t.link = { s.link with feed := t.link.feed, attention := t.link.attention } ∧
    (∀ p : Port, (∀ n, p ≠ .feed n) → t.link.attention[portIx p] = s.link.attention[portIx p]) ∧
    (∀ a : Aud, t.due.silence[a] =
      (s.due.silence[a] || decide ((s.clock.h + 1).toNat % s.clock.auds[a].interval = 0))) ∧
    t.due.second = (s.due.second || decide ((s.clock.h + 1).toNat % 1200 = 0)) ∧ t.due.expiry = s.due.expiry ∧
    (∀ n : TitleNo, t.due.idle[n] = decide ((s.title n).state = .loading ∧
      1200 * s.loader.idleTime ≤ (s.clock.h + 1 - (s.title n).lastActivity).toNat)) ∧
    t.titles = s.titles ∧ t.loader = s.loader ∧ t.shows = s.shows ∧ t.cues = s.cues ∧ t.rcv = s.rcv ∧
    t.frame = s.frame ∧ t.stream = s.stream ∧ t.store = s.store ∧ t.freeCount = s.freeCount ∧ t.pending = s.pending

/-- A silence boundary due for an auditorium (log 4) raises its count in RUNNING and FREEWHEEL, holding at 3; at 2 RUNNING
becomes FREEWHEEL, at 3 FREEWHEEL becomes LOST and its streams are flushed and refilled, each latched on the feed owner; in
other states only the mark is taken (R80, R81, R176). The suspension test is made once, at the end (R193; log 26,
DEDUCED). -/
def Obligations.SilenceBoundaryCountsSilence : Prop :=
  ∀ (a : Aud) (s : State), s.due.silence[a] = true →
    let u := { s with due := { s.due with silence := setAt s.due.silence a false } }
    let n := min (s.clock.auds[a].silence + 1) 3
    let counted := u.setClock a { s.clock.auds[a] with silence := n }
    (s.shows[a].state ≠ .running → s.shows[a].state ≠ .freewheel → exec (.silenceBoundary a) s = .next u) ∧
    (s.shows[a].state = .running → n ≠ 2 → exec (.silenceBoundary a) s = .next (suspendTest counted)) ∧
    (s.shows[a].state = .running → n = 2 → exec (.silenceBoundary a) s =
      .next (suspendTest ((counted.setShow a { s.shows[a] with state := .freewheel }).latchAud .freewheel a))) ∧
    (s.shows[a].state = .freewheel → n ≠ 3 → exec (.silenceBoundary a) s = .next (suspendTest counted)) ∧
    (s.shows[a].state = .freewheel → n = 3 → exec (.silenceBoundary a) s =
      .next (suspendTest (refillAud a ((counted.setShow a { s.shows[a] with state := .lost }).latchAud .lost a))))

/-- A house second boundary raises the house-second count; the expiry pass that follows frees every BOUND record older
than the K in force at the boundary, latches EXPIRED and counts the expiry on the record's air port, and hands the falling
edges of all of them to the streams, by auditorium and track (R116, R131 to R133; the two events and their marks are
log 4, and one suspension test at the end is log 26, DEDUCED). -/
def Obligations.HouseSecondAndExpiry : Prop :=
  (∀ s : State, s.due.second = true → exec .houseSecondBoundary s = .next { s with
    rcv := { s.rcv with seconds := s.rcv.seconds + 1 }
    due := { s.due with second := false, expiry := some s.rcv.keepAlive } }) ∧
  (∀ (n : Nat) (x : Stat), (bumpBy n x).toNat = min (x.toNat + n) 65535) ∧
  ∀ (s : State) (k : Nat), s.due.expiry = some k →
    let expires := fun i : RecNo =>
      s.rcv.recs[i].bound && decide (k < (s.rcv.seconds - s.rcv.recs[i].lastHeard).toNat)
    let falls := fun (u : State) (x : Aud × TrackNo) => isKind s .description x.1 x.2 &&
      decide (1 ≤ s.rcv.counts[x.1][x.2]) && decide (u.rcv.counts[x.1][x.2] = 0)
    ∃ u, exec .keepAliveExpiry s = .next (suspendTest ((allPairs.filter (falls u)).foldl releaseStream u)) ∧
      (∀ i : RecNo, u.rcv.recs[i] = if expires i then Receiver.free else s.rcv.recs[i]) ∧
      (CountLaw s → CountLaw u) ∧
      (∀ p : Fin 2, u.rcv.expiries[p] =
        bumpBy (allRecs.countP fun i => expires i && s.rcv.recs[i].airPort == some p) s.rcv.expiries[p]) ∧
      (∀ p : Fin 2, u.link.air[p].tableFull = s.link.air[p].tableFull ∧
        (∀ a : Aud, u.link.air[p].expired.getLsbD a.val = (s.link.air[p].expired.getLsbD a.val ||
          allRecs.any fun i => expires i && s.rcv.recs[i].airPort == some p && s.rcv.recs[i].aud == a)) ∧
        u.link.attention[portIx (.air p)] = (s.link.attention[portIx (.air p)] ||
          allRecs.any fun i => expires i && s.rcv.recs[i].airPort == some p)) ∧
      u.link = { s.link with air := u.link.air, attention := u.link.attention } ∧
      (∀ q : Port, (∀ p, q ≠ .air p) → u.link.attention[portIx q] = s.link.attention[portIx q]) ∧
      u.rcv.seconds = s.rcv.seconds ∧ u.rcv.keepAlive = s.rcv.keepAlive ∧ u.rcv.joinRefusals = s.rcv.joinRefusals ∧
      otherBlocks { s with rcv := u.rcv, due := { s.due with expiry := none } } u ∧ u.stream = s.stream ∧
      u.cues = s.cues

/-! ### Position reports -/

/-- POSITION is refused by the checks of R52 and R71, ARM by those of R52 and R54, in their order, and a refused one
changes nothing (R52, R54, R55, R71). -/
def Obligations.ShowRequestRefusals : Prop :=
  (∀ (n : Fin 4) (tag aud reel code : Byte) (frame : Nat) (s : State), frame < 2 ^ 24 → s.owing (.feed n) = false →
    let refused := fun c : Code => exec (.position ⟨.feed n, tag, [aud, reel] ++ le 3 frame ++ [code]⟩) s =
      .next (answer (.feed n) 5 tag (Reply.of c) s)
    (15 < aud.toNat → refused .range) ∧
    ∀ a : Aud, aud = byte a.val →
      (s.shows[a].feedOwner ≠ some n → refused .notOwner) ∧
      (s.shows[a].feedOwner = some n →
        (s.shows[a].state = .dark → refused .wrongState) ∧
        (s.shows[a].state ≠ .dark →
          (5 < code.toNat → refused .range) ∧
          (code.toNat ≤ 5 → 1048575 < frame → refused .range) ∧
          (code.toNat ≤ 5 → frame ≤ 1048575 → (((titleOf s a).map (·.reels)).getD []).length ≤ reel.toNat →
            refused .reelUnknown)))) ∧
  ∀ (n : Fin 4) (tag aud h : Byte) (s : State), s.owing (.feed n) = false →
    let refused := fun c : Code => exec (.arm ⟨.feed n, tag, [aud, h]⟩) s =
      .next (answer (.feed n) 1 tag (Reply.of c) s)
    (15 < aud.toNat → refused .range) ∧
    ∀ a : Aud, aud = byte a.val →
      (s.shows[a].feedOwner ≠ some n → refused .notOwner) ∧
      (s.shows[a].feedOwner = some n →
        (s.shows[a].state ≠ .dark → refused .wrongState) ∧
        (s.shows[a].state = .dark →
          (24 < h.toNat → refused .range) ∧ (h = 0 → refused .noTitle) ∧
          ∀ t : TitleNo, h = byte (t.val + 1) →
            ((s.title t).state ≠ .ready → refused .noTitle) ∧
            ((s.title t).state = .ready → armConflicts s (s.title t).clips → refused .storageBusy)))

/-- A taken report of RUNNING or FREEWHEEL with an error below J slews: P moves by a quarter of the error and T by the
error over 2^G, both rounded toward zero, T held within -655 to 655; the silence count is 0, the state RUNNING, and
nothing else changes but the reel clamp of R72 and a suspension (R72, R73, R76, R77, R193). -/
def Obligations.PositionSlewsTheClock : Prop :=
  ∀ (n : Fin 4) (tag reel : Byte) (a : Aud) (code : Fin 6) (frame : Nat) (ti : Title) (s : State),
    s.owing (.feed n) = false → s.shows[a].feedOwner = some n → titleOf s a = some ti →
    frame ≤ 1048575 → reel.toNat < ti.reels.length →
    let m := reportedTime ti.reels reel.toNat frame ([50, 48, 40, 25, 24, 20].getD code.val 0)
    let c := s.clock.auds[a]
    let e : Int := (m.1 : Int) * 65536 - c.pos
    (s.shows[a].state = .running ∨ s.shows[a].state = .freewheel) → e.natAbs < c.jump * 65536 →
    let u := if m.2 then reelClamped s a n else s
    exec (.position ⟨.feed n, tag, [byte a.val, reel] ++ le 3 frame ++ [byte code.val]⟩) s =
      .next (answer (.feed n) 5 tag (Reply.okClamped m.2) (suspendTest
        ((u.setShow a { s.shows[a] with state := .running }).setClock a { u.clock.auds[a] with
          pos := ((c.pos : Int) + e.tdiv 4).toNat
          trim := max (-655) (min 655 (c.trim + e.tdiv (2 ^ c.gain)))
          silence := 0 })))

/-- A taken report steps in HELD and LOST, and in RUNNING and FREEWHEEL with an error of at least J: P is the reported
position, the cursors are cleared, the streams flushed and refilled, the silence count is 0, the step counted, flagged and
latched, HELD stays HELD and the others are RUNNING. In ARMED it places the pre-roll: as a step, but not counted, flagged
or latched (R72 to R76, R97, R176). The suspension test is made once, at the end (R193; log 26, DEDUCED). -/
def Obligations.PositionStepsOrPlaces : Prop :=
  ∀ (n : Fin 4) (tag reel : Byte) (a : Aud) (code : Fin 6) (frame : Nat) (ti : Title) (s : State),
    s.owing (.feed n) = false → s.shows[a].feedOwner = some n → titleOf s a = some ti →
    frame ≤ 1048575 → reel.toNat < ti.reels.length →
    let m := reportedTime ti.reels reel.toNat frame ([50, 48, 40, 25, 24, 20].getD code.val 0)
    let c := s.clock.auds[a]
    let e : Int := (m.1 : Int) * 65536 - c.pos
    let u := if m.2 then reelClamped s a n else s
    let at_ := fun (silence : Nat) (steps : Stat) =>
      { u.clock.auds[a] with pos := m.1 * 65536, silence := silence, steps := steps }
    let moved := fun y : ShowState =>
      let v := (u.setShow a { s.shows[a] with state := y }).setClock a (at_ c.silence c.steps)
      refillAud a { v with cues := { v.cues with cursors := setAt v.cues.cursors a (fillTable 8 ⟨false, 0, 0⟩) } }
    let gives := fun t : State =>
      exec (.position ⟨.feed n, tag, [byte a.val, reel] ++ le 3 frame ++ [byte code.val]⟩) s =
        .next (answer (.feed n) 5 tag (Reply.okClamped m.2) (suspendTest t))
    ((s.shows[a].state = .held ∨ s.shows[a].state = .lost ∨
      ((s.shows[a].state = .running ∨ s.shows[a].state = .freewheel) ∧ c.jump * 65536 ≤ e.natAbs)) →
      let v := moved (if s.shows[a].state = .held then .held else .running)
      gives (((v.setClock a (at_ 0 (bump c.steps))).modFrame a
        fun f => { f with stepPending := true }).latchAud .step a)) ∧
    (s.shows[a].state = .armed → gives ((moved .armed).setClock a (at_ 0 c.steps)))

/-! ### Titles and their loading -/

/-- LOAD.OPEN is refused, or answered ALREADY_LOADED, by the first case of R28 that applies, and then changes nothing
(R3, R27, R28, R30). -/
def Obligations.LoadOpenAnswers : Prop :=
  ∀ (p : Port) (q : LoadPort) (tag : Byte) (s : State), loadPort p = some q → s.owing p = false →
    (∀ body : List Byte, body.length ≤ 1024 → body.length ≠ 13 + 3 * at1 body 8 + 6 * at1 body 9 →
      exec (.loadOpen ⟨p, tag, body⟩) s = .next (answer p 6 tag (Reply.of .badLength) s)) ∧
    ∀ d : Decl, declFits d → (declBytes d).length ≤ 1024 →
      let i := Instr.loadOpen ⟨p, tag, declBytes d⟩
      let refused := fun c : Code => exec i s = .next (answer p 6 tag (Reply.of c) s)
      let holds := fun t : TitleNo => (s.title t).state = .ready ∧ (s.title t).key = d.key
      let loads := ∃ t : TitleNo, ((s.title t).state = .loading ∨ (s.title t).state = .finishing) ∧
        (s.title t).key = d.key
      let slots := d.entries + ceilDiv d.textBytes 16 + d.anchors
      (∀ t, holds t → (∀ u, u < t → ¬holds u) →
        exec i s = .next (answer p 6 tag ⟨.alreadyLoaded, false, [byte (t.val + 1)]⟩ s)) ∧
      ((∀ t, ¬holds t) →
        (loads → refused .busy) ∧
        (¬loads →
          (s.loader.ctx[q] ≠ .closed → refused .busy) ∧
          (s.loader.ctx[q] = .closed →
            (¬declInRange d → refused .range) ∧
            (declInRange d →
              ((∀ t, (s.title t).state ≠ .free) → refused .tableFull) ∧
              ((∃ t, (s.title t).state = .free) → 1 ≤ slots → (∀ e ∈ s.titles.free, e.count < slots) →
                refused .noSpace)))))

/-- LOAD.OPEN that no case of R28 refuses opens the lowest FREE record with the fields of R29, laid out by R15, over the
first free extent that is large enough; nothing else changes but the zero bytes after the text pool (R5, R10, R15, R17,
R25, R29). -/
def Obligations.LoadOpenStartsTitle : Prop :=
  ∀ (p : Port) (q : LoadPort) (tag : Byte) (d : Decl) (t : TitleNo) (base : Nat) (free : List Extent) (s : State),
    loadPort p = some q → s.owing p = false → declFits d → declInRange d →
    (∀ u, (s.title u).state ≠ .free → (s.title u).key ≠ d.key) → s.loader.ctx[q] = .closed →
    (s.title t).state = .free → (∀ u, u < t → (s.title u).state ≠ .free) →
    let pool := ceilDiv d.textBytes 16
    let slots := d.entries + pool + d.anchors
    ((slots = 0 ∧ base = 0 ∧ free = s.titles.free) ∨
      (1 ≤ slots ∧ ∃ before e after, s.titles.free = before ++ e :: after ∧ (∀ f ∈ before, f.count < slots) ∧
        slots ≤ e.count ∧ base = e.base ∧
        free = before ++ (if slots = e.count then after else ⟨e.base + slots, e.count - slots⟩ :: after))) →
    ∃ (tracks : List Track) (cue : List Host.Cell),
      let ti : Title := ⟨.loading, d.key, some q, base, slots, d.textBytes, 0, d.reels, tracks, [], 0, s.clock.h⟩
      exec (.loadOpen ⟨p, tag, declBytes d⟩) s = .next (answer p 6 tag (Reply.okData [byte (t.val + 1)]) { s with
        titles := ⟨setAt s.titles.recs t ti, free, cue⟩
        loader := { s.loader with ctx := setAt s.loader.ctx q (.loading t) } }) ∧
      laidOut ti ∧ tracks.length = d.tracks.length ∧
      (∀ (i : Nat) (td : TrackDecl) (tr : Track), d.tracks[i]? = some td → tracks[i]? = some tr →
        tr.kind = (if td.kindCode = 0 then .caption else .description) ∧ tr.lang.bytes = td.lang ∧
          tr.nDecl = td.nDecl ∧ tr.n = 0 ∧ tr.anchorCount = 0) ∧
      ∀ a, Memory.read cueEmpty cue a =
        if (base + d.entries) * 16 + d.textBytes ≤ a ∧ a < (base + d.entries + pool) * 16 then 0
        else Memory.read cueEmpty s.titles.cue a

/-- The prepared text of a caption is the received text of at most 96 bytes, else its first 93 to 96 bytes, cut back to
the end of a whole character as R33 gives. -/
def Obligations.CutTextEndsOnCharacter : Prop :=
  ∀ text : List Byte, (text.length ≤ 96 → prepareText text = (text, false)) ∧
    (96 < text.length → ∃ n, 93 ≤ n ∧ n ≤ 96 ∧ prepareText text = (text.take n, true) ∧
      (∀ j, j ≤ 3 → (∀ k, k < j → isContinuation (text.getD (95 - k) 0) = true) →
        isContinuation (text.getD (95 - j) 0) = false →
        n = if j + 1 < charBytes (text.getD (95 - j) 0) then 95 - j else 96) ∧
      ((∀ k, k < 4 → isContinuation (text.getD (95 - k) 0) = true) → n = 96))

/-- A taken LOAD.DATA of one entry that passes the steps of R32 stores the entry in its slot, a caption's prepared text at
the fill count, shortens the entry before it to the gap between their starts, and changes no other byte of the cue store;
one of no entries sets the last activity alone (R6, R7 to R11, R26, R31 to R34). That the effective duration lies in bytes
3 and 4 of the slot is the model's choice (log 5). -/
def Obligations.EntriesAreStored : Prop :=
  ∀ (p : Port) (q : LoadPort) (tag : Byte) (t : TitleNo) (tn : TrackNo) (tr : Track) (s : State),
    loadPort p = some q → s.owing p = false → (s.title t).state = .loading → (s.title t).loader = some q →
    laidOut (s.title t) → (s.title t).tracks[tn.val]? = some tr →
    let ti := s.title t
    let m := s.titles.cue
    let head := [byte (t.val + 1), byte tn.val]
    let stored := fun (cue : List Host.Cell) (fill : Nat) => { s with titles := { s.titles with
      cue := cue
      recs := setAt s.titles.recs t { ti with
        fill := fill
        tracks := ti.tracks.set tn.val { tr with n := tr.n + 1 }
        lastActivity := s.clock.h } } }
    let shortened := fun (cue : List Host.Cell) (start : Nat) => 1 ≤ tr.n →
      entryStart cue ti tr (tr.n - 1) = entryStart m ti tr (tr.n - 1) ∧
        entryDur cue ti tr (tr.n - 1) = min (entryDur m ti tr (tr.n - 1)) (start - entryStart m ti tr (tr.n - 1))
    let inSlot := fun a => entrySlot ti tr tr.n * 16 ≤ a ∧ a < entrySlot ti tr tr.n * 16 + 16
    let inDur := fun a => 1 ≤ tr.n ∧ entrySlot ti tr (tr.n - 1) * 16 + 3 ≤ a ∧ a < entrySlot ti tr (tr.n - 1) * 16 + 5
    let unchanged := fun (cue : List Host.Cell) (a : Nat) => Memory.read cueEmpty cue a = Memory.read cueEmpty m a
    exec (.loadData ⟨p, tag, head ++ [0]⟩) s = .next (answer p 7 tag Reply.ok
      (s.setTitle t { ti with lastActivity := s.clock.h })) ∧
    (∀ (start dur bits : Nat) (text : List Byte), entryFits tr.kind (.caption start dur bits text) → bits < 4 →
      tr.n < tr.nDecl → (1 ≤ tr.n → entryStart m ti tr (tr.n - 1) ≤ start) →
      let x := prepareText text
      ti.fill + x.1.length ≤ ti.textBytes →
      ∃ cue, exec (.loadData ⟨p, tag, head ++ [1] ++ entryBytes (.caption start dur bits text)⟩) s =
          .next (answer p 7 tag (Reply.okClamped x.2) (stored cue (ti.fill + x.1.length))) ∧
        captionEntry cue ti tr tr.n = ⟨start, dur, bits % 2 == 1, bits / 2 == 1, ti.fill, x.1.length⟩ ∧
        captionText cue ti (captionEntry cue ti tr tr.n) = x.1 ∧ shortened cue start ∧
        ∀ a, ¬inSlot a → ¬inDur a →
          ¬(poolAddr ti + ti.fill ≤ a ∧ a < poolAddr ti + ti.fill + x.1.length) → unchanged cue a) ∧
    ∀ (start dur clip first level : Nat), tr.kind = .description → start < 2 ^ 24 → dur < 65536 → clip < 1024 →
      first < 4096 → level ≤ 15 → tr.n < tr.nDecl → (1 ≤ tr.n → entryStart m ti tr (tr.n - 1) ≤ start) →
      ∃ cue, exec (.loadData ⟨p, tag, head ++ [1] ++ entryBytes (.description start dur (clip + 4096 * first) level)⟩) s =
          .next (answer p 7 tag Reply.ok (stored cue ti.fill)) ∧
        descEntry cue ti tr tr.n = ⟨start, dur, clip, first, level⟩ ∧ shortened cue start ∧
        ∀ a, ¬inSlot a → ¬inDur a → unchanged cue a

/-- The entries of a LOAD.DATA are taken in list order: a first entry that passes alone leaves the rest of the chunk as a
chunk of its own, CLAMPED when either is; a first entry that fails ends the request (R31, R34). -/
def Obligations.ChunkIsTakenInOrder : Prop :=
  ∀ (p : Port) (q : LoadPort) (tag : Byte) (t : TitleNo) (tn : TrackNo) (tr : Track) (e : RawEntry)
    (es : List RawEntry) (s : State),
    loadPort p = some q → s.owing p = false → (s.title t).state = .loading → (s.title t).loader = some q →
    (s.title t).tracks[tn.val]? = some tr → (∀ x ∈ e :: es, entryFits tr.kind x) → es.length < 16 →
    let chunk := fun l : List RawEntry =>
      Req.mk p tag ([byte (t.val + 1), byte tn.val, byte l.length] ++ l.flatMap entryBytes)
    (chunk (e :: es)).body.length ≤ 1024 →
    ∃ (one : State) (x : Reply), exec (.loadData (chunk [e])) s = .next (answer p 7 tag x one) ∧
      (x.code ≠ .ok → exec (.loadData (chunk (e :: es))) s = .next (answer p 7 tag x one)) ∧
      (x.code = .ok → ∃ (u : State) (y : Reply), exec (.loadData (chunk es)) one = .next (answer p 7 tag y u) ∧
        exec (.loadData (chunk (e :: es))) s = .next (answer p 7 tag
          { y with clamped := y.code == .ok && (x.clamped || y.clamped) } u))

/-- A load fails, with its reason, on a track number out of range, an entry beyond n_decl, out of range or out of order, a
text beyond X, and an expired idle time (its house-tick mark is log 4) (R31 to R34, R41, R43). -/
def Obligations.LoadFailsWithReason : Prop :=
  ∀ (p : Port) (q : LoadPort) (tag : Byte) (t : TitleNo) (s : State), loadPort p = some q →
    (s.title t).loader = some q →
    let ti := s.title t
    (s.title t).state = .loading → s.loader.ctx[q] = .loading t →
    (s.owing p = false →
      (∀ (tn count : Byte) (rest : List Byte), ti.tracks.length ≤ tn.toNat → rest.length ≤ 1021 →
        exec (.loadData ⟨p, tag, [byte (t.val + 1), tn, count] ++ rest⟩) s =
          .next (answer p 7 tag (Reply.of .range) (loadFailed s t q .range))) ∧
      ∀ (tn : TrackNo) (tr : Track) (e : RawEntry), ti.tracks[tn.val]? = some tr → entryFits tr.kind e →
        let i := Instr.loadData ⟨p, tag, [byte (t.val + 1), byte tn.val, 1] ++ entryBytes e⟩
        let fails := fun (c : Code) (f : FailReason) =>
          exec i s = .next (answer p 7 tag (Reply.of c) (loadFailed s t q f))
        let ranged := match e with
          | .caption _ _ bits _ => bits < 4
          | .description _ _ clipBlock level => level ≤ 15 ∧ clipBlock / 1024 % 4 = 0
        (tr.nDecl ≤ tr.n → fails .overflow .overflow) ∧
        (tr.n < tr.nDecl → (¬ranged → fails .range .range) ∧
          (ranged → (1 ≤ tr.n → e.start < entryStart s.titles.cue ti tr (tr.n - 1) → fails .order .order) ∧
            ((1 ≤ tr.n → entryStart s.titles.cue ti tr (tr.n - 1) ≤ e.start) →
              ∀ start dur bits text, e = .caption start dur bits text →
                ti.textBytes < ti.fill + (prepareText text).1.length → fails .overflow .overflow)))) ∧
    (s.due.idle[t] = true → 1200 * s.loader.idleTime ≤ (s.clock.h - ti.lastActivity).toNat →
      exec (.loadIdleTimeout t) s = .next (loadFailed s t q .timeout))

/-- LOAD.DATA, LOAD.FINISH and LOAD.ABORT are refused by the checks of R26 in order, LOAD.DATA BAD_LENGTH where its body
is shorter than its header or its entries do not add up to it; a taken LOAD.FINISH makes the title and its context
FINISHING; a taken LOAD.ABORT releases the title and latches nothing (R26, R31, R35, R40). A taken LOAD.DATA of more than
16 entries sets the last activity and is answered RANGE, the load going on (the answer is the model's choice, log 9). -/
def Obligations.LoadFinishAndAbort : Prop :=
  ∀ (p : Port) (q : LoadPort) (tag : Byte) (s : State), loadPort p = some q → s.owing p = false →
    let data := fun h : Byte => Instr.loadData ⟨p, tag, [h, 0, 0]⟩
    let finish := fun h : Byte => Instr.loadFinish ⟨p, tag, [h]⟩
    let abort := fun h : Byte => Instr.loadAbort ⟨p, tag, [h]⟩
    let refused := fun (c : Code) (i : Instr) (k : Byte) => exec i s = .next (answer p k tag (Reply.of c) s)
    let all := fun (c : Code) (h : Byte) => refused c (data h) 7 ∧ refused c (finish h) 8 ∧ refused c (abort h) 9
    (∀ body : List Byte, body.length < 3 → refused .badLength (.loadData ⟨p, tag, body⟩) 7) ∧
    (∀ h : Byte, (h = 0 ∨ 24 < h.toNat) → all .range h) ∧
    ∀ t : TitleNo,
      let ti := s.title t
      let h := byte (t.val + 1)
      (ti.state = .free → all .wrongState h) ∧
      (∀ (tn : TrackNo) (tr : Track) (count : Byte) (rest : List Byte), ti.state ≠ .free →
        ti.tracks[tn.val]? = some tr → rest.length ≤ 1021 →
        let i := Instr.loadData ⟨p, tag, [h, byte tn.val, count] ++ rest⟩
        let addsUp := ∃ es : List RawEntry, es.length = count.toNat ∧ (∀ e ∈ es, entryFits tr.kind e) ∧
          rest = es.flatMap entryBytes
        (¬addsUp → refused .badLength i 7) ∧
        (addsUp → 16 < count.toNat → ti.state = .loading → ti.loader = some q →
          exec i s = .next (answer p 7 tag (Reply.of .range) (s.setTitle t { ti with lastActivity := s.clock.h })))) ∧
      (ti.state ≠ .free → ti.loader ≠ some q → all .notOwner h) ∧
      (ti.loader = some q → (ti.state = .finishing → refused .wrongState (data h) 7 ∧ refused .wrongState (finish h) 8) ∧
        (ti.state = .ready → all .wrongState h) ∧
        (ti.state = .loading → exec (finish h) s = .next (answer p 8 tag (Reply.of .accepted) { s with
          titles := { s.titles with
            recs := setAt s.titles.recs t { ti with state := .finishing, lastActivity := s.clock.h } }
          loader := { s.loader with ctx := setAt s.loader.ctx q (.finishing t) } })) ∧
        ((ti.state = .loading ∧ s.loader.ctx[q] = .loading t) ∨ (ti.state = .finishing ∧ s.loader.ctx[q] = .finishing t) →
          exec (abort h) s = .next (answer p 9 tag Reply.ok (loadReleased s t q))))

/-- The finishing work ends in READY, with the anchors written, the clip list built, the context closed and LOAD_DONE
latched, and changes no other byte of the cue store; where the title names a 257th clip it fails with OVERFLOW instead
(R13, R14, R36 to R38; that the work is done at its end is log 10). -/
def Obligations.FinishingCompletes : Prop :=
  ∀ (t : TitleNo) (q : LoadPort) (s : State), (s.title t).state = .finishing → (s.title t).loader = some q →
    s.loader.ctx[q] = .finishing t →
    let ti := s.title t
    let m := s.titles.cue
    (∀ clips : List Nat, laidOut ti → clips.Pairwise (· < ·) → (∀ c, c ∈ clips ↔ namesClip m ti c) →
      clips.length ≤ 256 → ∃ cue, exec (.finishingCompletion t) s = .next { s with
        titles := { s.titles with
          cue := cue
          recs := setAt s.titles.recs t { ti with
            state := .ready
            clips := clips
            tracks := ti.tracks.map fun tr => { tr with anchorCount := ceilDiv tr.n 32 } } }
        loader := { s.loader with ctx := setAt s.loader.ctx q .closed }
        link := s.link.latchLoadDone q t } ∧
      (∀ (i : Nat) (tr : Track) (k : Nat), ti.tracks[i]? = some tr → k < ceilDiv tr.n 32 →
        anchorAt cue ti tr k = entryStart m ti tr (32 * k)) ∧
      ∀ a, (∀ (i : Nat) (tr : Track) (k : Nat), ti.tracks[i]? = some tr → k < ceilDiv tr.n 32 →
        let at_ := (ti.base + tr.anchorBase + k) * 16
        ¬(at_ ≤ a ∧ a < at_ + 16)) → Memory.read cueEmpty cue a = Memory.read cueEmpty m a) ∧
    ((∃ clips : List Nat, clips.Nodup ∧ clips.length = 257 ∧ ∀ c ∈ clips, namesClip m ti c) →
      exec (.finishingCompletion t) s = .next s ∧ exec (.clipListOverflow t) s = .next (loadFailed s t q .overflow))

/-- UNLOAD is refused by the checks of R22 in order; else the title becomes FREE, its region returns, and the valid cache
ways that name its handle become invalid (R18, R22, R107). -/
def Obligations.UnloadReleasesTitle : Prop :=
  ∀ (p : Port) (tag : Byte) (s : State), p = .m ∨ (∃ n, p = .feed n) → s.owing p = false →
    let refused := fun (c : Code) (h : Byte) =>
      exec (.unload ⟨p, tag, [h]⟩) s = .next (answer p 10 tag (Reply.of c) s)
    (∀ h : Byte, (h = 0 ∨ 24 < h.toNat) → refused .range h) ∧
    ∀ t : TitleNo,
      let ti := s.title t
      let h := byte (t.val + 1)
      (ti.state = .free → refused .noTitle h) ∧
      (ti.state ≠ .free → p ≠ .m → ti.loader ≠ loadPort p → refused .notOwner h) ∧
      (ti.state ≠ .free → (p = .m ∨ ti.loader = loadPort p) → (ti.state ≠ .ready → refused .wrongState h) ∧
        (ti.state = .ready → (ti.refs ≠ 0 → refused .inUse h) ∧
          (ti.refs = 0 → LoadLaw s → ∃ sets : Vector CacheSet 16,
            exec (.unload ⟨p, tag, [h]⟩) s = .next (answer p 10 tag Reply.ok { s with
              titles := { s.titles with
                recs := setAt s.titles.recs t Title.free
                free := releaseRegion ti.base ti.count s.titles.free }
              cues := { s.cues with sets := sets } }) ∧
            ∀ i : Fin 16, sets[i] = { s.cues.sets[i] with ways := sets[i].ways } ∧
              ∀ w : Fin 4, sets[i].ways[w] = { s.cues.sets[i].ways[w] with
                valid := s.cues.sets[i].ways[w].valid && s.cues.sets[i].ways[w].handle != t.val + 1 })))

/-! ### Shows -/

/-- ASSIGN.FEED and ASSIGN.AIR set the maps; a change of air port clears the auditorium's Frame Builder state, and the
suspension test follows it; a number out of range is refused RANGE (R49, R50, R64, R193). -/
def Obligations.AssignmentsSetTheMaps : Prop :=
  ∀ (tag : Byte) (s : State), s.owing .m = false →
    (∀ (a : Aud) (x : Option (Fin 4)),
      exec (.assignFeed ⟨.m, tag, [byte a.val, match x with | none => 255 | some n => byte n.val]⟩) s =
        .next (answer .m 14 tag Reply.ok (s.setShow a { s.shows[a] with feedOwner := x }))) ∧
    (∀ (a : Aud) (x : Option (Fin 2)),
      let i := Instr.assignAir ⟨.m, tag, [byte a.val, match x with | none => 255 | some n => byte (4 + n.val)]⟩
      (s.shows[a].airPort = x → exec i s = .next (answer .m 15 tag Reply.ok s)) ∧
      (s.shows[a].airPort ≠ x → exec i s = .next (answer .m 15 tag Reply.ok (suspendTest
        ((s.setShow a { s.shows[a] with airPort := x }).modFrame a fun f =>
          ⟨f.seq, false, fillTable 8 .nothing, fillTable 8 0⟩))))) ∧
    ∀ (aud port : Byte),
      (15 < aud.toNat ∨ (3 < port.toNat ∧ port ≠ 255) →
        exec (.assignFeed ⟨.m, tag, [aud, port]⟩) s = .next (answer .m 14 tag (Reply.of .range) s)) ∧
      (15 < aud.toNat ∨ (port ≠ 4 ∧ port ≠ 5 ∧ port ≠ 255) →
        exec (.assignAir ⟨.m, tag, [aud, port]⟩) s = .next (answer .m 15 tag (Reply.of .range) s))

/-- A taken ARM binds the context, the title and its clips, and gives the auditorium a fresh clock, clear cursors, a clear
Frame Builder state, its receivers resolved against the title, and its streams requested (R56, R57, R64, R65). The
suspension test is made once, at the end (R193; log 26, DEDUCED). -/
def Obligations.ArmBindsTheAuditorium : Prop :=
  ∀ (n : Fin 4) (tag : Byte) (a : Aud) (t : TitleNo) (s : State), s.owing (.feed n) = false →
    s.shows[a].feedOwner = some n → s.shows[a].state = .dark → (s.title t).state = .ready →
    ¬armConflicts s (s.title t).clips →
    let ti := s.title t
    ∃ u, exec (.arm ⟨.feed n, tag, [byte a.val, byte (t.val + 1)]⟩) s =
        .next (answer (.feed n) 1 tag Reply.ok (suspendTest u)) ∧
      u.shows = setAt s.shows a { s.shows[a] with state := .armed, title := some t } ∧
      u.titles = { s.titles with recs := setAt s.titles.recs t { ti with refs := ti.refs + 1 } } ∧
      (∀ c : ClipNo, u.store.inUse[c] = s.store.inUse[c] + ti.clips.count c.val) ∧
      u.store = { s.store with inUse := u.store.inUse } ∧
      u.clock = { s.clock with auds := setAt s.clock.auds a { s.clock.auds[a] with pos := 0, trim := 0, silence := 0 } } ∧
      u.frame = (s.modFrame a fun f => ⟨f.seq, false, fillTable 8 .nothing, fillTable 8 0⟩).frame ∧
      (∀ v : TrackNo, u.stream.streamOf a v = none → u.cues.cursors[a][v] = Cursor.clear) ∧
      (∀ i : RecNo, u.rcv.recs[i] =
        if s.rcv.recs[i].bound = true ∧ s.rcv.recs[i].aud = a then resolve u s.rcv.recs[i] else s.rcv.recs[i]) ∧
      u.rcv = { s.rcv with recs := u.rcv.recs, counts := u.rcv.counts } ∧ (CountLaw s → CountLaw u) ∧
      edgesHandled s.rcv.counts u ∧ linkButDenied s.link u.link ∧ u.loader = s.loader ∧ u.due = s.due ∧
      u.freeCount = s.freeCount ∧ u.pending = s.pending

/-- RUN, HOLD and DARKEN pass the checks of R52; RUN and HOLD answer and act by the tables of R59 and R60 (R52, R59,
R60). -/
def Obligations.RunAndHoldFollowTheirTables : Prop :=
  ∀ (n : Fin 4) (tag : Byte) (s : State), s.owing (.feed n) = false →
    let ask := fun (f : Req → Instr) (aud : Byte) => exec (f ⟨.feed n, tag, [aud]⟩) s
    let gives := fun (k : Byte) (c : Code) (t : State) =>
      (Host.Outcome.next (answer (.feed n) k tag (Reply.of c) t) : Out)
    let all := fun (aud : Byte) (c : Code) => ask .run aud = gives 2 c s ∧ ask .hold aud = gives 3 c s ∧
      ask .darken aud = gives 4 c s
    (∀ aud : Byte, 15 < aud.toNat → all aud .range) ∧
    ∀ a : Aud,
      let b := byte a.val
      let x := s.shows[a].state
      let put := fun y : ShowState => s.setShow a { s.shows[a] with state := y }
      (s.shows[a].feedOwner ≠ some n → all b .notOwner) ∧
      (s.shows[a].feedOwner = some n →
        (x = .armed ∨ x = .held ∨ x = .lost →
          ask .run b = gives 2 .ok ((put .running).setClock a { s.clock.auds[a] with silence := 0 })) ∧
        (x = .running ∨ x = .freewheel → ask .run b = gives 2 .ok s) ∧ (x = .dark → ask .run b = gives 2 .wrongState s) ∧
        (x = .running ∨ x = .freewheel ∨ x = .lost → ask .hold b = gives 3 .ok (put .held)) ∧
        (x = .held → ask .hold b = gives 3 .ok s) ∧ (x = .armed ∨ x = .dark → ask .hold b = gives 3 .wrongState s))

/-- DARKEN, from the feed owner or M, changes nothing in DARK; else it makes the receivers unresolved, releases the
streams, clears the cursors and the Frame Builder state, lets the title and its clips go, and leaves the context DARK
(R52, R61, R64, R65, R165). The suspension test is made once, at the end (R193; log 26, DEDUCED). -/
def Obligations.DarkenReleasesTheAuditorium : Prop :=
  ∀ (p : Port) (tag : Byte) (a : Aud) (s : State), s.owing p = false →
    (p = .m ∨ ∃ n, p = .feed n ∧ s.shows[a].feedOwner = some n) →
    let i := Instr.darken ⟨p, tag, [byte a.val]⟩
    (s.shows[a].state = .dark → exec i s = .next (answer p 4 tag Reply.ok s)) ∧
    ∀ t : TitleNo, s.shows[a].state ≠ .dark → s.shows[a].title = some t →
      let ti := s.title t
      ∃ u, exec i s = .next (answer p 4 tag Reply.ok (suspendTest u)) ∧
        u.shows = setAt s.shows a { s.shows[a] with state := .dark, title := none } ∧
        u.titles = { s.titles with recs := setAt s.titles.recs t { ti with refs := ti.refs - 1 } } ∧
        (∀ c : ClipNo, u.store.inUse[c] = s.store.inUse[c] - ti.clips.count c.val) ∧
        u.store = { s.store with inUse := u.store.inUse } ∧
        (∀ v : TrackNo, u.cues.cursors[a][v] = Cursor.clear ∧ u.rcv.counts[a][v] = 0) ∧
        (∀ (b : Aud) (v : TrackNo), b ≠ a → u.rcv.counts[b][v] = s.rcv.counts[b][v]) ∧
        (∀ j : RecNo, u.rcv.recs[j] =
          if s.rcv.recs[j].bound = true ∧ s.rcv.recs[j].aud = a then
            { s.rcv.recs[j] with captionTrack := none, descTrack := none }
          else s.rcv.recs[j]) ∧
        u.rcv = { s.rcv with recs := u.rcv.recs, counts := u.rcv.counts } ∧
        u.frame = (s.modFrame a fun f => ⟨f.seq, false, fillTable 8 .nothing, fillTable 8 0⟩).frame ∧
        (∀ (v : TrackNo), isKind s .description a v = true → 1 ≤ s.rcv.counts[a][v] →
          (s.stream.isUnserved a v = true → u.stream.isUnserved a v = false) ∧
          ∀ k, s.stream.isUnserved a v = false → s.stream.streamOf a v = some k →
            u.stream.entries[k].generation = s.stream.entries[k].generation + 1 ∧
              (u.stream.entries[k].alloc = true → u.stream.entries[k].aud ≠ a)) ∧
        u.clock = s.clock ∧ u.link = s.link ∧ u.loader = s.loader ∧ u.due = s.due ∧ u.freeCount = s.freeCount ∧
        u.pending = s.pending

/-! ### Receivers -/

/-- A preference resolves to the lowest-numbered track of the auditorium's title of the kind and language; to none with
no preference, in DARK, and where the title has no such track (R127). -/
def Obligations.ResolutionTakesLowestTrack : Prop :=
  ∀ (s : State) (a : Aud) (k : TrackKind) (pref : Option Lang),
    let fits := fun (t : TrackNo) => ∃ (l : Lang) (ti : Title) (tr : Track), pref = some l ∧ s.shows[a].state ≠ .dark ∧
      titleOf s a = some ti ∧ ti.tracks[t.val]? = some tr ∧ tr.kind = k ∧ tr.lang = l
    (∀ t, resolveTrack s a k pref = some t ↔ fits t ∧ ∀ u, u < t → ¬fits u) ∧
      (resolveTrack s a k pref = none ↔ ∀ t, ¬fits t)

/-- A HELLO, alone in a REPORT, binds a new id to the lowest FREE record with no preferences, moves a known id and
re-resolves it, and is refused RANGE, NOT_OWNER or, with TABLE_FULL latched and counted, TABLE_FULL (R118 to R122, R136).
R193 makes the suspension test at each event; one test at the end of the REPORT is read from it (log 26, DEDUCED). -/
def Obligations.HelloBindsOrMoves : Prop :=
  ∀ (p : Fin 2) (tag : Byte) (aud : Nat) (id : BitVec 32) (cap desc : Option Lang) (s : State),
    s.owing (.air p) = false → aud < 256 →
    let i := Instr.report ⟨.air p, tag, itemBytes .hello aud id cap desc⟩
    let gives := fun (c : Code) (u : State) =>
      exec i s = .next (answer (.air p) 13 tag (Reply.okData [byte c.toNat]) (suspendTest u))
    let known := fun j : RecNo => s.rcv.recs[j].bound = true ∧ s.rcv.recs[j].id = id
    (id = 0 ∨ 15 < aud → gives .range s) ∧
    ∀ a : Aud, aud = a.val → id ≠ 0 →
      (s.shows[a].airPort ≠ some p → gives .notOwner s) ∧
      (s.shows[a].airPort = some p →
        (∀ j, known j → (∀ k, k < j → ¬known k) → ∃ u, gives .ok u ∧ recordsChanged s u ∧
          u.rcv.recs = setAt s.rcv.recs j
            (resolve s { s.rcv.recs[j] with airPort := some p, aud := a, lastHeard := s.rcv.seconds })) ∧
        ((∀ j, ¬known j) →
          (∀ j : RecNo, s.rcv.recs[j].bound = false → (∀ k, k < j → s.rcv.recs[k].bound = true) →
            gives .ok (withRec s j ⟨true, id, some p, a, none, none, none, none, s.rcv.seconds⟩)) ∧
          ((∀ j : RecNo, s.rcv.recs[j].bound = true) → gives .tableFull { s with
            link := s.link.latchTableFull p a
            rcv := { s.rcv with joinRefusals := setAt s.rcv.joinRefusals p (bump s.rcv.joinRefusals[p]) } })))

/-- CHOOSE, ALIVE and BYE, alone in a REPORT, name a known id of the port: CHOOSE stores the preferences and re-resolves,
ALIVE refreshes last heard alone, BYE frees the record; else they are refused by the checks of R123 in order (R118, R123
to R126, R134). One suspension test, at the end of the REPORT after all the item's edges, is read from R193 (log 26,
DEDUCED). -/
def Obligations.ChooseAliveAndBye : Prop :=
  ∀ (p : Fin 2) (tag : Byte) (kind : ItemKind) (aud : Byte) (id : BitVec 32) (cap desc : Option Lang) (s : State),
    s.owing (.air p) = false → kind ≠ .hello → (∀ l, cap = some l ∨ desc = some l → langOf l.bytes = some l) →
    let gives := fun (c : Code) (u : State) =>
      exec (.report ⟨.air p, tag, itemBytes kind aud.toNat id cap desc⟩) s =
        .next (answer (.air p) 13 tag (Reply.okData [byte c.toNat]) (suspendTest u))
    let known := fun j : RecNo => s.rcv.recs[j].bound = true ∧ s.rcv.recs[j].id = id
    (id = 0 → gives .range s) ∧ (id ≠ 0 → (∀ j, ¬known j) → gives .unknownReceiver s) ∧
    (∀ (l m : List Byte), l.length = 3 → m.length = 3 → prefOf l = none ∨ prefOf m = none → id ≠ 0 →
      exec (.report ⟨.air p, tag, [1, aud] ++ le 4 id.toNat ++ l ++ m⟩) s =
        .next (answer (.air p) 13 tag (Reply.okData [13]) (suspendTest s))) ∧
    ∀ j, id ≠ 0 → known j → (∀ k, k < j → ¬known k) →
      let old := s.rcv.recs[j]
      (old.airPort ≠ some p → gives .notOwner s) ∧
      (old.airPort = some p →
        (kind = .choose → ∃ u, gives .ok u ∧ recordsChanged s u ∧ u.rcv.recs = setAt s.rcv.recs j
          (resolve s { old with captionPref := cap, descPref := desc, lastHeard := s.rcv.seconds })) ∧
        (kind = .alive → gives .ok (withRec s j { old with lastHeard := s.rcv.seconds })) ∧
        (kind = .bye → ∃ u, gives .ok u ∧ recordsChanged s u ∧ u.rcv.recs = setAt s.rcv.recs j Receiver.free))

/-- A REPORT of 1 to 16 items takes them in list order and answers one result code for each; another count is RANGE, a
body of broken items BAD_LENGTH, an item of another kind code RANGE with no effect (R117, R118, R214). One suspension test
after all the items is read from R193 (log 26, DEDUCED). -/
def Obligations.ReportAnswersEachItem : Prop :=
  ∀ (p : Fin 2) (tag : Byte) (s : State), s.owing (.air p) = false →
    (∀ items : List (List Byte), (∀ x ∈ items, x.length = 12) → 1 ≤ items.length → items.length ≤ 16 →
      ∃ (u : State) (codes : List Code), codes.length = items.length ∧
        exec (.report ⟨.air p, tag, items.flatten⟩) s =
          .next (answer (.air p) 13 tag (Reply.okData (codes.map fun c => byte c.toNat)) (suspendTest u)) ∧
        (u, codes) = takeItems p (items.map readItem) s) ∧
    (∀ body : List Byte, body.length ≤ 1024 →
      (body.length % 12 ≠ 0 → exec (.report ⟨.air p, tag, body⟩) s =
        .next (answer (.air p) 13 tag (Reply.of .badLength) s)) ∧
      (body.length % 12 = 0 → body.length < 12 ∨ 192 < body.length → exec (.report ⟨.air p, tag, body⟩) s =
        .next (answer (.air p) 13 tag (Reply.of .range) s))) ∧
    (∀ (it : Item) (rest : List Item), takeItems p (it :: rest) s =
      ((takeItems p rest (takeItem p it s).1).1, (takeItem p it s).2 :: (takeItems p rest (takeItem p it s).1).2)) ∧
    ∀ (k : Byte) (bs : List Byte), 3 < k.toNat → takeItem p (readItem (k :: bs)) s = (s, .range)

/-! ### Cue location -/

/-- On a sound track, from a sound cursor and sound cache ways, a lookup returns the lowest index whose entry ends after
the instant, whatever its route, and the active flag; it moves its own cursor there and no other, and relocates only from
a clear cursor or backward (R12, R92 to R96, R98 to R103). -/
def Obligations.LookupFindsLowestEntry : Prop :=
  ∀ (a : Aud) (t : TrackNo) (sair : Nat) (h : TitleNo) (x : TitleTrack) (s : State),
    s.shows[a].title = some h → trackOf s a t = some x → TrackSound s.titles.cue x →
    let m := s.titles.cue
    let cur := s.cues.cursors[a][t]
    (cur.valid = true → cur.index ≤ x.track.n ∧ ∀ j, j < cur.index → entryEnd m x.title x.track j ≤ cur.placedAt) →
    (∀ (i : Fin 16) (w : Fin 4), s.cues.sets[i].ways[w].holds (handle h) t.val (sair / 2048) = true →
      isLowestAfter m x (2048 * (sair / 2048)) s.cues.sets[i].ways[w].index) →
    let r := lookup s a t sair
    isLowestAfter m x sair r.1.index ∧
      (r.1.active = true ↔ r.1.index < x.track.n ∧ entryStart m x.title x.track r.1.index ≤ sair) ∧
      (∀ (b : Aud) (v : TrackNo), r.2.cursors[b][v] =
        if b = a ∧ v = t then ⟨true, r.1.index, sair⟩ else s.cues.cursors[b][v]) ∧
      (cur.valid = true → cur.placedAt ≤ sair →
        r.2.sets = s.cues.sets ∧ r.2.hits = s.cues.hits ∧ r.2.misses = s.cues.misses)

/-- A relocation uses the set of R99: a way that holds the key is a hit, else the bucket index is placed in the lowest
invalid way or the victim of R106; the bits of R105 name the way, and one statistic counts it. CACHE.PROBE reports the set
and changes nothing; CACHE.FLUSH makes every entry invalid with every bit 0 (R99 to R102, R104 to R106, R110 to R112). The
bits of the probe's bits byte that no rule names are 0 (the model's choice, log 28). -/
def Obligations.PositionCacheFollowsItsRules : Prop :=
  (∀ (m : List Host.Cell) (x : TitleTrack) (h : TitleNo) (t : TrackNo) (sair : Nat) (c : CueBlock),
    let bucket := sair / 2048
    let i : Fin 16 := ⟨(bucket + 4 * t.val + (h.val + 1)) % 16, Nat.mod_lt _ (by decide)⟩
    let set := c.sets[i]
    let holds := fun w : Fin 4 => set.ways[w].valid = true ∧ set.ways[w].handle = h.val + 1 ∧
      set.ways[w].track = t.val ∧ set.ways[w].bucket = bucket
    let named := fun (w : Fin 4) (ways : Vector Way 4) => CacheSet.mk ways (decide (w.val < 2))
      (if w = 0 then true else if w = 1 then false else set.bw)
      (if w = 2 then true else if w = 3 then false else set.cw)
    let r := relocate m x (handle h) t.val sair c
    (∀ w, holds w → (∀ v, v < w → ¬holds v) →
      r = (set.ways[w].index, { c with sets := setAt c.sets i (named w set.ways), hits := bump c.hits })) ∧
    ((∀ w, ¬holds w) → ∀ w : Fin 4,
      ((set.ways[w].valid = false ∧ ∀ v, v < w → set.ways[v].valid = true) ∨
        ((∀ v : Fin 4, set.ways[v].valid = true) ∧
          w = if set.a then (if set.cw then 3 else 2) else (if set.bw then 1 else 0))) →
      r.2 = { c with
        sets := setAt c.sets i (named w (setAt set.ways w ⟨true, h.val + 1, t.val, bucket, r.1⟩))
        misses := bump c.misses })) ∧
  ∀ (tag : Byte) (s : State), s.owing .m = false →
    exec (.cacheFlush ⟨.m, tag, []⟩) s = .next (answer .m 20 tag Reply.ok { s with
      cues := { s.cues with sets := fillTable 16 ⟨fillTable 4 ⟨false, 0, 0, 0, 0⟩, false, false, false⟩ } }) ∧
    ∀ (h t : Byte) (bucket : Nat), bucket < 65536 →
      let i := Instr.cacheProbe ⟨.m, tag, [h, t] ++ le 2 bucket⟩
      (h = 0 ∨ 24 < h.toNat ∨ 7 < t.toNat ∨ 8191 < bucket →
        exec i s = .next (answer .m 19 tag (Reply.of .range) s)) ∧
      (1 ≤ h.toNat → h.toNat ≤ 24 → t.toNat ≤ 7 → bucket ≤ 8191 →
        let k : Fin 16 := ⟨(bucket + 4 * t.toNat + h.toNat) % 16, Nat.mod_lt _ (by decide)⟩
        let set := s.cues.sets[k]
        let bits := byte (flag set.a + 2 * flag set.bw + 4 * flag set.cw)
        let holds := fun w : Fin 4 => set.ways[w].valid = true ∧ set.ways[w].handle = h.toNat ∧
          set.ways[w].track = t.toNat ∧ set.ways[w].bucket = bucket
        (∀ w, holds w → (∀ v, v < w → ¬holds v) → exec i s = .next (answer .m 19 tag
          (Reply.okData ([byte k.val, 1, byte w.val] ++ le 2 set.ways[w].index ++ [bits])) s)) ∧
        ((∀ w, ¬holds w) → exec i s = .next (answer .m 19 tag
          (Reply.okData ([byte k.val, 0, 255] ++ le 2 0 ++ [bits])) s)))

/-! ### Payloads -/

/-- Every payload begins with its header and is no longer than its air port's capacity; the PULL is answered in every
state (R147). The header and the sections are given byte by byte, and their bits that no rule names are 0 (the
model's choice, log 28). -/
def Obligations.PayloadKeepsItsLaw : Prop :=
  ∀ (p : Fin 2) (tag : Byte) (a : Aud) (s : State), s.owing (.air p) = false → s.shows[a].airPort = some p →
    SettingsLaw s → ∃ (u : State) (sections : List Section),
      let data := payloadHeader s p a sections.length ++ sections.flatMap Section.bytes
      exec (.pull ⟨.air p, tag, [byte a.val]⟩) s = .next (answer (.air p) 12 tag (Reply.okData data) u) ∧
      (payloadHeader s p a sections.length).length = 12 ∧ data.length ≤ s.frame.air[p].capacity

/-- PULL is refused RANGE and NOT_OWNER by the checks of R141; in DARK and ARMED it returns the header alone, in LOST one
CLEAR for each subscribed caption track (R141, R142, R144, R157). One suspension test ends the PULL (R193; log 26,
DEDUCED), and payload bits that no rule names are 0 (the model's choice, log 28). -/
def Obligations.PullOfAStoppedShow : Prop :=
  ∀ (p : Fin 2) (tag : Byte) (s : State), s.owing (.air p) = false →
    (∀ aud : Byte, 15 < aud.toNat → exec (.pull ⟨.air p, tag, [aud]⟩) s =
      .next (answer (.air p) 12 tag (Reply.of .range) s)) ∧
    ∀ a : Aud,
      let i := Instr.pull ⟨.air p, tag, [byte a.val]⟩
      let tracks := allTracks.filter (isSubscribed s .caption a)
      (s.shows[a].airPort ≠ some p → exec i s = .next (answer (.air p) 12 tag (Reply.of .notOwner) s)) ∧
      (s.shows[a].airPort = some p →
        (s.shows[a].state = .dark ∨ s.shows[a].state = .armed → exec i s =
          .next (answer (.air p) 12 tag (Reply.okData (payloadHeader s p a 0)) (suspendTest (pulled s a)))) ∧
        (s.shows[a].state = .lost → SettingsLaw s → exec i s = .next (answer (.air p) 12 tag
          (Reply.okData (payloadHeader s p a tracks.length ++
            tracks.flatMap fun v => [byte (32 + v.val), 0xFF, 0xFF, 0xFF]))
          (suspendTest ((pulled s a).modFrame a fun f => { f with
            sent := Vector.ofFn fun v => if isSubscribed s .caption a v then .noCue else f.sent[v]
            countdown := Vector.ofFn fun v =>
              if isSubscribed s .caption a v then s.frame.air[p].repeatPeriod else f.countdown[v] })))))

/-- The captions of a payload: for the tracks in order, a lookup, and a CAPTION or CLEAR for each changed one; then the
unchanged ones whose countdown is 0, in round-robin order from the track after the rotation index; a section that does not
fit is skipped, counted, and leaves its track's sent state, countdown and the rotation index (R146, R154 to R156). So a
PULL of a HELD show, or of a running one with no subscribed description track, whose one subscribed caption track has
changed sends its CAPTION or CLEAR; one that has not sends it as a repeat when its countdown has run out, and nothing else
(R142, R144, R158). One suspension test ends the PULL (R193; log 26, DEDUCED), and payload bits that no rule names are 0
(the model's choice, log 28). -/
def Obligations.PullSendsTheCaption : Prop :=
  (∀ (p : Fin 2) (tag : Byte) (a : Aud) (v : TrackNo) (x : TitleTrack) (s : State), s.owing (.air p) = false →
      s.shows[a].airPort = some p → SettingsLaw s →
      s.shows[a].state = .held ∨ ((s.shows[a].state = .running ∨ s.shows[a].state = .freewheel) ∧
        ∀ w, isSubscribed s .description a w = false) →
      (∀ w, isSubscribed s .caption a w = true ↔ w = v) → trackOf s a v = some x →
      let air := s.frame.air[p]
      let r := lookup s a v (min (s.clock.auds[a].pos / 65536 + air.lead) 16777215)
      let current := if r.1.active then Sent.entry r.1.index else .noCue
      let u := { pulled s a with cues := r.2 }
      let f := u.frame.auds[a]
      let sends := fun (data : List Byte) (t : State) => exec (.pull ⟨.air p, tag, [byte a.val]⟩) s =
        .next (answer (.air p) 12 tag (Reply.okData data) (suspendTest t))
      let cue := captionBytes s.titles.cue x v r.1
      (f.sent[v] ≠ current → sends (payloadHeader s p a 1 ++ cue false) (u.modFrame a fun f => { f with
        sent := setAt f.sent v current
        countdown := setAt f.countdown v air.repeatPeriod })) ∧
      (f.sent[v] = current → f.countdown[v] ≠ 0 → sends (payloadHeader s p a 0) u) ∧
      (f.sent[v] = current → f.countdown[v] = 0 → sends (payloadHeader s p a 1 ++ cue true)
        { u with frame := {
          air := setAt s.frame.air p { air with rotation := v }
          auds := setAt u.frame.auds a { f with countdown := setAt f.countdown v air.repeatPeriod } } })) ∧
  (∀ (k : PullContext) (tracks : List TrackNo) (c : Compose),
    let q := tracks.foldl (offerChanged k) (c, [])
    composeCaptions k tracks c = (candidates k q.1.state q.2).foldl (offerRepeat k) q.1) ∧
  (∀ (k : PullContext) (c : Compose) (v : TrackNo) (x : TitleTrack) (looks : List CaptionLook),
    trackOf c.state k.aud v = some x →
    let r := lookup c.state k.aud v k.sair
    let current := if r.1.active then Sent.entry r.1.index else .noCue
    let looked := { c.state with cues := r.2 }
    let bytes := captionBytes c.state.titles.cue x v r.1 false
    let q := offerChanged k (c, looks) v
    (c.state.frame.auds[k.aud].sent[v] = current → q = ({ c with state := looked }, looks ++ [⟨v, r.1, false⟩])) ∧
    (c.state.frame.auds[k.aud].sent[v] ≠ current → q.2 = looks ++ [⟨v, r.1, true⟩] ∧
      (bytes.length ≤ c.room → ∃ y : Section, y.bytes = bytes ∧
        q.1 = ⟨c.room - bytes.length, c.sections ++ [y], looked.modFrame k.aud fun f => { f with
          sent := setAt f.sent v current
          countdown := setAt f.countdown v k.period }⟩) ∧
      (c.room < bytes.length → q.1 = { c with state := sectionSkipped looked k.port }))) ∧
  (∀ (k : PullContext) (s : State) (looks : List CaptionLook), looks.Pairwise (fun l m => l.track ≠ m.track) →
    let turn := fun l : CaptionLook => (l.track.val + 7 - s.frame.air[k.port].rotation.val) % 8
    (∀ l, l ∈ candidates k s looks ↔
      l ∈ looks ∧ l.changed = false ∧ s.frame.auds[k.aud].countdown[l.track] = 0) ∧
    (candidates k s looks).Pairwise fun l m => turn l < turn m) ∧
  ∀ (k : PullContext) (c : Compose) (l : CaptionLook) (x : TitleTrack), trackOf c.state k.aud l.track = some x →
    let bytes := captionBytes c.state.titles.cue x l.track l.found true
    let u := c.state.modFrame k.aud fun f => { f with countdown := setAt f.countdown l.track k.period }
    (bytes.length ≤ c.room → ∃ y : Section, y.bytes = bytes ∧
      offerRepeat k c l = ⟨c.room - bytes.length, c.sections ++ [y], { u with frame := { u.frame with
        air := setAt u.frame.air k.port { u.frame.air[k.port] with rotation := l.track } } }⟩) ∧
    (c.room < bytes.length → offerRepeat k c l = { c with state := sectionSkipped c.state k.port })

/-- A PULL of a RUNNING or FREEWHEEL show composes audio and then captions, of a HELD show captions alone, within the
capacity less the header (R142, R144, R146). The audio: late positions leave the ring of each track, counted; then the
first due block of every track in order, then the second of each track whose first was placed; a block placed leaves its
ring, and one that does not fit stays, counted as deferred; an UNSERVED track sends a SILENCE (R148 to R152, R178). So a
PULL of a running show drops late blocks and sends the oldest due block of its one subscribed description track as AUDIO or
SILENCE. The fill follows each position that leaves (log 11, DEDUCED), one suspension test ends the PULL (R193; log 26,
DEDUCED), and payload bits that no rule names are 0 (the model's choice, log 28). -/
def Obligations.PullSendsTheBlock : Prop :=
  (∀ (p : Fin 2) (tag : Byte) (a : Aud) (v : TrackNo) (s : State), s.owing (.air p) = false →
      s.shows[a].airPort = some p → SettingsLaw s → s.shows[a].state = .running ∨ s.shows[a].state = .freewheel →
      (∀ w, isSubscribed s .caption a w = false) → (∀ w, isSubscribed s .description a w = true ↔ w = v) →
      let air := s.frame.air[p]
      let sair := min (s.clock.auds[a].pos / 65536 + air.lead) 16777215
      let sends := fun (data : List Byte) (t : State) => exec (.pull ⟨.air p, tag, [byte a.val]⟩) s =
        .next (answer (.air p) 12 tag (Reply.okData data) t)
      (∀ (i : StreamNo) (late rest : List RingPos) (x y : RingPos), s.stream.streamOf a v = some i →
        s.stream.entries[i].ring = late ++ x :: y :: rest → (∀ z ∈ late, z.play + 96 ≤ sair) → sair < x.play + 96 →
        x.play < sair + air.window → sair + air.window ≤ y.play →
        ((blockSection v x).length + 12 ≤ air.capacity → ∃ (u : State) (more : List RingPos),
          sends (payloadHeader s p a 1 ++ blockSection v x) (suspendTest u) ∧ u.stream.entries[i].ring = y :: rest ++ more ∧
          u.stream.stats[a].underruns =
            (if x.state = .outstanding then bump s.stream.stats[a].underruns else s.stream.stats[a].underruns) ∧
          (∀ j, j ≠ i → u.stream.entries[j] = s.stream.entries[j]) ∧ otherBlocks (pulled s a) u ∧ u.link = s.link ∧
          u.cues = s.cues) ∧
        (late = [] → air.capacity < (blockSection v x).length + 12 → sends (payloadHeader s p a 0)
          (suspendTest { pulled s a with frame := {
            air := setAt s.frame.air p { air with deferred := bump air.deferred }
            auds := (pulled s a).frame.auds } }))) ∧
      (s.stream.streamOf a v = none → s.stream.isUnserved a v = true → sends
        (payloadHeader s p a 1 ++ [byte (64 + v.val), 3] ++ le 3 sair ++ le 3 0) (suspendTest (pulled s a)))) ∧
  (∀ (p : Fin 2) (tag : Byte) (a : Aud) (s : State), s.owing (.air p) = false → s.shows[a].airPort = some p →
    s.shows[a].state = .running ∨ s.shows[a].state = .freewheel ∨ s.shows[a].state = .held →
    let air := s.frame.air[p]
    let k : PullContext :=
      ⟨a, p, min (s.clock.auds[a].pos / 65536 + air.lead) 16777215, air.window, air.repeatPeriod⟩
    let start : Compose := ⟨air.capacity - 12, [], pulled s a⟩
    let audio := composeAudio k (allTracks.filter (isSubscribed s .description a)) start
    let c := composeCaptions k (allTracks.filter (isSubscribed s .caption a))
      (if s.shows[a].state = .held then start else audio)
    exec (.pull ⟨.air p, tag, [byte a.val]⟩) s = .next (answer (.air p) 12 tag
      (Reply.okData (payloadHeader s p a c.sections.length ++ c.sections.flatMap Section.bytes))
      (suspendTest c.state))) ∧
  (∀ (k : PullContext) (tracks : List TrackNo) (c : Compose),
    let q := tracks.foldl (offerFirst k) ({ c with state := tracks.foldl (removeLateTrack k) c.state }, [])
    composeAudio k tracks c = q.2.foldl (offerSecond k) q.1) ∧
  (∀ (k : PullContext) (v : TrackNo) (i : StreamNo) (late rest : List RingPos) (s : State),
    s.stream.streamOf k.aud v = some i → s.stream.entries[i].ring = late ++ rest →
    (∀ z ∈ late, z.play + 96 ≤ k.sair) → (∀ z, rest.head? = some z → k.sair < z.play + 96) →
    removeLateTrack k s v = if late = [] then s else fill i { s with stream := { s.stream with
      entries := setAt s.stream.entries i { s.stream.entries[i] with ring := rest }
      stats := setAt s.stream.stats k.aud { s.stream.stats[k.aud] with
        late := bumpBy late.length s.stream.stats[k.aud].late } } }) ∧
  ∀ (k : PullContext) (c : Compose) (placed : List TrackNo) (v : TrackNo), k.sair ≤ 16777215 →
    let b := c.state.stream
    let skips := ({ c with state := sectionSkipped c.state k.port }, placed)
    let q := offerFirst k (c, placed) v
    (∀ i : StreamNo, b.streamOf k.aud v = some i →
      (b.entries[i].ring = [] → q = (c, placed)) ∧
      (∀ (x : RingPos) (rest : List RingPos), b.entries[i].ring = x :: rest →
        (k.sair + k.window ≤ x.play → q = (c, placed)) ∧
        (x.play < k.sair + k.window →
          ((blockSection v x).length ≤ c.room → ∃ y : Section, y.bytes = blockSection v x ∧
            q = (⟨c.room - (blockSection v x).length, c.sections ++ [y], fill i { c.state with stream := { b with
              entries := setAt b.entries i { b.entries[i] with ring := rest }
              stats := if x.state = .outstanding then setAt b.stats k.aud { b.stats[k.aud] with
                  underruns := bump b.stats[k.aud].underruns }
                else b.stats } }⟩, placed ++ [v])) ∧
          (c.room < (blockSection v x).length → q = skips))) ∧
      offerSecond k c v = q.1) ∧
    (b.streamOf k.aud v = none →
      (b.unserved[k.aud][v] = false → q = (c, placed)) ∧
      (b.unserved[k.aud][v] = true →
        (8 ≤ c.room → ∃ y : Section, y.bytes = [byte (64 + v.val), 3] ++ le 3 k.sair ++ le 3 0 ∧
          q = (⟨c.room - 8, c.sections ++ [y], c.state⟩, placed)) ∧
        (c.room < 8 → q = skips)) ∧
      offerSecond k c v = c)

/-! ### Streams -/

/-- A stream request takes the lowest FREE entry, keeps its generation and outstanding count and starts its fill at once,
or is denied: UNSERVED, STREAM_DENIED, counted. A release clears the mark, or flushes and frees the entry, which goes to
the UNSERVED track of lowest auditorium and track with a subscriber (R162, R164, R165, R176). That a freed entry keeps its
auditorium and track is read from their silence (log 13, DEDUCED). -/
def Obligations.StreamsAreGrantedAndReleased : Prop :=
  ∀ (a : Aud) (v : TrackNo) (s : State),
    (∀ i : StreamNo, s.stream.entries[i].alloc = false → (∀ j, j < i → s.stream.entries[j].alloc = true) →
      let u := requestStream s (a, v)
      let taken := { s.stream.entries[i] with alloc := true, aud := a, track := v, next := none, ring := [] }
      u = startFill i { s with stream := { s.stream with entries := setAt s.stream.entries i taken } } ∧
        u.stream.entries[i].alloc = true ∧ u.stream.entries[i].aud = a ∧ u.stream.entries[i].track = v ∧
        u.stream.entries[i].generation = s.stream.entries[i].generation ∧
        (∀ j, j ≠ i → u.stream.entries[j] = s.stream.entries[j]) ∧ u.stream.unserved = s.stream.unserved ∧
        u.stream.denials = s.stream.denials ∧ u.link = s.link ∧ otherBlocks s u) ∧
    ((∀ i : StreamNo, s.stream.entries[i].alloc = true) → requestStream s (a, v) = { s with
      stream := { s.stream with
        unserved := setAt s.stream.unserved a (setAt s.stream.unserved[a] v true)
        denials := bump s.stream.denials }
      link := s.link.latchStreamDenied a }) ∧
    (s.stream.unserved[a][v] = true → releaseStream s (a, v) = { s with
      stream := { s.stream with unserved := setAt s.stream.unserved a (setAt s.stream.unserved[a] v false) } }) ∧
    ∀ i : StreamNo, s.stream.unserved[a][v] = false → s.stream.streamOf a v = some i →
      let waits := fun (b : Aud) (w : TrackNo) => s.stream.unserved[b][w] = true ∧ 1 ≤ s.rcv.counts[b][w]
      let st := s.stream.entries[i]
      let u := releaseStream s (a, v)
      ((∀ b w, ¬waits b w) → u = { s with stream := { s.stream with
        entries := setAt s.stream.entries i
          { st with alloc := false, generation := st.generation + 1, next := none, ring := [] } } }) ∧
      ∀ b w, waits b w → (∀ b' w', waits b' w' → b < b' ∨ (b = b' ∧ w ≤ w')) →
        u = startFill i { s with stream := { s.stream with
          entries := setAt s.stream.entries i { st with
            alloc := true, aud := b, track := w, generation := st.generation + 1, next := none, ring := [] }
          unserved := setAt s.stream.unserved b (setAt s.stream.unserved[b] w false) } } ∧
          u.stream.entries[i].alloc = true ∧ u.stream.entries[i].aud = b ∧ u.stream.entries[i].track = w ∧
          u.stream.entries[i].generation = st.generation + 1 ∧
          (∀ j, j ≠ i → u.stream.entries[j] = s.stream.entries[j]) ∧
          u.stream.unserved = setAt s.stream.unserved b (setAt s.stream.unserved[b] w false) ∧ u.link = s.link ∧
          otherBlocks s u

/-- A fill start places the next fetch position by a lookup at the airing instant (R166), and a flush with refill empties
each ring of the auditorium in track order, raises its generation and starts its fill anew (R176). The fill makes one
position after another, until the ring is full, the stream is ended or it waits: OUTSTANDING with a record in the pool, or
SILENT and counted for an undefined clip; a block already late is counted and passed; a full pool makes it wait; and each
moves the next fetch position to the next block the track supplies (R167, R169, R171). -/
def Obligations.FillMakesThePosition : Prop :=
  (∀ (i : StreamNo) (e k : Nat) (x : TitleTrack) (s : State),
      let st := s.stream.entries[i]
      let d := descEntry s.titles.cue x.title x.track e
      let wanted := ceilDiv d.dur 96
      let play := d.start + 96 * (k - d.first)
      let sair := min (s.clock.auds[st.aud].pos / 65536 + lead s st.aud) 16777215
      st.alloc = true → st.next = some (e, k) → trackOf s st.aud st.track = some x → st.ring.length < 8 →
      sair < play + 96 → ∀ (c : ClipNo), d.clip = c.val → d.first ≤ k →
      let dir := s.store.directory[c]
      let u := fill i s
      (dir.defined = true → k < d.first + min wanted (dir.length - d.first) →
        (s.stream.pool.length < 32 →
          s.stream.pool ++ [⟨i, st.aud, st.generation, dir.first + k, play⟩] <+: u.stream.pool ∧
          st.ring ++ [⟨play, .outstanding, c.val, k, dir.first + k, d.level⟩] <+: u.stream.entries[i].ring ∧
          st.outstanding < u.stream.entries[i].outstanding) ∧
        (32 ≤ s.stream.pool.length → u = s)) ∧
      (dir.defined = false → k < d.first + min wanted (4096 - d.first) →
        st.ring ++ [⟨play, .silent, c.val, k, 0, d.level⟩] <+: u.stream.entries[i].ring ∧
        (s.stream.stats[st.aud].silent ≠ 65535 → s.stream.stats[st.aud].silent < u.stream.stats[st.aud].silent)) ∧
      u.stream.entries[i].ring.length ≤ 8 ∧ u.stream.entries[i].generation = st.generation ∧
      ∀ j, j ≠ i → u.stream.entries[j] = s.stream.entries[j]) ∧
  (∀ (i : StreamNo) (s : State), s.stream.entries[i].alloc = false ∨ s.stream.entries[i].next = none → fill i s = s) ∧
  (∀ (i : StreamNo) (e k : Nat) (x : TitleTrack) (next : Option (Nat × Nat)) (s : State),
    let b := s.stream
    let st := b.entries[i]
    let d := descEntry s.titles.cue x.title x.track e
    let play := d.start + 96 * (k - d.first)
    let sair := min (s.clock.auds[st.aud].pos / 65536 + lead s st.aud) 16777215
    let dir := clipEntry s d.clip
    st.alloc = true → st.next = some (e, k) → trackOf s st.aud st.track = some x → d.first ≤ k →
    k < d.first + entrySupply s x e → comesNext s x e (k + 1) next →
    let goesOn := fun (st' : Stream) (pool : List FetchRecord) (f : StreamStats → StreamStats) =>
      fill i { s with stream := { b with
        entries := setAt b.entries i { st' with next := next }
        pool := pool
        stats := setAt b.stats st.aud (f b.stats[st.aud]) } }
    (8 ≤ st.ring.length → fill i s = s) ∧
    (st.ring.length < 8 →
      (play + 96 ≤ sair → fill i s = goesOn st b.pool fun n => { n with late := bump n.late }) ∧
      (sair < play + 96 →
        (dir.defined = false → fill i s =
          goesOn { st with ring := st.ring ++ [⟨play, .silent, d.clip, k, 0, d.level⟩] } b.pool
            fun n => { n with silent := bump n.silent }) ∧
        (dir.defined = true → b.pool.length < 32 → fill i s = goesOn
          { st with
            ring := st.ring ++ [⟨play, .outstanding, d.clip, k, dir.first + k, d.level⟩]
            outstanding := st.outstanding + 1 }
          (b.pool ++ [⟨i, st.aud, st.generation, dir.first + k, play⟩]) id) ∧
        (dir.defined = true → 32 ≤ b.pool.length → fill i s = s)))) ∧
  (∀ (i : StreamNo) (x : TitleTrack) (next : Option (Nat × Nat)) (s : State),
    let st := s.stream.entries[i]
    let sair := min (s.clock.auds[st.aud].pos / 65536 + lead s st.aud) 16777215
    trackOf s st.aud st.track = some x →
    let r := lookup s st.aud st.track sair
    let d := descEntry s.titles.cue x.title x.track r.1.index
    (r.1.index < x.track.n →
      comesNext s x r.1.index (if r.1.active then d.first + (sair - d.start) / 96 else d.first) next) →
    (x.track.n ≤ r.1.index → next = none) →
    startFill i s = fill i { s with
      cues := r.2
      stream := { s.stream with entries := setAt s.stream.entries i { st with next := next } } }) ∧
  ∀ (a : Aud) (s : State), refillAud a s = ([0, 1, 2, 3, 4, 5, 6, 7] : List TrackNo).foldl (fun u v =>
    match u.stream.streamOf a v with
    | some i =>
      let emptied := { u.stream.entries[i] with ring := [], generation := u.stream.entries[i].generation + 1 }
      startFill i { u with stream := { u.stream with entries := setAt u.stream.entries i emptied } }
    | none => u) s

/-! ### The clip store -/

/-- CLIP.DEFINE and CLIP.DELETE are refused by their checks in order, else write the directory entry; CLIP.PROTECT raises
the floor; CLIP.WRITE_ENABLE sets the latch (R183 to R186, R190). -/
def Obligations.DirectoryRequests : Prop :=
  ∀ (tag : Byte) (clip first length v : Nat) (s : State), s.owing .m = false → clip < 65536 → first < 65536 →
    length < 65536 → v < 65536 →
    let define := Instr.clipDefine ⟨.m, tag, le 2 clip ++ le 2 first ++ le 2 length⟩
    let delete := Instr.clipDelete ⟨.m, tag, le 2 clip⟩
    let put := fun (c : ClipNo) (x : ClipEntry) =>
      { s with store := { s.store with directory := setAt s.store.directory c x } }
    let gives := fun (i : Instr) (k : Byte) (c : Code) (t : State) =>
      exec i s = .next (answer .m k tag (Reply.of c) t)
    (1023 < clip ∨ length = 0 ∨ 4096 < length ∨ 65536 < first + length → gives define 21 .range s) ∧
    (1023 < clip → gives delete 22 .range s) ∧
    (∀ c : ClipNo, clip = c.val →
      (s.store.inUse[c] ≠ 0 → gives delete 22 .inUse s) ∧
      (s.store.inUse[c] = 0 → gives delete 22 .ok (put c ⟨false, 0, 0⟩)) ∧
      (1 ≤ length → length ≤ 4096 → first + length ≤ 65536 →
        (s.store.inUse[c] ≠ 0 → gives define 21 .inUse s) ∧
        (s.store.inUse[c] = 0 → DirectoryLaw s →
          let overlapping := ∃ (d : ClipNo) (b : Nat), d ≠ c ∧ inExtent s.store.directory[d] b ∧ first ≤ b ∧
            b < first + length
          (overlapping → gives define 21 .overlap s) ∧
          (¬overlapping → gives define 21 .ok (put c ⟨true, first, length⟩))))) ∧
    exec (.clipProtect ⟨.m, tag, le 2 v⟩) s =
      .next (answer .m 27 tag (Reply.okClamped (decide (4096 < v ∨ v < s.store.floor)))
        { s with store := { s.store with floor := max s.store.floor (min v 4096) } }) ∧
    exec (.clipWriteEnable ⟨.m, tag, []⟩) s =
      .next (answer .m 23 tag Reply.ok { s with store := { s.store with latch := true } })

/-- CLIP.PROGRAM, CLIP.ERASE and CLIP.VERIFY are refused by their checks in order, the first two clearing the latch
whatever the answer; else the operation is WAITING (R182, R187, R189 to R192, R195). -/
def Obligations.MaintenanceIsAccepted : Prop :=
  (∀ data : List Byte, data.length = 512 → checkWord data = 65535 - ((List.range 256).map fun j =>
    (data.getD (2 * j) 0).toNat + 256 * (data.getD (2 * j + 1) 0).toNat).sum % 65536) ∧
  ∀ (tag : Byte) (n : Nat) (data : List Byte) (s : State), s.owing .m = false → n < 65536 → data.length = 512 →
    let program := Instr.clipProgram ⟨.m, tag, le 2 n ++ data⟩
    let erase := Instr.clipErase ⟨.m, tag, le 2 n⟩
    let verify := Instr.clipVerify ⟨.m, tag, le 2 n⟩
    let off := { s with store := { s.store with latch := false } }
    let gives := fun (i : Instr) (k : Byte) (c : Code) (t : State) =>
      exec i s = .next (answer .m k tag (Reply.of c) t)
    (s.store.latch = false → gives program 24 .notEnabled off) ∧
    (s.store.latch = true →
      (sectorProtected s (n / 16) → gives program 24 .isProtected off) ∧
      (¬sectorProtected s (n / 16) → (s.store.op ≠ .none → gives program 24 .busy off) ∧
        (s.store.op = .none → gives program 24 .accepted
          { off with store := { off.store with op := .program .waiting n data (checkWord data) } }))) ∧
    (4095 < n → gives erase 25 .range off) ∧
    (n ≤ 4095 → (s.store.latch = false → gives erase 25 .notEnabled off) ∧
      (s.store.latch = true →
        (sectorProtected s n → gives erase 25 .isProtected off) ∧
        (¬sectorProtected s n → (s.store.op ≠ .none → gives erase 25 .busy off) ∧
          (s.store.op = .none →
            gives erase 25 .accepted { off with store := { off.store with op := .erase .waiting n } })))) ∧
    (1023 < n → gives verify 26 .range s) ∧
    ∀ c : ClipNo, n = c.val →
      let d := s.store.directory[c]
      (d.defined = false → gives verify 26 .wrongState s) ∧
      (d.defined = true → (s.store.op ≠ .none → gives verify 26 .busy s) ∧
        (s.store.op = .none → gives verify 26 .accepted
          { s with store := { s.store with op := .verify .waiting c.val d.first d.length 0 0 } }))

/-- The arbiter gives an idle flash to waiting maintenance when no pooled record has slack below U, and to a suspended
erase that a RESET waits for; else to the record of least slack, then lowest stream, then earliest, and the place it frees
goes to the waiting stream whose next position has the least slack, then the lowest (R170, R172, R173, R189, R194, R199);
the grant is repeated until the pool is full or no stream waits (log 12, DEDUCED), and which streams wait is read from
their entries (log 23, DEDUCED). A pooled record with slack below U takes the flash back from an erase in flight that no
RESET waits for, counted, and nothing else does (R193, R198, R199). A choice at a busy flash changes nothing (the model's
choice, log 3). -/
def Obligations.ArbiterGivesTheFlash : Prop :=
  (∀ s : State,
    let slackOf := fun r : FetchRecord =>
      (r.play : Int) - (min (s.clock.auds[r.aud].pos / 65536 + lead s r.aud) 16777215 : Nat)
    let isUrgent := ∃ r ∈ s.stream.pool, slackOf r < s.store.margin
    ((∀ n, s.store.op = .erase .inFlight n → isUrgent → s.link.resetTag = none → suspendTest s =
      { s with store := { s.store with
        op := .erase .suspended n
        use := .idle
        suspensions := bump s.store.suspensions } }) ∧
      ((∀ n, s.store.op ≠ .erase .inFlight n) ∨ ¬isUrgent ∨ s.link.resetTag ≠ none → suspendTest s = s)) ∧
    (s.store.use ≠ .idle → exec .flashArbiterChoice s = .next s) ∧
    (s.store.use = .idle → FlashLaw s →
      let resumes := s.link.resetTag ≠ none ∧ s.store.op.started = true
      let starts := fun (op : Maintenance) (use : FlashUse) => exec .flashArbiterChoice s =
        .next { s with store := { s.store with op := op, use := use } }
      (¬isUrgent ∨ resumes →
        (s.store.op = .none → s.stream.pool = [] → exec .flashArbiterChoice s = .next s) ∧
        (∀ st b data check, s.store.op = .program st b data check → starts (.program .inFlight b data check) .program) ∧
        (∀ st n, s.store.op = .erase st n → starts (.erase .inFlight n) .erase) ∧
        ∀ st c f l m n, s.store.op = .verify st c f l m n → starts (.verify .inFlight c f l m n) .verify) ∧
      (s.store.op = .none ∨ (isUrgent ∧ ¬resumes) → ∀ before r after, s.stream.pool = before ++ r :: after →
        (∀ q ∈ before, slackOf r < slackOf q ∨ (slackOf r = slackOf q ∧ r.stream < q.stream)) →
        (∀ q ∈ after, slackOf r < slackOf q ∨ (slackOf r = slackOf q ∧ r.stream ≤ q.stream)) →
        ∃ u, exec .flashArbiterChoice s = .next u ∧
          u = grantRoom 24 { s with
            store := { s.store with use := .fetch r }
            stream := { s.stream with pool := before ++ after } } ∧
          u.store = { s.store with use := .fetch r } ∧ before ++ after <+: u.stream.pool ∧
          (32 ≤ u.stream.pool.length ∨ ∀ i : StreamNo, waitingSlack u i = none) ∧
          u.link = s.link ∧ u.cues = s.cues ∧ otherBlocks { s with store := u.store } u))) ∧
  ∀ (n : Nat) (s : State),
    (32 ≤ s.stream.pool.length ∨ (∀ i d, ¬waitsWith s i d) → grantRoom n s = s) ∧
    (s.stream.pool.length < 32 → ∀ i d, waitsWith s i d →
      (∀ j d', waitsWith s j d' → d < d' ∨ (d = d' ∧ i ≤ j)) → grantRoom (n + 1) s = grantRoom n (fill i s))

/-- The completion of a fetch lowers the outstanding count; a stale result is discarded and counted; else its position is
PRESENT with the 512 bytes, or BAD with a check error counted; the flash is idle (R171, R174, R175, R181, R182). -/
def Obligations.FetchCompletionFillsTheRing : Prop :=
  ∀ (r : FetchRecord) (s : State), s.store.use = .fetch r →
    let st := s.stream.entries[r.stream]
    let fits := fun x : RingPos => x.state = .outstanding ∧ x.play = r.play ∧ x.flashBlock = r.flashBlock
    let blank := ∃ n, s.store.op.erasing = some n ∧ r.flashBlock / 16 = n
    let idle := { s with store := { s.store with use := .idle } }
    let ends := fun b : StreamBlock => exec .fetchCompletion s = .next { idle with stream := b }
    let put := fun ring => setAt s.stream.entries r.stream
      { st with outstanding := st.outstanding - 1, ring := ring }
    (st.alloc = false ∨ st.generation ≠ r.generation ∨ (∀ x ∈ st.ring, ¬fits x) →
      ends { s.stream with entries := put st.ring, discarded := bump s.stream.discarded }) ∧
    (st.alloc = true → st.generation = r.generation → ∀ before x after, st.ring = before ++ x :: after → fits x →
      (∀ y ∈ before, ¬fits y) → ∀ page : List Byte, page.length = 514 →
      (∀ k (h : k < page.length), (blank → page[k] = 0xFF) ∧
        (¬blank → page[k] = Memory.read flashEmpty s.store.flash (528 * r.flashBlock + k))) →
      (leVal (page.drop 512) = checkWord (page.take 512) →
        ends { s.stream with entries := put (before ++ { x with state := .present (page.take 512) } :: after) }) ∧
      (leVal (page.drop 512) ≠ checkWord (page.take 512) →
        ends { s.stream with
          entries := put (before ++ { x with state := .bad } :: after)
          stats := setAt s.stream.stats st.aud
            { s.stream.stats[st.aud] with checkErrors := bump s.stream.stats[st.aud].checkErrors } }))

/-- With no RESET waiting, the completion of a program or an erase writes its page or sector, latches its DONE, and leaves
no operation and an idle flash; a verify turn counts its page, and after the last latches VERIFY_DONE (R181, R191, R192,
R196, R197). -/
def Obligations.MaintenanceCompletes : Prop :=
  ∀ s : State, s.link.resetTag = none →
    let done := fun (flash : List Host.Cell) (link : LinkBlock) =>
      { s with store := { s.store with flash := flash, op := .none, use := .idle }, link := link }
    (∀ b data check, s.store.op = .program .inFlight b data check → data.length = 512 →
      ∃ flash, exec .programCompletion s = .next (done flash (s.link.latchProgramDone b)) ∧
        programmed s.store.flash flash b data check) ∧
    (∀ n, s.store.op = .erase .inFlight n →
      ∃ flash, exec .eraseCompletion s = .next (done flash (s.link.latchEraseDone n)) ∧ erased s.store.flash flash n) ∧
    ∀ clip first length read failed, s.store.op = .verify .inFlight clip first length read failed →
      let page := Memory.readRun flashEmpty s.store.flash (528 * (first + read)) 514
      let failed' := if leVal (page.drop 512) = checkWord (page.take 512) then failed else failed + 1
      (read + 1 < length → exec .verifyTurnCompletion s = .next { s with
        store := { s.store with op := .verify .waiting clip first length (read + 1) failed', use := .idle } }) ∧
      (length ≤ read + 1 →
        exec .verifyTurnCompletion s = .next (done s.store.flash (s.link.latchVerifyDone clip failed')))

/-! ### Laws that every step keeps -/

/-- Law of attention: a port's attention line is low exactly when at least one of its latched conditions is set. -/
def Obligations.EveryStepKeepsAttention : Prop :=
  ∀ s t : State, AttentionLaw s → step s = .next t → AttentionLaw t

/-- Law of the show clock, with every reel table within the show time range (R4). -/
def Obligations.EveryStepKeepsTheClocks : Prop :=
  ∀ s t : State, ClockLaw s → ReelLaw s → step s = .next t → ClockLaw t ∧ ReelLaw t

/-- Law of the cue store. -/
def Obligations.EveryStepKeepsTheCueStore : Prop :=
  ∀ s t : State, CueStoreLaw s → step s = .next t → CueStoreLaw t

/-- Laws of the title table and of the position cache; and while they hold, every BOUND record's tracks stay resolved
against its auditorium's title, and with the laws of regions and entries every valid cursor stays sound for its placed-at
and every valid way keeps the bucket index of its key, which is what a lookup rests on (R20, R46, R96, R100, R108,
R128). -/
def Obligations.EveryStepKeepsTheTitles : Prop :=
  ∀ s t : State, ShowLaw s → step s = .next t → ShowLaw t ∧ (ResolveLaw s → ResolveLaw t) ∧
    (CueStoreLaw s → LayoutLaw s → EntryLaw s → LocateLaw s → LocateLaw t)

/-- Laws of the receiver table and of the subscriber counts. -/
def Obligations.EveryStepKeepsTheReceivers : Prop :=
  ∀ s t : State, step s = .next t → (ReceiverLaw s → ReceiverLaw t) ∧ (CountLaw s → CountLaw t)

/-- Every ring holds at most 8 positions, the pool at most 32 records, and every setting stays in its range. And while the
laws of titles, regions, entries and counts hold: the subscribed description tracks stay exactly those with a stream or an
UNSERVED mark, and the play times of every ring rise strictly (R148, R163, R164, R165, R169). -/
def Obligations.EveryStepKeepsRingsAndSettings : Prop :=
  ∀ s t : State, step s = .next t → (StreamLaw s → StreamLaw t) ∧ (SettingsLaw s → SettingsLaw t) ∧
    (ShowLaw s → CueStoreLaw s → LayoutLaw s → EntryLaw s → CountLaw s → ResolveLaw s → ServeLaw s →
      ServeLaw t ∧ (RingLaw s → RingLaw t))

/-- Law of the clip store: the flash content of a block of a clip in use does not change; with the interlock, the clip
directory and the 512 bytes of a pending program it rests on, which every step keeps (R55, R183, R187, R188, R191; the
byte addresses are log 20). -/
def Obligations.EveryStepKeepsTheClipStore : Prop :=
  ∀ s t : State, InterlockLaw s → DirectoryLaw s → ProgramLaw s → step s = .next t →
    InterlockLaw t ∧ DirectoryLaw t ∧ ProgramLaw t ∧
    ∀ (c : ClipNo) (b k : Nat), s.store.inUse[c] ≠ 0 → inExtent s.store.directory[c] b → k < 528 →
      Memory.read flashEmpty t.store.flash (528 * b + k) = Memory.read flashEmpty s.store.flash (528 * b + k)

/-- Both byte stores keep their canonical form, every open load context agrees with its title, and every title keeps the
layout of R15; and while the layout and the law of the cue store hold, the entries of every title stay in order and the
anchors of a READY one stay the starts of their entries (R7, R11, R13). -/
def Obligations.EveryStepKeepsTheLoads : Prop :=
  ∀ s t : State, step s = .next t → (MemoryLaw s → MemoryLaw t) ∧ (LoadLaw s → LoadLaw t) ∧
    (LayoutLaw s → LayoutLaw t) ∧ (CueStoreLaw s → LayoutLaw s → EntryLaw s → EntryLaw t)

/-- What holds the flash agrees with the maintenance record; and while it does, an erase that no RESET waits for is not
left IN_FLIGHT with an urgent record in the pool (R173, R189, R193, R199). -/
def Obligations.EveryStepKeepsTheFlash : Prop :=
  ∀ s t : State, FlashLaw s → step s = .next t → FlashLaw t ∧ (SuspensionLaw s → SuspensionLaw t)

end Statements
end

