-- ==== Sys2Proof/Laws/Bytes.lean ====
section
/-! SUPPORT. Little-endian fields: their lengths, and reading back what was laid out. -/

namespace Sys2Proof.Machine

@[simp] theorem le_length (k n : Nat) : (le k n).length = k := by
  induction k generalizing n with
  | zero => rfl
  | succ k ih => simp [le, ih]

@[simp] theorem leVal_nil : leVal [] = 0 := rfl

@[simp] theorem leVal_cons (b : Byte) (bs : List Byte) : leVal (b :: bs) = b.toNat + 256 * leVal bs := rfl

/-- Reading `k` little-endian bytes of `n` gives `n` modulo 256^k. -/
@[simp] theorem leVal_le (k n : Nat) : leVal (le k n) = n % 256 ^ k := by
  induction k generalizing n with
  | zero => simp [le, Nat.mod_one]
  | succ k ih =>
    rw [le, leVal_cons, ih, Nat.pow_succ', Nat.mod_mul]
    simp [byte]

/-- The value of `k` bytes is below 256^k. -/
theorem leVal_lt (bs : List Byte) : leVal bs < 256 ^ bs.length := by
  induction bs with
  | nil => simp
  | cons b bs ih =>
    have := b.isLt
    rw [leVal_cons, List.length_cons, Nat.pow_succ']
    omega

@[simp] theorem field_zero_le (k n : Nat) (tail : List Byte) : field (le k n ++ tail) 0 k = n % 256 ^ k := by
  simp [field]

@[simp] theorem field_all (k n : Nat) : field (le k n) 0 k = n % 256 ^ k := by
  have := field_zero_le k n []
  simpa using this

/-- A field past the first byte of a body is a field of the rest. -/
@[simp] theorem field_cons_succ (b : Byte) (bs : List Byte) (i k : Nat) : field (b :: bs) (i + 1) k = field bs i k := by
  simp [field]

/-- A field past a prefix is a field of the rest. -/
theorem field_append (xs bs : List Byte) (i k : Nat) : field (xs ++ bs) (xs.length + i) k = field bs i k := by
  rw [field, field, List.drop_append, List.drop_eq_nil_of_le (by omega)]
  simp

@[simp] theorem at1_cons_zero (b : Byte) (bs : List Byte) : at1 (b :: bs) 0 = b.toNat := by
  simp [at1, field]

@[simp] theorem at1_cons_succ (b : Byte) (bs : List Byte) (i : Nat) : at1 (b :: bs) (i + 1) = at1 bs i := by
  simp [at1]

@[simp] theorem at1_nil (i : Nat) : at1 [] i = 0 := by simp [at1, field]

/-- A byte field is below 256. -/
theorem at1_lt (bs : List Byte) (i : Nat) : at1 bs i < 256 := by
  have h := leVal_lt ((bs.drop i).take 1)
  have hl : ((bs.drop i).take 1).length ≤ 1 := by simp
  have : (256 : Nat) ^ ((bs.drop i).take 1).length ≤ 256 ^ 1 := Nat.pow_le_pow_right (by decide) hl
  unfold at1 field
  omega

@[simp] theorem byte_toNat (n : Nat) : (byte n).toNat = n % 256 := by simp [byte]

@[simp] theorem audOf_val (a : Aud) : audOf a.val = some a := by simp [audOf]

/-- An auditorium's byte reads back as the auditorium. -/
@[simp] theorem audOf_byte (a : Aud) : audOf (a.val % 256) = some a := by
  have := a.isLt
  rw [Nat.mod_eq_of_lt (by omega), audOf_val]

theorem audOf_none {n : Nat} (h : 16 ≤ n) : audOf n = none := by simp [audOf]; omega

/-- A title's handle reads back as the title (R1). -/
@[simp] theorem titleOfHandle_handle (t : TitleNo) : titleOfHandle (handle t) = some t := by
  have := t.isLt
  simp [titleOfHandle, handle]

@[simp] theorem titleOfHandle_byte (t : TitleNo) : titleOfHandle ((t.val + 1) % 256) = some t := by
  have := t.isLt
  rw [Nat.mod_eq_of_lt (by omega)]
  exact titleOfHandle_handle t

theorem titleOfHandle_none {n : Nat} (h : n = 0 ∨ 24 < n) : titleOfHandle n = none := by
  rw [titleOfHandle, dif_neg (by omega)]

theorem handle_lt (t : TitleNo) : handle t < 25 := by have := t.isLt; simp only [handle]; omega

theorem handle_inj {t u : TitleNo} : handle t = handle u ↔ t = u := by simp [handle, Fin.ext_iff]

end Sys2Proof.Machine
end

