-- ==== Sys2Proof/Laws/Tables.lean ====
section
/-! SUPPORT. Reading a table after it is changed: one lemma for each way of changing a table. -/

namespace Sys2Proof

variable {α β : Type} {n : Nat}

/-- An entry of a table after one entry is replaced. -/
@[simp] theorem setAt_get (v : Vector α n) (i : Fin n) (x : α) (j : Nat) (h : j < n) :
    (setAt v i x)[j] = if i.val = j then x else v[j] := by
  simp [setAt, Vector.getElem_set]

/-- The entry that is replaced. -/
theorem setAt_self (v : Vector α n) (i : Fin n) (x : α) : (setAt v i x)[i] = x := by simp

/-- Any other entry keeps its value. -/
theorem setAt_other (v : Vector α n) {i j : Fin n} (x : α) (h : i ≠ j) : (setAt v i x)[j] = v[j] := by
  simp [Fin.val_ne_of_ne h]

/-- Replacing an entry by itself changes nothing. -/
@[simp] theorem setAt_same (v : Vector α n) (i : Fin n) : setAt v i v[i.val] = v := by
  simp [setAt]

/-- The later of two replacements of one entry stands. -/
@[simp] theorem setAt_twice (v : Vector α n) (i : Fin n) (x y : α) : setAt (setAt v i x) i y = setAt v i y := by
  simp [setAt]

/-- An entry of a table after one entry is changed. -/
@[simp] theorem modAt_get (v : Vector α n) (i : Fin n) (f : α → α) (j : Nat) (h : j < n) :
    (modAt v i f)[j] = if i.val = j then f v[j] else v[j] := by
  rw [modAt, setAt_get]
  split
  · rename_i e; subst e; rfl
  · rfl

/-- An entry of a table whose every entry is changed. -/
@[simp] theorem mapTable_get (f : α → β) (v : Vector α n) (j : Nat) (h : j < n) :
    (mapTable f v)[j] = f v[j] := by
  simp [mapTable]

end Sys2Proof
end

