-- ==== Sys2Proof/Laws/State.lean ====
section
/-! SUPPORT. What each named update of State leaves unchanged, one lemma per field and update, and the ports after an update of one. -/

namespace Sys2Proof.Machine

/-! `State.setPort` changes `link` alone. -/

@[simp] theorem State.setPort_titles (s : State) (p : Port) (x : PortLink) : (s.setPort p x).titles = s.titles := rfl
@[simp] theorem State.setPort_loader (s : State) (p : Port) (x : PortLink) : (s.setPort p x).loader = s.loader := rfl
@[simp] theorem State.setPort_shows (s : State) (p : Port) (x : PortLink) : (s.setPort p x).shows = s.shows := rfl
@[simp] theorem State.setPort_clock (s : State) (p : Port) (x : PortLink) : (s.setPort p x).clock = s.clock := rfl
@[simp] theorem State.setPort_cues (s : State) (p : Port) (x : PortLink) : (s.setPort p x).cues = s.cues := rfl
@[simp] theorem State.setPort_rcv (s : State) (p : Port) (x : PortLink) : (s.setPort p x).rcv = s.rcv := rfl
@[simp] theorem State.setPort_frame (s : State) (p : Port) (x : PortLink) : (s.setPort p x).frame = s.frame := rfl
@[simp] theorem State.setPort_stream (s : State) (p : Port) (x : PortLink) : (s.setPort p x).stream = s.stream := rfl
@[simp] theorem State.setPort_store (s : State) (p : Port) (x : PortLink) : (s.setPort p x).store = s.store := rfl
@[simp] theorem State.setPort_due (s : State) (p : Port) (x : PortLink) : (s.setPort p x).due = s.due := rfl
@[simp] theorem State.setPort_freeCount (s : State) (p : Port) (x : PortLink) : (s.setPort p x).freeCount = s.freeCount := rfl
@[simp] theorem State.setPort_pending (s : State) (p : Port) (x : PortLink) : (s.setPort p x).pending = s.pending := rfl

/-! `State.setRx` changes `link` alone. -/

@[simp] theorem State.setRx_titles (s : State) (p : Port) (x : Rx) : (s.setRx p x).titles = s.titles := rfl
@[simp] theorem State.setRx_loader (s : State) (p : Port) (x : Rx) : (s.setRx p x).loader = s.loader := rfl
@[simp] theorem State.setRx_shows (s : State) (p : Port) (x : Rx) : (s.setRx p x).shows = s.shows := rfl
@[simp] theorem State.setRx_clock (s : State) (p : Port) (x : Rx) : (s.setRx p x).clock = s.clock := rfl
@[simp] theorem State.setRx_cues (s : State) (p : Port) (x : Rx) : (s.setRx p x).cues = s.cues := rfl
@[simp] theorem State.setRx_rcv (s : State) (p : Port) (x : Rx) : (s.setRx p x).rcv = s.rcv := rfl
@[simp] theorem State.setRx_frame (s : State) (p : Port) (x : Rx) : (s.setRx p x).frame = s.frame := rfl
@[simp] theorem State.setRx_stream (s : State) (p : Port) (x : Rx) : (s.setRx p x).stream = s.stream := rfl
@[simp] theorem State.setRx_store (s : State) (p : Port) (x : Rx) : (s.setRx p x).store = s.store := rfl
@[simp] theorem State.setRx_due (s : State) (p : Port) (x : Rx) : (s.setRx p x).due = s.due := rfl
@[simp] theorem State.setRx_freeCount (s : State) (p : Port) (x : Rx) : (s.setRx p x).freeCount = s.freeCount := rfl
@[simp] theorem State.setRx_pending (s : State) (p : Port) (x : Rx) : (s.setRx p x).pending = s.pending := rfl

/-! `State.linkError` changes `link` alone. -/

@[simp] theorem State.linkError_titles (s : State) (p : Port) (x : Rx) : (s.linkError p x).titles = s.titles := rfl
@[simp] theorem State.linkError_loader (s : State) (p : Port) (x : Rx) : (s.linkError p x).loader = s.loader := rfl
@[simp] theorem State.linkError_shows (s : State) (p : Port) (x : Rx) : (s.linkError p x).shows = s.shows := rfl
@[simp] theorem State.linkError_clock (s : State) (p : Port) (x : Rx) : (s.linkError p x).clock = s.clock := rfl
@[simp] theorem State.linkError_cues (s : State) (p : Port) (x : Rx) : (s.linkError p x).cues = s.cues := rfl
@[simp] theorem State.linkError_rcv (s : State) (p : Port) (x : Rx) : (s.linkError p x).rcv = s.rcv := rfl
@[simp] theorem State.linkError_frame (s : State) (p : Port) (x : Rx) : (s.linkError p x).frame = s.frame := rfl
@[simp] theorem State.linkError_stream (s : State) (p : Port) (x : Rx) : (s.linkError p x).stream = s.stream := rfl
@[simp] theorem State.linkError_store (s : State) (p : Port) (x : Rx) : (s.linkError p x).store = s.store := rfl
@[simp] theorem State.linkError_due (s : State) (p : Port) (x : Rx) : (s.linkError p x).due = s.due := rfl
@[simp] theorem State.linkError_freeCount (s : State) (p : Port) (x : Rx) : (s.linkError p x).freeCount = s.freeCount := rfl
@[simp] theorem State.linkError_pending (s : State) (p : Port) (x : Rx) : (s.linkError p x).pending = s.pending := rfl

/-! `State.owedByte` changes `link` alone. -/

@[simp] theorem State.owedByte_titles (s : State) (p : Port) : (s.owedByte p).titles = s.titles := by unfold State.owedByte; split <;> rfl
@[simp] theorem State.owedByte_loader (s : State) (p : Port) : (s.owedByte p).loader = s.loader := by unfold State.owedByte; split <;> rfl
@[simp] theorem State.owedByte_shows (s : State) (p : Port) : (s.owedByte p).shows = s.shows := by unfold State.owedByte; split <;> rfl
@[simp] theorem State.owedByte_clock (s : State) (p : Port) : (s.owedByte p).clock = s.clock := by unfold State.owedByte; split <;> rfl
@[simp] theorem State.owedByte_cues (s : State) (p : Port) : (s.owedByte p).cues = s.cues := by unfold State.owedByte; split <;> rfl
@[simp] theorem State.owedByte_rcv (s : State) (p : Port) : (s.owedByte p).rcv = s.rcv := by unfold State.owedByte; split <;> rfl
@[simp] theorem State.owedByte_frame (s : State) (p : Port) : (s.owedByte p).frame = s.frame := by unfold State.owedByte; split <;> rfl
@[simp] theorem State.owedByte_stream (s : State) (p : Port) : (s.owedByte p).stream = s.stream := by unfold State.owedByte; split <;> rfl
@[simp] theorem State.owedByte_store (s : State) (p : Port) : (s.owedByte p).store = s.store := by unfold State.owedByte; split <;> rfl
@[simp] theorem State.owedByte_due (s : State) (p : Port) : (s.owedByte p).due = s.due := by unfold State.owedByte; split <;> rfl
@[simp] theorem State.owedByte_freeCount (s : State) (p : Port) : (s.owedByte p).freeCount = s.freeCount := by unfold State.owedByte; split <;> rfl
@[simp] theorem State.owedByte_pending (s : State) (p : Port) : (s.owedByte p).pending = s.pending := by unfold State.owedByte; split <;> rfl

/-! `State.owe` changes `link` alone. -/

@[simp] theorem State.owe_titles (s : State) (p : Port) (x : Response) : (s.owe p x).titles = s.titles := rfl
@[simp] theorem State.owe_loader (s : State) (p : Port) (x : Response) : (s.owe p x).loader = s.loader := rfl
@[simp] theorem State.owe_shows (s : State) (p : Port) (x : Response) : (s.owe p x).shows = s.shows := rfl
@[simp] theorem State.owe_clock (s : State) (p : Port) (x : Response) : (s.owe p x).clock = s.clock := rfl
@[simp] theorem State.owe_cues (s : State) (p : Port) (x : Response) : (s.owe p x).cues = s.cues := rfl
@[simp] theorem State.owe_rcv (s : State) (p : Port) (x : Response) : (s.owe p x).rcv = s.rcv := rfl
@[simp] theorem State.owe_frame (s : State) (p : Port) (x : Response) : (s.owe p x).frame = s.frame := rfl
@[simp] theorem State.owe_stream (s : State) (p : Port) (x : Response) : (s.owe p x).stream = s.stream := rfl
@[simp] theorem State.owe_store (s : State) (p : Port) (x : Response) : (s.owe p x).store = s.store := rfl
@[simp] theorem State.owe_due (s : State) (p : Port) (x : Response) : (s.owe p x).due = s.due := rfl
@[simp] theorem State.owe_freeCount (s : State) (p : Port) (x : Response) : (s.owe p x).freeCount = s.freeCount := rfl
@[simp] theorem State.owe_pending (s : State) (p : Port) (x : Response) : (s.owe p x).pending = s.pending := rfl

/-! `State.latchAud` changes `link` alone. -/

@[simp] theorem State.latchAud_titles (s : State) (c : FeedCond) (a : Aud) : (s.latchAud c a).titles = s.titles := by unfold State.latchAud; split <;> rfl
@[simp] theorem State.latchAud_loader (s : State) (c : FeedCond) (a : Aud) : (s.latchAud c a).loader = s.loader := by unfold State.latchAud; split <;> rfl
@[simp] theorem State.latchAud_shows (s : State) (c : FeedCond) (a : Aud) : (s.latchAud c a).shows = s.shows := by unfold State.latchAud; split <;> rfl
@[simp] theorem State.latchAud_clock (s : State) (c : FeedCond) (a : Aud) : (s.latchAud c a).clock = s.clock := by unfold State.latchAud; split <;> rfl
@[simp] theorem State.latchAud_cues (s : State) (c : FeedCond) (a : Aud) : (s.latchAud c a).cues = s.cues := by unfold State.latchAud; split <;> rfl
@[simp] theorem State.latchAud_rcv (s : State) (c : FeedCond) (a : Aud) : (s.latchAud c a).rcv = s.rcv := by unfold State.latchAud; split <;> rfl
@[simp] theorem State.latchAud_frame (s : State) (c : FeedCond) (a : Aud) : (s.latchAud c a).frame = s.frame := by unfold State.latchAud; split <;> rfl
@[simp] theorem State.latchAud_stream (s : State) (c : FeedCond) (a : Aud) : (s.latchAud c a).stream = s.stream := by unfold State.latchAud; split <;> rfl
@[simp] theorem State.latchAud_store (s : State) (c : FeedCond) (a : Aud) : (s.latchAud c a).store = s.store := by unfold State.latchAud; split <;> rfl
@[simp] theorem State.latchAud_due (s : State) (c : FeedCond) (a : Aud) : (s.latchAud c a).due = s.due := by unfold State.latchAud; split <;> rfl
@[simp] theorem State.latchAud_freeCount (s : State) (c : FeedCond) (a : Aud) : (s.latchAud c a).freeCount = s.freeCount := by unfold State.latchAud; split <;> rfl
@[simp] theorem State.latchAud_pending (s : State) (c : FeedCond) (a : Aud) : (s.latchAud c a).pending = s.pending := by unfold State.latchAud; split <;> rfl

/-! `State.setClock` changes `clock` alone. -/

@[simp] theorem State.setClock_link (s : State) (a : Aud) (c : AudClock) : (s.setClock a c).link = s.link := rfl
@[simp] theorem State.setClock_titles (s : State) (a : Aud) (c : AudClock) : (s.setClock a c).titles = s.titles := rfl
@[simp] theorem State.setClock_loader (s : State) (a : Aud) (c : AudClock) : (s.setClock a c).loader = s.loader := rfl
@[simp] theorem State.setClock_shows (s : State) (a : Aud) (c : AudClock) : (s.setClock a c).shows = s.shows := rfl
@[simp] theorem State.setClock_cues (s : State) (a : Aud) (c : AudClock) : (s.setClock a c).cues = s.cues := rfl
@[simp] theorem State.setClock_rcv (s : State) (a : Aud) (c : AudClock) : (s.setClock a c).rcv = s.rcv := rfl
@[simp] theorem State.setClock_frame (s : State) (a : Aud) (c : AudClock) : (s.setClock a c).frame = s.frame := rfl
@[simp] theorem State.setClock_stream (s : State) (a : Aud) (c : AudClock) : (s.setClock a c).stream = s.stream := rfl
@[simp] theorem State.setClock_store (s : State) (a : Aud) (c : AudClock) : (s.setClock a c).store = s.store := rfl
@[simp] theorem State.setClock_due (s : State) (a : Aud) (c : AudClock) : (s.setClock a c).due = s.due := rfl
@[simp] theorem State.setClock_freeCount (s : State) (a : Aud) (c : AudClock) : (s.setClock a c).freeCount = s.freeCount := rfl
@[simp] theorem State.setClock_pending (s : State) (a : Aud) (c : AudClock) : (s.setClock a c).pending = s.pending := rfl

/-! `State.setShow` changes `shows` alone. -/

@[simp] theorem State.setShow_link (s : State) (a : Aud) (c : Context) : (s.setShow a c).link = s.link := rfl
@[simp] theorem State.setShow_titles (s : State) (a : Aud) (c : Context) : (s.setShow a c).titles = s.titles := rfl
@[simp] theorem State.setShow_loader (s : State) (a : Aud) (c : Context) : (s.setShow a c).loader = s.loader := rfl
@[simp] theorem State.setShow_clock (s : State) (a : Aud) (c : Context) : (s.setShow a c).clock = s.clock := rfl
@[simp] theorem State.setShow_cues (s : State) (a : Aud) (c : Context) : (s.setShow a c).cues = s.cues := rfl
@[simp] theorem State.setShow_rcv (s : State) (a : Aud) (c : Context) : (s.setShow a c).rcv = s.rcv := rfl
@[simp] theorem State.setShow_frame (s : State) (a : Aud) (c : Context) : (s.setShow a c).frame = s.frame := rfl
@[simp] theorem State.setShow_stream (s : State) (a : Aud) (c : Context) : (s.setShow a c).stream = s.stream := rfl
@[simp] theorem State.setShow_store (s : State) (a : Aud) (c : Context) : (s.setShow a c).store = s.store := rfl
@[simp] theorem State.setShow_due (s : State) (a : Aud) (c : Context) : (s.setShow a c).due = s.due := rfl
@[simp] theorem State.setShow_freeCount (s : State) (a : Aud) (c : Context) : (s.setShow a c).freeCount = s.freeCount := rfl
@[simp] theorem State.setShow_pending (s : State) (a : Aud) (c : Context) : (s.setShow a c).pending = s.pending := rfl

/-! `State.setShowState` changes `shows` alone. -/

@[simp] theorem State.setShowState_link (s : State) (a : Aud) (x : ShowState) : (s.setShowState a x).link = s.link := rfl
@[simp] theorem State.setShowState_titles (s : State) (a : Aud) (x : ShowState) : (s.setShowState a x).titles = s.titles := rfl
@[simp] theorem State.setShowState_loader (s : State) (a : Aud) (x : ShowState) : (s.setShowState a x).loader = s.loader := rfl
@[simp] theorem State.setShowState_clock (s : State) (a : Aud) (x : ShowState) : (s.setShowState a x).clock = s.clock := rfl
@[simp] theorem State.setShowState_cues (s : State) (a : Aud) (x : ShowState) : (s.setShowState a x).cues = s.cues := rfl
@[simp] theorem State.setShowState_rcv (s : State) (a : Aud) (x : ShowState) : (s.setShowState a x).rcv = s.rcv := rfl
@[simp] theorem State.setShowState_frame (s : State) (a : Aud) (x : ShowState) : (s.setShowState a x).frame = s.frame := rfl
@[simp] theorem State.setShowState_stream (s : State) (a : Aud) (x : ShowState) : (s.setShowState a x).stream = s.stream := rfl
@[simp] theorem State.setShowState_store (s : State) (a : Aud) (x : ShowState) : (s.setShowState a x).store = s.store := rfl
@[simp] theorem State.setShowState_due (s : State) (a : Aud) (x : ShowState) : (s.setShowState a x).due = s.due := rfl
@[simp] theorem State.setShowState_freeCount (s : State) (a : Aud) (x : ShowState) : (s.setShowState a x).freeCount = s.freeCount := rfl
@[simp] theorem State.setShowState_pending (s : State) (a : Aud) (x : ShowState) : (s.setShowState a x).pending = s.pending := rfl

/-! `State.setTitle` changes `titles` alone. -/

@[simp] theorem State.setTitle_link (s : State) (t : TitleNo) (x : Title) : (s.setTitle t x).link = s.link := rfl
@[simp] theorem State.setTitle_loader (s : State) (t : TitleNo) (x : Title) : (s.setTitle t x).loader = s.loader := rfl
@[simp] theorem State.setTitle_shows (s : State) (t : TitleNo) (x : Title) : (s.setTitle t x).shows = s.shows := rfl
@[simp] theorem State.setTitle_clock (s : State) (t : TitleNo) (x : Title) : (s.setTitle t x).clock = s.clock := rfl
@[simp] theorem State.setTitle_cues (s : State) (t : TitleNo) (x : Title) : (s.setTitle t x).cues = s.cues := rfl
@[simp] theorem State.setTitle_rcv (s : State) (t : TitleNo) (x : Title) : (s.setTitle t x).rcv = s.rcv := rfl
@[simp] theorem State.setTitle_frame (s : State) (t : TitleNo) (x : Title) : (s.setTitle t x).frame = s.frame := rfl
@[simp] theorem State.setTitle_stream (s : State) (t : TitleNo) (x : Title) : (s.setTitle t x).stream = s.stream := rfl
@[simp] theorem State.setTitle_store (s : State) (t : TitleNo) (x : Title) : (s.setTitle t x).store = s.store := rfl
@[simp] theorem State.setTitle_due (s : State) (t : TitleNo) (x : Title) : (s.setTitle t x).due = s.due := rfl
@[simp] theorem State.setTitle_freeCount (s : State) (t : TitleNo) (x : Title) : (s.setTitle t x).freeCount = s.freeCount := rfl
@[simp] theorem State.setTitle_pending (s : State) (t : TitleNo) (x : Title) : (s.setTitle t x).pending = s.pending := rfl

/-! `State.closeLoad` changes `loader` alone. -/

@[simp] theorem State.closeLoad_link (s : State) (t : TitleNo) : (s.closeLoad t).link = s.link := by unfold State.closeLoad; split <;> rfl
@[simp] theorem State.closeLoad_titles (s : State) (t : TitleNo) : (s.closeLoad t).titles = s.titles := by unfold State.closeLoad; split <;> rfl
@[simp] theorem State.closeLoad_shows (s : State) (t : TitleNo) : (s.closeLoad t).shows = s.shows := by unfold State.closeLoad; split <;> rfl
@[simp] theorem State.closeLoad_clock (s : State) (t : TitleNo) : (s.closeLoad t).clock = s.clock := by unfold State.closeLoad; split <;> rfl
@[simp] theorem State.closeLoad_cues (s : State) (t : TitleNo) : (s.closeLoad t).cues = s.cues := by unfold State.closeLoad; split <;> rfl
@[simp] theorem State.closeLoad_rcv (s : State) (t : TitleNo) : (s.closeLoad t).rcv = s.rcv := by unfold State.closeLoad; split <;> rfl
@[simp] theorem State.closeLoad_frame (s : State) (t : TitleNo) : (s.closeLoad t).frame = s.frame := by unfold State.closeLoad; split <;> rfl
@[simp] theorem State.closeLoad_stream (s : State) (t : TitleNo) : (s.closeLoad t).stream = s.stream := by unfold State.closeLoad; split <;> rfl
@[simp] theorem State.closeLoad_store (s : State) (t : TitleNo) : (s.closeLoad t).store = s.store := by unfold State.closeLoad; split <;> rfl
@[simp] theorem State.closeLoad_due (s : State) (t : TitleNo) : (s.closeLoad t).due = s.due := by unfold State.closeLoad; split <;> rfl
@[simp] theorem State.closeLoad_freeCount (s : State) (t : TitleNo) : (s.closeLoad t).freeCount = s.freeCount := by unfold State.closeLoad; split <;> rfl
@[simp] theorem State.closeLoad_pending (s : State) (t : TitleNo) : (s.closeLoad t).pending = s.pending := by unfold State.closeLoad; split <;> rfl

/-! `State.freeTitle` changes `titles` and `loader` alone. -/

@[simp] theorem State.freeTitle_link (s : State) (t : TitleNo) : (s.freeTitle t).link = s.link := by simp [State.freeTitle]
@[simp] theorem State.freeTitle_shows (s : State) (t : TitleNo) : (s.freeTitle t).shows = s.shows := by simp [State.freeTitle]
@[simp] theorem State.freeTitle_clock (s : State) (t : TitleNo) : (s.freeTitle t).clock = s.clock := by simp [State.freeTitle]
@[simp] theorem State.freeTitle_cues (s : State) (t : TitleNo) : (s.freeTitle t).cues = s.cues := by simp [State.freeTitle]
@[simp] theorem State.freeTitle_rcv (s : State) (t : TitleNo) : (s.freeTitle t).rcv = s.rcv := by simp [State.freeTitle]
@[simp] theorem State.freeTitle_frame (s : State) (t : TitleNo) : (s.freeTitle t).frame = s.frame := by simp [State.freeTitle]
@[simp] theorem State.freeTitle_stream (s : State) (t : TitleNo) : (s.freeTitle t).stream = s.stream := by simp [State.freeTitle]
@[simp] theorem State.freeTitle_store (s : State) (t : TitleNo) : (s.freeTitle t).store = s.store := by simp [State.freeTitle]
@[simp] theorem State.freeTitle_due (s : State) (t : TitleNo) : (s.freeTitle t).due = s.due := by simp [State.freeTitle]
@[simp] theorem State.freeTitle_freeCount (s : State) (t : TitleNo) : (s.freeTitle t).freeCount = s.freeCount := by simp [State.freeTitle]
@[simp] theorem State.freeTitle_pending (s : State) (t : TitleNo) : (s.freeTitle t).pending = s.pending := by simp [State.freeTitle]

/-! `State.clearCursors` changes `cues` alone. -/

@[simp] theorem State.clearCursors_link (s : State) (a : Aud) : (s.clearCursors a).link = s.link := rfl
@[simp] theorem State.clearCursors_titles (s : State) (a : Aud) : (s.clearCursors a).titles = s.titles := rfl
@[simp] theorem State.clearCursors_loader (s : State) (a : Aud) : (s.clearCursors a).loader = s.loader := rfl
@[simp] theorem State.clearCursors_shows (s : State) (a : Aud) : (s.clearCursors a).shows = s.shows := rfl
@[simp] theorem State.clearCursors_clock (s : State) (a : Aud) : (s.clearCursors a).clock = s.clock := rfl
@[simp] theorem State.clearCursors_rcv (s : State) (a : Aud) : (s.clearCursors a).rcv = s.rcv := rfl
@[simp] theorem State.clearCursors_frame (s : State) (a : Aud) : (s.clearCursors a).frame = s.frame := rfl
@[simp] theorem State.clearCursors_stream (s : State) (a : Aud) : (s.clearCursors a).stream = s.stream := rfl
@[simp] theorem State.clearCursors_store (s : State) (a : Aud) : (s.clearCursors a).store = s.store := rfl
@[simp] theorem State.clearCursors_due (s : State) (a : Aud) : (s.clearCursors a).due = s.due := rfl
@[simp] theorem State.clearCursors_freeCount (s : State) (a : Aud) : (s.clearCursors a).freeCount = s.freeCount := rfl
@[simp] theorem State.clearCursors_pending (s : State) (a : Aud) : (s.clearCursors a).pending = s.pending := rfl

/-! `State.clearFrame` changes `frame` alone. -/

@[simp] theorem State.clearFrame_link (s : State) (a : Aud) : (s.clearFrame a).link = s.link := rfl
@[simp] theorem State.clearFrame_titles (s : State) (a : Aud) : (s.clearFrame a).titles = s.titles := rfl
@[simp] theorem State.clearFrame_loader (s : State) (a : Aud) : (s.clearFrame a).loader = s.loader := rfl
@[simp] theorem State.clearFrame_shows (s : State) (a : Aud) : (s.clearFrame a).shows = s.shows := rfl
@[simp] theorem State.clearFrame_clock (s : State) (a : Aud) : (s.clearFrame a).clock = s.clock := rfl
@[simp] theorem State.clearFrame_cues (s : State) (a : Aud) : (s.clearFrame a).cues = s.cues := rfl
@[simp] theorem State.clearFrame_rcv (s : State) (a : Aud) : (s.clearFrame a).rcv = s.rcv := rfl
@[simp] theorem State.clearFrame_stream (s : State) (a : Aud) : (s.clearFrame a).stream = s.stream := rfl
@[simp] theorem State.clearFrame_store (s : State) (a : Aud) : (s.clearFrame a).store = s.store := rfl
@[simp] theorem State.clearFrame_due (s : State) (a : Aud) : (s.clearFrame a).due = s.due := rfl
@[simp] theorem State.clearFrame_freeCount (s : State) (a : Aud) : (s.clearFrame a).freeCount = s.freeCount := rfl
@[simp] theorem State.clearFrame_pending (s : State) (a : Aud) : (s.clearFrame a).pending = s.pending := rfl

/-! `State.modFrame` changes `frame` alone. -/

@[simp] theorem State.modFrame_link (s : State) (a : Aud) (f : FrameAud → FrameAud) : (s.modFrame a f).link = s.link := rfl
@[simp] theorem State.modFrame_titles (s : State) (a : Aud) (f : FrameAud → FrameAud) : (s.modFrame a f).titles = s.titles := rfl
@[simp] theorem State.modFrame_loader (s : State) (a : Aud) (f : FrameAud → FrameAud) : (s.modFrame a f).loader = s.loader := rfl
@[simp] theorem State.modFrame_shows (s : State) (a : Aud) (f : FrameAud → FrameAud) : (s.modFrame a f).shows = s.shows := rfl
@[simp] theorem State.modFrame_clock (s : State) (a : Aud) (f : FrameAud → FrameAud) : (s.modFrame a f).clock = s.clock := rfl
@[simp] theorem State.modFrame_cues (s : State) (a : Aud) (f : FrameAud → FrameAud) : (s.modFrame a f).cues = s.cues := rfl
@[simp] theorem State.modFrame_rcv (s : State) (a : Aud) (f : FrameAud → FrameAud) : (s.modFrame a f).rcv = s.rcv := rfl
@[simp] theorem State.modFrame_stream (s : State) (a : Aud) (f : FrameAud → FrameAud) : (s.modFrame a f).stream = s.stream := rfl
@[simp] theorem State.modFrame_store (s : State) (a : Aud) (f : FrameAud → FrameAud) : (s.modFrame a f).store = s.store := rfl
@[simp] theorem State.modFrame_due (s : State) (a : Aud) (f : FrameAud → FrameAud) : (s.modFrame a f).due = s.due := rfl
@[simp] theorem State.modFrame_freeCount (s : State) (a : Aud) (f : FrameAud → FrameAud) : (s.modFrame a f).freeCount = s.freeCount := rfl
@[simp] theorem State.modFrame_pending (s : State) (a : Aud) (f : FrameAud → FrameAud) : (s.modFrame a f).pending = s.pending := rfl

/-! `State.flagStep` changes `frame` alone. -/

@[simp] theorem State.flagStep_link (s : State) (a : Aud) : (s.flagStep a).link = s.link := rfl
@[simp] theorem State.flagStep_titles (s : State) (a : Aud) : (s.flagStep a).titles = s.titles := rfl
@[simp] theorem State.flagStep_loader (s : State) (a : Aud) : (s.flagStep a).loader = s.loader := rfl
@[simp] theorem State.flagStep_shows (s : State) (a : Aud) : (s.flagStep a).shows = s.shows := rfl
@[simp] theorem State.flagStep_clock (s : State) (a : Aud) : (s.flagStep a).clock = s.clock := rfl
@[simp] theorem State.flagStep_cues (s : State) (a : Aud) : (s.flagStep a).cues = s.cues := rfl
@[simp] theorem State.flagStep_rcv (s : State) (a : Aud) : (s.flagStep a).rcv = s.rcv := rfl
@[simp] theorem State.flagStep_stream (s : State) (a : Aud) : (s.flagStep a).stream = s.stream := rfl
@[simp] theorem State.flagStep_store (s : State) (a : Aud) : (s.flagStep a).store = s.store := rfl
@[simp] theorem State.flagStep_due (s : State) (a : Aud) : (s.flagStep a).due = s.due := rfl
@[simp] theorem State.flagStep_freeCount (s : State) (a : Aud) : (s.flagStep a).freeCount = s.freeCount := rfl
@[simp] theorem State.flagStep_pending (s : State) (a : Aud) : (s.flagStep a).pending = s.pending := rfl

/-! `State.countDeferred` changes `frame` alone. -/

@[simp] theorem State.countDeferred_link (s : State) (p : Fin 2) : (s.countDeferred p).link = s.link := rfl
@[simp] theorem State.countDeferred_titles (s : State) (p : Fin 2) : (s.countDeferred p).titles = s.titles := rfl
@[simp] theorem State.countDeferred_loader (s : State) (p : Fin 2) : (s.countDeferred p).loader = s.loader := rfl
@[simp] theorem State.countDeferred_shows (s : State) (p : Fin 2) : (s.countDeferred p).shows = s.shows := rfl
@[simp] theorem State.countDeferred_clock (s : State) (p : Fin 2) : (s.countDeferred p).clock = s.clock := rfl
@[simp] theorem State.countDeferred_cues (s : State) (p : Fin 2) : (s.countDeferred p).cues = s.cues := rfl
@[simp] theorem State.countDeferred_rcv (s : State) (p : Fin 2) : (s.countDeferred p).rcv = s.rcv := rfl
@[simp] theorem State.countDeferred_stream (s : State) (p : Fin 2) : (s.countDeferred p).stream = s.stream := rfl
@[simp] theorem State.countDeferred_store (s : State) (p : Fin 2) : (s.countDeferred p).store = s.store := rfl
@[simp] theorem State.countDeferred_due (s : State) (p : Fin 2) : (s.countDeferred p).due = s.due := rfl
@[simp] theorem State.countDeferred_freeCount (s : State) (p : Fin 2) : (s.countDeferred p).freeCount = s.freeCount := rfl
@[simp] theorem State.countDeferred_pending (s : State) (p : Fin 2) : (s.countDeferred p).pending = s.pending := rfl

/-! `State.putRec` changes `rcv` alone. -/

@[simp] theorem State.putRec_link (s : State) (i : RecNo) (x : Receiver) : (s.putRec i x).link = s.link := rfl
@[simp] theorem State.putRec_titles (s : State) (i : RecNo) (x : Receiver) : (s.putRec i x).titles = s.titles := rfl
@[simp] theorem State.putRec_loader (s : State) (i : RecNo) (x : Receiver) : (s.putRec i x).loader = s.loader := rfl
@[simp] theorem State.putRec_shows (s : State) (i : RecNo) (x : Receiver) : (s.putRec i x).shows = s.shows := rfl
@[simp] theorem State.putRec_clock (s : State) (i : RecNo) (x : Receiver) : (s.putRec i x).clock = s.clock := rfl
@[simp] theorem State.putRec_cues (s : State) (i : RecNo) (x : Receiver) : (s.putRec i x).cues = s.cues := rfl
@[simp] theorem State.putRec_frame (s : State) (i : RecNo) (x : Receiver) : (s.putRec i x).frame = s.frame := rfl
@[simp] theorem State.putRec_stream (s : State) (i : RecNo) (x : Receiver) : (s.putRec i x).stream = s.stream := rfl
@[simp] theorem State.putRec_store (s : State) (i : RecNo) (x : Receiver) : (s.putRec i x).store = s.store := rfl
@[simp] theorem State.putRec_due (s : State) (i : RecNo) (x : Receiver) : (s.putRec i x).due = s.due := rfl
@[simp] theorem State.putRec_freeCount (s : State) (i : RecNo) (x : Receiver) : (s.putRec i x).freeCount = s.freeCount := rfl
@[simp] theorem State.putRec_pending (s : State) (i : RecNo) (x : Receiver) : (s.putRec i x).pending = s.pending := rfl

/-! `State.setClip` changes `store` alone. -/

@[simp] theorem State.setClip_link (s : State) (c : ClipNo) (x : ClipEntry) : (s.setClip c x).link = s.link := rfl
@[simp] theorem State.setClip_titles (s : State) (c : ClipNo) (x : ClipEntry) : (s.setClip c x).titles = s.titles := rfl
@[simp] theorem State.setClip_loader (s : State) (c : ClipNo) (x : ClipEntry) : (s.setClip c x).loader = s.loader := rfl
@[simp] theorem State.setClip_shows (s : State) (c : ClipNo) (x : ClipEntry) : (s.setClip c x).shows = s.shows := rfl
@[simp] theorem State.setClip_clock (s : State) (c : ClipNo) (x : ClipEntry) : (s.setClip c x).clock = s.clock := rfl
@[simp] theorem State.setClip_cues (s : State) (c : ClipNo) (x : ClipEntry) : (s.setClip c x).cues = s.cues := rfl
@[simp] theorem State.setClip_rcv (s : State) (c : ClipNo) (x : ClipEntry) : (s.setClip c x).rcv = s.rcv := rfl
@[simp] theorem State.setClip_frame (s : State) (c : ClipNo) (x : ClipEntry) : (s.setClip c x).frame = s.frame := rfl
@[simp] theorem State.setClip_stream (s : State) (c : ClipNo) (x : ClipEntry) : (s.setClip c x).stream = s.stream := rfl
@[simp] theorem State.setClip_due (s : State) (c : ClipNo) (x : ClipEntry) : (s.setClip c x).due = s.due := rfl
@[simp] theorem State.setClip_freeCount (s : State) (c : ClipNo) (x : ClipEntry) : (s.setClip c x).freeCount = s.freeCount := rfl
@[simp] theorem State.setClip_pending (s : State) (c : ClipNo) (x : ClipEntry) : (s.setClip c x).pending = s.pending := rfl

/-! `State.setOp` changes `store` alone. -/

@[simp] theorem State.setOp_link (s : State) (x : Maintenance) : (s.setOp x).link = s.link := rfl
@[simp] theorem State.setOp_titles (s : State) (x : Maintenance) : (s.setOp x).titles = s.titles := rfl
@[simp] theorem State.setOp_loader (s : State) (x : Maintenance) : (s.setOp x).loader = s.loader := rfl
@[simp] theorem State.setOp_shows (s : State) (x : Maintenance) : (s.setOp x).shows = s.shows := rfl
@[simp] theorem State.setOp_clock (s : State) (x : Maintenance) : (s.setOp x).clock = s.clock := rfl
@[simp] theorem State.setOp_cues (s : State) (x : Maintenance) : (s.setOp x).cues = s.cues := rfl
@[simp] theorem State.setOp_rcv (s : State) (x : Maintenance) : (s.setOp x).rcv = s.rcv := rfl
@[simp] theorem State.setOp_frame (s : State) (x : Maintenance) : (s.setOp x).frame = s.frame := rfl
@[simp] theorem State.setOp_stream (s : State) (x : Maintenance) : (s.setOp x).stream = s.stream := rfl
@[simp] theorem State.setOp_due (s : State) (x : Maintenance) : (s.setOp x).due = s.due := rfl
@[simp] theorem State.setOp_freeCount (s : State) (x : Maintenance) : (s.setOp x).freeCount = s.freeCount := rfl
@[simp] theorem State.setOp_pending (s : State) (x : Maintenance) : (s.setOp x).pending = s.pending := rfl

/-! `State.setUse` changes `store` alone. -/

@[simp] theorem State.setUse_link (s : State) (x : FlashUse) : (s.setUse x).link = s.link := rfl
@[simp] theorem State.setUse_titles (s : State) (x : FlashUse) : (s.setUse x).titles = s.titles := rfl
@[simp] theorem State.setUse_loader (s : State) (x : FlashUse) : (s.setUse x).loader = s.loader := rfl
@[simp] theorem State.setUse_shows (s : State) (x : FlashUse) : (s.setUse x).shows = s.shows := rfl
@[simp] theorem State.setUse_clock (s : State) (x : FlashUse) : (s.setUse x).clock = s.clock := rfl
@[simp] theorem State.setUse_cues (s : State) (x : FlashUse) : (s.setUse x).cues = s.cues := rfl
@[simp] theorem State.setUse_rcv (s : State) (x : FlashUse) : (s.setUse x).rcv = s.rcv := rfl
@[simp] theorem State.setUse_frame (s : State) (x : FlashUse) : (s.setUse x).frame = s.frame := rfl
@[simp] theorem State.setUse_stream (s : State) (x : FlashUse) : (s.setUse x).stream = s.stream := rfl
@[simp] theorem State.setUse_due (s : State) (x : FlashUse) : (s.setUse x).due = s.due := rfl
@[simp] theorem State.setUse_freeCount (s : State) (x : FlashUse) : (s.setUse x).freeCount = s.freeCount := rfl
@[simp] theorem State.setUse_pending (s : State) (x : FlashUse) : (s.setUse x).pending = s.pending := rfl

/-! `State.setLatch` changes `store` alone. -/

@[simp] theorem State.setLatch_link (s : State) (x : Bool) : (s.setLatch x).link = s.link := rfl
@[simp] theorem State.setLatch_titles (s : State) (x : Bool) : (s.setLatch x).titles = s.titles := rfl
@[simp] theorem State.setLatch_loader (s : State) (x : Bool) : (s.setLatch x).loader = s.loader := rfl
@[simp] theorem State.setLatch_shows (s : State) (x : Bool) : (s.setLatch x).shows = s.shows := rfl
@[simp] theorem State.setLatch_clock (s : State) (x : Bool) : (s.setLatch x).clock = s.clock := rfl
@[simp] theorem State.setLatch_cues (s : State) (x : Bool) : (s.setLatch x).cues = s.cues := rfl
@[simp] theorem State.setLatch_rcv (s : State) (x : Bool) : (s.setLatch x).rcv = s.rcv := rfl
@[simp] theorem State.setLatch_frame (s : State) (x : Bool) : (s.setLatch x).frame = s.frame := rfl
@[simp] theorem State.setLatch_stream (s : State) (x : Bool) : (s.setLatch x).stream = s.stream := rfl
@[simp] theorem State.setLatch_due (s : State) (x : Bool) : (s.setLatch x).due = s.due := rfl
@[simp] theorem State.setLatch_freeCount (s : State) (x : Bool) : (s.setLatch x).freeCount = s.freeCount := rfl
@[simp] theorem State.setLatch_pending (s : State) (x : Bool) : (s.setLatch x).pending = s.pending := rfl

/-! The ports. -/

theorem portIx_inj {p q : Port} : portIx p = portIx q ↔ p = q := by
  cases p <;> cases q <;> simp [portIx, Fin.ext_iff] <;> omega

/-- A port after the link state of one port is replaced. -/
@[simp] theorem State.setPort_port (s : State) (p q : Port) (x : PortLink) :
    (s.setPort p x).port q = if p = q then x else s.port q := by
  have h := @portIx_inj p q
  simp only [State.port, State.setPort, Fin.getElem_fin, setAt_get]
  by_cases e : p = q
  · simp [e]
  · have := mt h.1 e
    simp [e, Fin.ext_iff] at this ⊢
    omega

/-- Replacing a port's link state by itself changes nothing. -/
@[simp] theorem State.setPort_same (s : State) (p : Port) : s.setPort p (s.port p) = s := by
  simp [State.setPort, State.port]

/-- A port after the receiver of one port is replaced. -/
@[simp] theorem State.setRx_port (s : State) (p q : Port) (x : Rx) :
    (s.setRx p x).port q = if p = q then { s.port p with rx := x } else s.port q := by
  simp [State.setRx]

/-- A port after one port owes a response. -/
@[simp] theorem State.owe_port (s : State) (p q : Port) (x : Response) :
    (s.owe p x).port q = if p = q then { s.port p with rx := .owed (some x) false } else s.port q := by
  simp [State.owe]

/-- A port after a link error on one port. -/
@[simp] theorem State.linkError_port (s : State) (p q : Port) (x : Rx) :
    (s.linkError p x).port q =
      if p = q then { s.port p with rx := x, linkErrors := bump (s.port p).linkErrors } else s.port q := by
  simp [State.linkError]

/-! What `setRx`, `owe` and `linkError` leave of the Link Interface: all but the ports. -/

@[simp] theorem State.setPort_load (s : State) (p : Port) (x : PortLink) : (s.setPort p x).link.load = s.link.load := rfl
@[simp] theorem State.setPort_feed (s : State) (p : Port) (x : PortLink) : (s.setPort p x).link.feed = s.link.feed := rfl
@[simp] theorem State.setPort_air (s : State) (p : Port) (x : PortLink) : (s.setPort p x).link.air = s.link.air := rfl
@[simp] theorem State.setPort_mgmt (s : State) (p : Port) (x : PortLink) : (s.setPort p x).link.mgmt = s.link.mgmt := rfl
@[simp] theorem State.setPort_attention (s : State) (p : Port) (x : PortLink) :
    (s.setPort p x).link.attention = s.link.attention := rfl
@[simp] theorem State.setPort_resetTag (s : State) (p : Port) (x : PortLink) :
    (s.setPort p x).link.resetTag = s.link.resetTag := rfl

end Sys2Proof.Machine
end

