-- ==== Sys2Proof/Laws/Cue.lean ====
section
/-! SUPPORT. Cue location: what a walk finds, which way a key finds and a placement takes, and what a lookup returns on a sound track (R93 to R106). -/

namespace Sys2Proof.Machine

open Sys2Proof.Safety

/-- The first of a list over `Fin 4` that passes a test is the lowest that does. -/
theorem findWay_some {p : Fin 4 → Bool} {w : Fin 4} :
    allWays.find? p = some w ↔ p w = true ∧ ∀ v, v < w → p v = false := by
  have : ∀ b0 b1 b2 b3 : Bool, ∀ w : Fin 4, (allWays.find? fun v => #v[b0, b1, b2, b3][v]) = some w ↔
      #v[b0, b1, b2, b3][w] = true ∧ ∀ v, v < w → #v[b0, b1, b2, b3][v] = false := by decide
  have h := this (p 0) (p 1) (p 2) (p 3) w
  have e : (fun v : Fin 4 => #v[p 0, p 1, p 2, p 3][v]) = p := by
    funext v
    fin_cases v <;> rfl
  have e' : ∀ v : Fin 4, #v[p 0, p 1, p 2, p 3][v] = p v := fun v => congrFun e v
  rw [e] at h
  simpa only [e'] using h

/-- No way passes a test exactly when none of the four does. -/
theorem findWay_none {p : Fin 4 → Bool} : allWays.find? p = none ↔ ∀ w, p w = false := by
  rw [List.find?_eq_none]
  constructor
  · intro h w
    have := h w (by fin_cases w <;> decide)
    simpa using this
  · intro h w _
    simp [h w]

/-- A walk from `i` passes exactly the entries that have ended, and stops at the first that has not (R95, R101, R103). -/
theorem walk_spec (ends : Nat → Nat) (t fuel i : Nat) :
    i ≤ walk ends t fuel i ∧ walk ends t fuel i ≤ i + fuel ∧ (∀ j, i ≤ j → j < walk ends t fuel i → ends j ≤ t) ∧
      (walk ends t fuel i < i + fuel → t < ends (walk ends t fuel i)) := by
  induction fuel generalizing i with
  | zero =>
    simp only [walk]
    exact ⟨le_refl i, le_refl i, fun j h1 h2 => absurd h1 (by omega), fun h => absurd h (by omega)⟩
  | succ fuel ih =>
    simp only [walk]
    split
    · rename_i h
      obtain ⟨h1, h2, h3, h4⟩ := ih (i + 1)
      refine ⟨by omega, by omega, fun j hj hj' => ?_, fun h5 => h4 (by omega)⟩
      by_cases e : j = i
      · subst e; exact h
      · exact h3 j (by omega) hj'
    · rename_i h
      exact ⟨le_refl i, by omega, fun j h1 h2 => absurd h1 (by omega), fun _ => by omega⟩

/-- A walk from an index whose earlier entries have all ended finds the lowest that has not (R93, R96). -/
theorem walkTrack_lowest {m : List Host.Cell} {x : TitleTrack} {t i : Nat} (hi : i ≤ x.track.n)
    (h : ∀ j, j < i → entryEnd m x.title x.track j ≤ t) : isLowestAfter m x t (walkTrack m x t i) := by
  obtain ⟨h1, h2, h3, h4⟩ := walk_spec (entryEnd m x.title x.track) t (x.track.n - i) i
  unfold walkTrack
  refine ⟨by omega, fun j hj => ?_, fun h5 => h4 (by omega)⟩
  by_cases e : j < i
  · exact h j e
  · exact h3 j (by omega) hj

/-- The anchor search takes the greatest anchor at or before the time, or 0 (R101). -/
theorem anchorBefore_spec (anchor : Nat → Nat) (t m : Nat) :
    anchorBefore anchor t m = 0 ∨ (anchorBefore anchor t m < m ∧ anchor (anchorBefore anchor t m) ≤ t) := by
  induction m with
  | zero => exact Or.inl rfl
  | succ m ih =>
    simp only [anchorBefore]
    split
    · rename_i h
      exact Or.inr ⟨by omega, h⟩
    · rcases ih with h | ⟨h1, h2⟩
      · exact Or.inl h
      · exact Or.inr ⟨by omega, h2⟩

/-- On a sound track, the anchors give the bucket index (R98, R101). -/
theorem bucketIndex_lowest {m : List Host.Cell} {x : TitleTrack} (hs : TrackSound m x) (start : Nat) :
    isLowestAfter m x start (bucketIndex m x start) := by
  obtain ⟨h1, h2, h3⟩ := hs
  have hend : ∀ i, entryStart m x.title x.track i ≤ entryEnd m x.title x.track i := fun i => by
    simp [entryEnd]
  unfold bucketIndex
  dsimp only
  rcases anchorBefore_spec (anchorAt m x.title x.track) start x.track.anchorCount with h | ⟨h4, h5⟩
  · rw [h]
    exact walkTrack_lowest (Nat.zero_le _) (fun j hj => absurd hj (by omega))
  · generalize anchorBefore (anchorAt m x.title x.track) start x.track.anchorCount = k at h4 h5
    have hk : 32 * k < x.track.n := by
      rw [h2, ceilDiv] at h4
      omega
    rw [h3 k h4] at h5
    refine walkTrack_lowest (by simp only [Config.anchorSpan]; omega) fun j hj => ?_
    exact le_trans (h1 j (32 * k) hj hk) h5

/-- A relocation changes no cursor. -/
theorem relocate_cursors (m : List Host.Cell) (x : TitleTrack) (h t sair : Nat) (c : CueBlock) :
    (relocate m x h t sair c).2.cursors = c.cursors := by
  unfold relocate
  dsimp only
  split <;> rfl

/-- A relocation that hits: the way's index, the way touched, one hit (R100). -/
theorem relocate_hit {m : List Host.Cell} {x : TitleTrack} {h t sair : Nat} {c : CueBlock} {w : Fin 4}
    (hf : (c.sets[cacheSet h t (sair / Config.bucketTicks)]).find h t (sair / Config.bucketTicks) = some w) :
    relocate m x h t sair c =
      ((c.sets[cacheSet h t (sair / Config.bucketTicks)]).ways[w].index,
        { c with
          sets := setAt c.sets (cacheSet h t (sair / Config.bucketTicks))
            ((c.sets[cacheSet h t (sair / Config.bucketTicks)]).touch w)
          hits := bump c.hits }) := by
  unfold relocate
  dsimp only
  split
  · rename_i v hv
    rw [hf] at hv
    cases hv
    rfl
  · rename_i hv
    rw [hf] at hv
    cases hv

/-- A relocation that misses: the index found by the anchors, placed, one miss (R101, R102). -/
theorem relocate_miss {m : List Host.Cell} {x : TitleTrack} {h t sair : Nat} {c : CueBlock}
    (hf : (c.sets[cacheSet h t (sair / Config.bucketTicks)]).find h t (sair / Config.bucketTicks) = none) :
    relocate m x h t sair c =
      (bucketIndex m x (Config.bucketTicks * (sair / Config.bucketTicks)),
        { c with
          sets := setAt c.sets (cacheSet h t (sair / Config.bucketTicks))
            ((c.sets[cacheSet h t (sair / Config.bucketTicks)]).place h t (sair / Config.bucketTicks)
              (bucketIndex m x (Config.bucketTicks * (sair / Config.bucketTicks))))
          misses := bump c.misses }) := by
  unfold relocate
  dsimp only
  split
  · rename_i v hv
    rw [hf] at hv
    cases hv
  · rfl

/-- An access changes no way (R105). -/
theorem CacheSet.touch_ways (c : CacheSet) (w : Fin 4) : (c.touch w).ways = c.ways := by
  unfold CacheSet.touch
  split <;> rfl

/-- A placement takes one way and leaves the other three as they were (R102). -/
theorem CacheSet.place_ways (c : CacheSet) (h t b i : Nat) :
    (c.place h t b i).ways = setAt c.ways c.target ⟨true, h, t, b, i⟩ := by
  unfold CacheSet.place
  rw [CacheSet.touch_ways]

/-- What holds of every valid way, and of the way a miss places, holds of every valid way after a relocation (R100,
R102). -/
theorem relocate_ways {P : Way → Prop} {m : List Host.Cell} {x : TitleTrack} {h t sair : Nat} {c : CueBlock}
    (hold : ∀ (i : Fin 16) (w : Fin 4), c.sets[i].ways[w].valid = true → P c.sets[i].ways[w])
    (hnew : P ⟨true, h, t, sair / Config.bucketTicks,
      bucketIndex m x (Config.bucketTicks * (sair / Config.bucketTicks))⟩)
    (i : Fin 16) (w : Fin 4) (hv : (relocate m x h t sair c).2.sets[i].ways[w].valid = true) :
    P (relocate m x h t sair c).2.sets[i].ways[w] := by
  cases hf : (c.sets[cacheSet h t (sair / Config.bucketTicks)]).find h t (sair / Config.bucketTicks) with
  | some v =>
    rw [relocate_hit hf] at hv ⊢
    dsimp only at hv ⊢
    by_cases e : cacheSet h t (sair / Config.bucketTicks) = i
    · subst e
      rw [setAt_self, CacheSet.touch_ways] at hv ⊢
      exact hold _ w hv
    · rw [setAt_other _ _ e] at hv ⊢
      exact hold i w hv
  | none =>
    rw [relocate_miss hf] at hv ⊢
    dsimp only at hv ⊢
    by_cases e : cacheSet h t (sair / Config.bucketTicks) = i
    · subst e
      rw [setAt_self, CacheSet.place_ways] at hv ⊢
      by_cases e' : (c.sets[cacheSet h t (sair / Config.bucketTicks)]).target = w
      · rw [e', setAt_self]
        exact hnew
      · rw [setAt_other _ _ e'] at hv ⊢
        exact hold _ w hv
    · rw [setAt_other _ _ e] at hv ⊢
      exact hold i w hv

/-- A relocation from sound ways finds the bucket index (R98 to R101). -/
theorem relocate_lowest {m : List Host.Cell} {x : TitleTrack} (hs : TrackSound m x) (h t sair : Nat) (c : CueBlock)
    (hw : ∀ (i : Fin 16) (w : Fin 4), c.sets[i].ways[w].holds h t (sair / 2048) = true →
      isLowestAfter m x (2048 * (sair / 2048)) c.sets[i].ways[w].index) :
    isLowestAfter m x (2048 * (sair / 2048)) (relocate m x h t sair c).1 := by
  unfold relocate
  dsimp only
  split
  · rename_i w hf
    exact hw _ w (findWay_some.1 hf).1
  · exact bucketIndex_lowest hs _

/-- A lookup of a track the title has is a lookup on that track (R92). -/
theorem lookup_track {s : State} {a : Aud} {t : TrackNo} {h : TitleNo} {x : TitleTrack} (sair : Nat)
    (hh : s.shows[a].title = some h) (hx : trackOf s a t = some x) :
    lookup s a t sair = lookupTrack s.titles.cue x h a t sair s.cues := by
  simp only [lookup, hh, hx]

end Sys2Proof.Machine
end

