-- ==== Sys2Proof/Laws/Flags.lean ====
section
/-! SUPPORT. What each latch and each clearing of flags leaves of the Link Interface, and that each keeps the law of attention. -/

namespace Sys2Proof.Machine

/-- The law of attention on the Link Interface alone (R211). -/
def LinkBlock.attends (l : LinkBlock) : Prop := ∀ p : Port, l.attention[portIx p] = l.flagged p

theorem attentionLaw_iff (s : State) : Safety.AttentionLaw s ↔ s.link.attends := Iff.rfl

/-- A joined auditorium set gains that auditorium, and nothing else changes (R210). -/
theorem joinAud_mem (y : AudSet) (a b : Aud) : (joinAud y a).getLsbD b.val = (y.getLsbD b.val || decide (b = a)) := by
  unfold joinAud
  rw [BitVec.getLsbD_or, BitVec.getLsbD_ofNat, Nat.testBit_two_pow]
  by_cases h : b = a
  · subst h; simp
  · have hv : a.val ≠ b.val := fun e => h (Fin.ext e.symm)
    simp [h, hv]

/-- A joined auditorium set is not empty. -/
@[simp] theorem joinAud_ne_zero (y : AudSet) (a : Aud) : (joinAud y a != 0#16) = true := by
  rw [bne_iff_ne]
  intro h
  have hm := joinAud_mem y a a
  rw [h] at hm
  simp at hm

/-- A change of port `p`'s flags alone, followed by its line, keeps the law of attention. -/
theorem LinkBlock.attend_attends {l l' : LinkBlock} (p : Port) (h : l.attends) (ha : l'.attention = l.attention)
    (hf : ∀ q, q ≠ p → l'.flagged q = l.flagged q) : (l'.attend p).attends := by
  intro q
  have hq : (l'.attend p).flagged q = l'.flagged q := by cases q <;> rfl
  rw [hq]
  have hl : (l'.attend p).attention = setAt l.attention (portIx p) (l'.flagged p) := by rw [← ha]; rfl
  simp only [hl, Fin.getElem_fin, setAt_get]
  by_cases e : q = p
  · subst e; simp
  · have hne : (portIx p).val ≠ (portIx q).val := fun h' => e (portIx_inj.1 (Fin.ext h')).symm
    have := h q
    simp only [Fin.getElem_fin] at this
    simp only [if_neg hne, hf q e, this]

/-- The law of attention reads the flags and the lines alone. -/
theorem LinkBlock.attends_congr {l l' : LinkBlock} (h1 : l'.load = l.load) (h2 : l'.feed = l.feed)
    (h3 : l'.air = l.air) (h4 : l'.mgmt = l.mgmt) (h5 : l'.attention = l.attention) : l'.attends ↔ l.attends := by
  rcases l with ⟨ports, load, feed, air, mgmt, attention, tag⟩
  rcases l' with ⟨ports', load', feed', air', mgmt', attention', tag'⟩
  subst h1 h2 h3 h4 h5
  constructor <;> intro h p <;> have := h p <;> cases p <;> exact this

section Latches

variable (l : LinkBlock)

@[simp] theorem LinkBlock.attend_ports (p : Port) : (l.attend p).ports = l.ports := rfl
@[simp] theorem LinkBlock.attend_load (p : Port) : (l.attend p).load = l.load := rfl
@[simp] theorem LinkBlock.attend_feed (p : Port) : (l.attend p).feed = l.feed := rfl
@[simp] theorem LinkBlock.attend_air (p : Port) : (l.attend p).air = l.air := rfl
@[simp] theorem LinkBlock.attend_mgmt (p : Port) : (l.attend p).mgmt = l.mgmt := rfl
@[simp] theorem LinkBlock.attend_resetTag (p : Port) : (l.attend p).resetTag = l.resetTag := rfl
@[simp] theorem LinkBlock.latchFeed_ports (n : Fin 4) (c : FeedCond) (a : Aud) : (l.latchFeed n c a).ports = l.ports := rfl
@[simp] theorem LinkBlock.latchFeed_resetTag (n : Fin 4) (c : FeedCond) (a : Aud) :
    (l.latchFeed n c a).resetTag = l.resetTag := rfl
@[simp] theorem LinkBlock.latchTableFull_ports (n : Fin 2) (a : Aud) : (l.latchTableFull n a).ports = l.ports := rfl
@[simp] theorem LinkBlock.latchTableFull_resetTag (n : Fin 2) (a : Aud) :
    (l.latchTableFull n a).resetTag = l.resetTag := rfl
@[simp] theorem LinkBlock.latchExpired_ports (n : Fin 2) (a : Aud) : (l.latchExpired n a).ports = l.ports := rfl
@[simp] theorem LinkBlock.latchExpired_resetTag (n : Fin 2) (a : Aud) : (l.latchExpired n a).resetTag = l.resetTag := rfl
@[simp] theorem LinkBlock.latchLoadDone_ports (p : LoadPort) (t : TitleNo) : (l.latchLoadDone p t).ports = l.ports := rfl
@[simp] theorem LinkBlock.latchLoadDone_resetTag (p : LoadPort) (t : TitleNo) :
    (l.latchLoadDone p t).resetTag = l.resetTag := rfl
@[simp] theorem LinkBlock.latchLoadFailed_ports (p : LoadPort) (t : TitleNo) (r : FailReason) :
    (l.latchLoadFailed p t r).ports = l.ports := rfl
@[simp] theorem LinkBlock.latchLoadFailed_resetTag (p : LoadPort) (t : TitleNo) (r : FailReason) :
    (l.latchLoadFailed p t r).resetTag = l.resetTag := rfl
@[simp] theorem LinkBlock.latchProgramDone_ports (b : Nat) : (l.latchProgramDone b).ports = l.ports := rfl
@[simp] theorem LinkBlock.latchProgramDone_resetTag (b : Nat) : (l.latchProgramDone b).resetTag = l.resetTag := rfl
@[simp] theorem LinkBlock.latchEraseDone_ports (b : Nat) : (l.latchEraseDone b).ports = l.ports := rfl
@[simp] theorem LinkBlock.latchEraseDone_resetTag (b : Nat) : (l.latchEraseDone b).resetTag = l.resetTag := rfl
@[simp] theorem LinkBlock.latchVerifyDone_ports (c f : Nat) : (l.latchVerifyDone c f).ports = l.ports := rfl
@[simp] theorem LinkBlock.latchVerifyDone_resetTag (c f : Nat) : (l.latchVerifyDone c f).resetTag = l.resetTag := rfl
@[simp] theorem LinkBlock.latchStreamDenied_ports (a : Aud) : (l.latchStreamDenied a).ports = l.ports := rfl
@[simp] theorem LinkBlock.latchStreamDenied_resetTag (a : Aud) : (l.latchStreamDenied a).resetTag = l.resetTag := rfl
@[simp] theorem LinkBlock.clearFlags_ports (p : Port) : (l.clearFlags p).ports = l.ports := by cases p <;> rfl
@[simp] theorem LinkBlock.clearFlags_resetTag (p : Port) : (l.clearFlags p).resetTag = l.resetTag := by cases p <;> rfl

end Latches

section Attention

variable {l : LinkBlock} (h : l.attends)
include h

theorem LinkBlock.latchFeed_attends (n : Fin 4) (c : FeedCond) (a : Aud) : (l.latchFeed n c a).attends := by
  refine attend_attends (l := l) _ h rfl fun q hq => ?_
  cases q with
  | feed m =>
    have : n.val ≠ m.val := fun e => hq (by rw [Fin.ext e])
    simp [LinkBlock.flagged, this]
  | air m => rfl
  | m => rfl

theorem LinkBlock.latchTableFull_attends (n : Fin 2) (a : Aud) : (l.latchTableFull n a).attends := by
  refine attend_attends (l := l) _ h rfl fun q hq => ?_
  cases q with
  | air m =>
    have : n.val ≠ m.val := fun e => hq (by rw [Fin.ext e])
    simp [LinkBlock.flagged, this]
  | feed m => rfl
  | m => rfl

theorem LinkBlock.latchExpired_attends (n : Fin 2) (a : Aud) : (l.latchExpired n a).attends := by
  refine attend_attends (l := l) _ h rfl fun q hq => ?_
  cases q with
  | air m =>
    have : n.val ≠ m.val := fun e => hq (by rw [Fin.ext e])
    simp [LinkBlock.flagged, this]
  | feed m => rfl
  | m => rfl

omit h in
/-- A change of one loading port's load flags touches no other port's flags. -/
theorem LinkBlock.modLoad_flagged (p : LoadPort) (f : LoadFlags → LoadFlags) (q : Port) (hq : q ≠ portOfLoad p) :
    LinkBlock.flagged { l with load := modAt l.load p f } q = l.flagged q := by
  have hp := p.isLt
  cases q with
  | air m => rfl
  | feed m =>
    have : p.val ≠ m.val := by
      intro e
      apply hq
      simp [portOfLoad, e]
    simp [LinkBlock.flagged, this]
  | m =>
    have : p.val ≠ 4 := by
      intro e
      apply hq
      simp [portOfLoad, e]
    simp [LinkBlock.flagged, this]

theorem LinkBlock.latchLoadDone_attends (p : LoadPort) (t : TitleNo) : (l.latchLoadDone p t).attends :=
  attend_attends (l := l) _ h rfl fun q hq => modLoad_flagged p _ q hq

theorem LinkBlock.latchLoadFailed_attends (p : LoadPort) (t : TitleNo) (r : FailReason) :
    (l.latchLoadFailed p t r).attends :=
  attend_attends (l := l) _ h rfl fun q hq => modLoad_flagged p _ q hq

/-- A change of M's own flags touches no other port's flags. -/
theorem LinkBlock.modMgmt_attends (x : MgmtFlags) : (LinkBlock.attend { l with mgmt := x } .m).attends :=
  attend_attends (l := l) _ h rfl fun q hq => by cases q <;> first | rfl | exact absurd rfl hq

theorem LinkBlock.latchProgramDone_attends (b : Nat) : (l.latchProgramDone b).attends := modMgmt_attends h _
theorem LinkBlock.latchEraseDone_attends (b : Nat) : (l.latchEraseDone b).attends := modMgmt_attends h _
theorem LinkBlock.latchVerifyDone_attends (c f : Nat) : (l.latchVerifyDone c f).attends := modMgmt_attends h _
theorem LinkBlock.latchStreamDenied_attends (a : Aud) : (l.latchStreamDenied a).attends := modMgmt_attends h _

theorem LinkBlock.clearFlags_attends (p : Port) : (l.clearFlags p).attends := by
  cases p with
  | feed n =>
    refine attend_attends (l := l) _ h rfl fun q hq => ?_
    cases q with
    | feed m =>
      have : n.val ≠ m.val := fun e => hq (by rw [Fin.ext e])
      simp [LinkBlock.flagged, this]
    | air m => rfl
    | m =>
      have := n.isLt
      simp [LinkBlock.flagged, show n.val ≠ 4 by omega]
  | air n =>
    refine attend_attends (l := l) _ h rfl fun q hq => ?_
    cases q with
    | air m =>
      have : n.val ≠ m.val := fun e => hq (by rw [Fin.ext e])
      simp [LinkBlock.flagged, this]
    | feed m => rfl
    | m => rfl
  | m =>
    refine attend_attends (l := l) _ h rfl fun q hq => ?_
    cases q with
    | feed m =>
      have := m.isLt
      simp [LinkBlock.flagged, show 4 ≠ m.val by omega]
    | air m => rfl
    | m => exact absurd rfl hq

end Attention

end Sys2Proof.Machine
end

