-- ==== Sys2Proof/Laws/Streams.lean ====
section
/-! SUPPORT. What lookups, fills, grants and releases can change: the Cue Locator, the Stream Unit and STREAM_DENIED, nothing else; and the erase suspension test. -/

namespace Sys2Proof.Machine

/-! ### The frame of the stream operations -/

/-- `l'` is `l` after some STREAM_DENIED latches (R164). -/
def LinkBlock.DeniedFrom (l l' : LinkBlock) : Prop := ∃ as : List Aud, l' = as.foldl LinkBlock.latchStreamDenied l

theorem LinkBlock.DeniedFrom.rfl' {l : LinkBlock} : l.DeniedFrom l := ⟨[], rfl⟩

theorem LinkBlock.DeniedFrom.trans' {l l' l'' : LinkBlock} (h : l.DeniedFrom l') (h' : l'.DeniedFrom l'') :
    l.DeniedFrom l'' := by
  obtain ⟨as, rfl⟩ := h
  obtain ⟨bs, rfl⟩ := h'
  exact ⟨as ++ bs, by rw [List.foldl_append]⟩

/-- STREAM_DENIED latches change no port, no other flag and no deferred RESET, and keep the law of attention. -/
theorem LinkBlock.DeniedFrom.keeps {l l' : LinkBlock} (h : l.DeniedFrom l') :
    l'.ports = l.ports ∧ l'.resetTag = l.resetTag ∧ l'.load = l.load ∧ l'.feed = l.feed ∧ l'.air = l.air ∧
      l'.mgmt.programDone = l.mgmt.programDone ∧ l'.mgmt.eraseDone = l.mgmt.eraseDone ∧
      l'.mgmt.verifyDone = l.mgmt.verifyDone ∧ (l.attends → l'.attends) := by
  obtain ⟨as, rfl⟩ := h
  induction as generalizing l with
  | nil => simp
  | cons a as ih =>
    obtain ⟨h1, h2, h3, h4, h5, h6, h7, h8, h9⟩ := @ih (l.latchStreamDenied a)
    exact ⟨h1, h2, h3, h4, h5, h6, h7, h8, fun h => h9 (LinkBlock.latchStreamDenied_attends h a)⟩

/-- `t` differs from `s` at most in the Cue Locator, the Stream Unit and STREAM_DENIED. -/
structure StreamFrame (s t : State) : Prop where
  link : s.link.DeniedFrom t.link
  titles : t.titles = s.titles
  loader : t.loader = s.loader
  shows : t.shows = s.shows
  clock : t.clock = s.clock
  rcv : t.rcv = s.rcv
  frame : t.frame = s.frame
  store : t.store = s.store
  due : t.due = s.due
  freeCount : t.freeCount = s.freeCount
  pending : t.pending = s.pending

theorem StreamFrame.rfl' {s : State} : StreamFrame s s :=
  ⟨.rfl', rfl, rfl, rfl, rfl, rfl, rfl, rfl, rfl, rfl, rfl⟩

theorem StreamFrame.trans' {s t u : State} (h : StreamFrame s t) (h' : StreamFrame t u) : StreamFrame s u :=
  ⟨h.link.trans' h'.link, h'.titles.trans h.titles, h'.loader.trans h.loader, h'.shows.trans h.shows,
    h'.clock.trans h.clock, h'.rcv.trans h.rcv, h'.frame.trans h.frame, h'.store.trans h.store, h'.due.trans h.due,
    h'.freeCount.trans h.freeCount, h'.pending.trans h.pending⟩

/-- A change of the Cue Locator and the Stream Unit alone. -/
theorem StreamFrame.of_cues_stream (s : State) (c : CueBlock) (b : StreamBlock) :
    StreamFrame s { s with cues := c, stream := b } :=
  ⟨.rfl', rfl, rfl, rfl, rfl, rfl, rfl, rfl, rfl, rfl, rfl⟩

theorem StreamFrame.of_stream (s : State) (b : StreamBlock) : StreamFrame s { s with stream := b } :=
  .of_cues_stream s s.cues b

/-- A fold of operations each of which has the frame has the frame. -/
theorem StreamFrame.foldl {α : Type} (f : State → α → State) (h : ∀ s x, StreamFrame s (f s x)) (l : List α) (s : State) :
    StreamFrame s (l.foldl f s) := by
  induction l generalizing s with
  | nil => exact .rfl'
  | cons x l ih => exact (h s x).trans' (ih (f s x))

/-- A fill changes the Stream Unit alone (R169). -/
theorem fill_eq (i : StreamNo) (s : State) : ∃ b, fill i s = { s with stream := b } := by
  unfold fill
  dsimp only
  repeat' split
  all_goals exact ⟨_, rfl⟩

theorem fill_frame (i : StreamNo) (s : State) : StreamFrame s (fill i s) := by
  obtain ⟨b, h⟩ := fill_eq i s
  rw [h]
  exact .of_stream s b

/-- A fill start changes the Cue Locator and the Stream Unit alone (R166). -/
theorem startFill_frame (i : StreamNo) (s : State) : StreamFrame s (startFill i s) := by
  unfold startFill
  dsimp only
  split
  · exact .rfl'
  · exact (StreamFrame.of_cues_stream s _ _).trans' (fill_frame i _)

theorem refill_frame (i : StreamNo) (s : State) : StreamFrame s (refill i s) :=
  (StreamFrame.of_stream s _).trans' (startFill_frame i _)

theorem refillTrack_frame (a : Aud) (s : State) (t : TrackNo) : StreamFrame s (refillTrack a s t) := by
  unfold refillTrack
  split
  · exact refill_frame _ _
  · exact .rfl'

/-- A flush with refill of an auditorium's streams has the frame (R176). -/
theorem refillAud_frame (a : Aud) (s : State) : StreamFrame s (refillAud a s) :=
  .foldl _ (refillTrack_frame a) _ _

theorem allocateStream_frame (i : StreamNo) (a : Aud) (t : TrackNo) (s : State) : StreamFrame s (allocateStream i a t s) :=
  (StreamFrame.of_stream s _).trans' (startFill_frame i _)

theorem requestStream_frame (s : State) (p : Aud × TrackNo) : StreamFrame s (requestStream s p) := by
  unfold requestStream
  split
  · exact allocateStream_frame _ _ _ _
  · exact ⟨⟨[p.1], rfl⟩, rfl, rfl, rfl, rfl, rfl, rfl, rfl, rfl, rfl, rfl⟩

theorem handOnEntry_frame (i : StreamNo) (s : State) : StreamFrame s (handOnEntry i s) := by
  unfold handOnEntry
  split
  · exact (StreamFrame.of_stream s _).trans' (allocateStream_frame _ _ _ _)
  · exact .rfl'

theorem releaseStream_frame (s : State) (p : Aud × TrackNo) : StreamFrame s (releaseStream s p) := by
  unfold releaseStream
  split
  · exact .of_stream s _
  · split
    · exact (StreamFrame.of_stream s _).trans' (handOnEntry_frame _ _)
    · exact .rfl'

/-- The edges of an event, handed on, have the frame (R131). -/
theorem handEdges_frame (before : Vector (Vector Nat 8) 16) (s : State) : StreamFrame s (handEdges before s) :=
  (StreamFrame.foldl _ releaseStream_frame _ s).trans' (.foldl _ requestStream_frame _ _)

/-- The grant of room has the frame (R170). -/
theorem grantRoom_frame (n : Nat) (s : State) : StreamFrame s (grantRoom n s) := by
  induction n generalizing s with
  | zero => exact .rfl'
  | succ n ih =>
    unfold grantRoom
    split
    · exact .rfl'
    · split
      · exact (fill_frame _ _).trans' (ih _)
      · exact .rfl'

/-- What reads neither the Cue Locator, the Stream Unit nor the Link Interface is kept. -/
theorem StreamFrame.title {s t : State} (h : StreamFrame s t) (n : TitleNo) : t.title n = s.title n := by
  simp [State.title, h.titles]

/-! ### The suspension test (R193) -/

/-- The suspension test changes the Clip Storage Controller alone. -/
theorem suspendTest_eq (s : State) : ∃ b, suspendTest s = { s with store := b } := by
  unfold suspendTest
  split
  · split <;> exact ⟨_, rfl⟩
  · exact ⟨_, rfl⟩

section

variable (s : State)

@[simp] theorem suspendTest_link : (suspendTest s).link = s.link := by obtain ⟨b, h⟩ := suspendTest_eq s; rw [h]
@[simp] theorem suspendTest_titles : (suspendTest s).titles = s.titles := by obtain ⟨b, h⟩ := suspendTest_eq s; rw [h]
@[simp] theorem suspendTest_loader : (suspendTest s).loader = s.loader := by obtain ⟨b, h⟩ := suspendTest_eq s; rw [h]
@[simp] theorem suspendTest_shows : (suspendTest s).shows = s.shows := by obtain ⟨b, h⟩ := suspendTest_eq s; rw [h]
@[simp] theorem suspendTest_clock : (suspendTest s).clock = s.clock := by obtain ⟨b, h⟩ := suspendTest_eq s; rw [h]
@[simp] theorem suspendTest_cues : (suspendTest s).cues = s.cues := by obtain ⟨b, h⟩ := suspendTest_eq s; rw [h]
@[simp] theorem suspendTest_rcv : (suspendTest s).rcv = s.rcv := by obtain ⟨b, h⟩ := suspendTest_eq s; rw [h]
@[simp] theorem suspendTest_frame : (suspendTest s).frame = s.frame := by obtain ⟨b, h⟩ := suspendTest_eq s; rw [h]
@[simp] theorem suspendTest_stream : (suspendTest s).stream = s.stream := by obtain ⟨b, h⟩ := suspendTest_eq s; rw [h]
@[simp] theorem suspendTest_due : (suspendTest s).due = s.due := by obtain ⟨b, h⟩ := suspendTest_eq s; rw [h]
@[simp] theorem suspendTest_freeCount : (suspendTest s).freeCount = s.freeCount := by
  obtain ⟨b, h⟩ := suspendTest_eq s; rw [h]
@[simp] theorem suspendTest_pending : (suspendTest s).pending = s.pending := by
  obtain ⟨b, h⟩ := suspendTest_eq s; rw [h]

/-- Of the Clip Storage Controller it changes the operation, the flash's use and the suspension statistic. -/
theorem suspendTest_store : (suspendTest s).store =
    { s.store with
      op := (suspendTest s).store.op
      use := (suspendTest s).store.use
      suspensions := (suspendTest s).store.suspensions } := by
  unfold suspendTest
  split
  · split <;> rfl
  · rfl

@[simp] theorem suspendTest_flash : (suspendTest s).store.flash = s.store.flash := by rw [suspendTest_store]
@[simp] theorem suspendTest_directory : (suspendTest s).store.directory = s.store.directory := by rw [suspendTest_store]
@[simp] theorem suspendTest_inUse : (suspendTest s).store.inUse = s.store.inUse := by rw [suspendTest_store]
@[simp] theorem suspendTest_floor : (suspendTest s).store.floor = s.store.floor := by rw [suspendTest_store]
@[simp] theorem suspendTest_latch : (suspendTest s).store.latch = s.store.latch := by rw [suspendTest_store]
@[simp] theorem suspendTest_margin : (suspendTest s).store.margin = s.store.margin := by rw [suspendTest_store]

/-- The target sector of the pending operation is as before. -/
@[simp] theorem suspendTest_target : (suspendTest s).store.op.targetSector = s.store.op.targetSector := by
  unfold suspendTest
  split
  · rename_i sector h
    split
    · simp [h, Maintenance.targetSector]
    · rfl
  · rfl

/-- An IN_FLIGHT erase is suspended when a pooled record is urgent and no RESET waits (R193, R199). -/
theorem suspendTest_suspends {s : State} {sector : Nat} (h : s.store.op = .erase .inFlight sector) (hu : urgent s = true)
    (hr : s.link.resetTag = none) : suspendTest s =
      { s with store := { s.store with
          op := .erase .suspended sector
          use := .idle
          suspensions := bump s.store.suspensions } } := by
  simp [suspendTest, h, hu, hr]

/-- Else the test changes nothing. -/
theorem suspendTest_none {s : State}
    (h : (∀ sector, s.store.op ≠ .erase .inFlight sector) ∨ urgent s = false ∨ s.link.resetTag ≠ none) :
    suspendTest s = s := by
  unfold suspendTest
  split
  · rename_i sector h1
    rw [if_neg]
    intro h2
    simp only [Bool.and_eq_true, Option.isNone_iff_eq_none] at h2
    rcases h with h | h | h
    · exact h sector h1
    · simp [h] at h2
    · exact h h2.2
  · rfl

end

end Sys2Proof.Machine
end

