-- ==== Sys2Proof/Laws/Fill.lean ====
section
/-! SUPPORT. What a fill does to the Stream Unit: it lengthens one ring and the pool within their limits, counts on one auditorium, and changes nothing else (R163, R169, R171); and the order in which it takes the blocks of a track (R167). -/

namespace Sys2Proof.Machine

/-- `c` is the Stream Unit `b` after some filling of stream `i`. -/
structure FillFrame (i : StreamNo) (b c : StreamBlock) : Prop where
  others : ∀ j, j ≠ i → c.entries[j] = b.entries[j]
  alloc : c.entries[i].alloc = b.entries[i].alloc
  aud : c.entries[i].aud = b.entries[i].aud
  track : c.entries[i].track = b.entries[i].track
  generation : c.entries[i].generation = b.entries[i].generation
  outstanding : b.entries[i].outstanding ≤ c.entries[i].outstanding
  ring : b.entries[i].ring <+: c.entries[i].ring
  ringSize : b.entries[i].ring.length ≤ Config.ringSize → c.entries[i].ring.length ≤ Config.ringSize
  pool : b.pool <+: c.pool
  poolSize : b.pool.length ≤ Config.poolSize → c.pool.length ≤ Config.poolSize
  unserved : c.unserved = b.unserved
  discarded : c.discarded = b.discarded
  denials : c.denials = b.denials
  stats : ∀ a, a ≠ b.entries[i].aud → c.stats[a] = b.stats[a]
  underruns : ∀ a : Aud, c.stats[a].underruns = b.stats[a].underruns
  checkErrors : ∀ a : Aud, c.stats[a].checkErrors = b.stats[a].checkErrors

theorem FillFrame.rfl' {i : StreamNo} {b : StreamBlock} : FillFrame i b b :=
  ⟨fun _ _ => rfl, rfl, rfl, rfl, rfl, Nat.le_refl _, List.prefix_refl _, id, List.prefix_refl _, id, rfl, rfl, rfl,
    fun _ _ => rfl, fun _ => rfl, fun _ => rfl⟩

theorem FillFrame.trans' {i : StreamNo} {b c d : StreamBlock} (h : FillFrame i b c) (h' : FillFrame i c d) :
    FillFrame i b d :=
  ⟨fun j hj => (h'.others j hj).trans (h.others j hj), h'.alloc.trans h.alloc, h'.aud.trans h.aud,
    h'.track.trans h.track, h'.generation.trans h.generation, h.outstanding.trans h'.outstanding,
    h.ring.trans h'.ring, fun x => h'.ringSize (h.ringSize x), h.pool.trans h'.pool, fun x => h'.poolSize (h.poolSize x),
    h'.unserved.trans h.unserved, h'.discarded.trans h.discarded, h'.denials.trans h.denials,
    fun a ha => (h'.stats a (by rw [h.aud]; exact ha)).trans (h.stats a ha),
    fun a => (h'.underruns a).trans (h.underruns a), fun a => (h'.checkErrors a).trans (h.checkErrors a)⟩

/-- A change of an entry's next fetch position is within the frame. -/
theorem FillFrame.setNext (i : StreamNo) (b : StreamBlock) (next : Option (Nat × Nat)) : FillFrame i b (b.setNext i next) := by
  refine ⟨fun j hj => setAt_other _ _ hj.symm, ?_, ?_, ?_, ?_, ?_, ?_, ?_, List.prefix_refl _, id, rfl, rfl, rfl,
    fun _ _ => rfl, fun _ => rfl, fun _ => rfl⟩ <;> simp [StreamBlock.setNext, StreamBlock.setEntry]

/-- Counting late or silent blocks on the stream's auditorium is within the frame. -/
theorem FillFrame.count (i : StreamNo) (b : StreamBlock) (f : StreamStats → StreamStats)
    (hu : ∀ x, (f x).underruns = x.underruns) (hc : ∀ x, (f x).checkErrors = x.checkErrors) :
    FillFrame i b (b.count b.entries[i].aud f) := by
  refine ⟨fun _ _ => rfl, rfl, rfl, rfl, rfl, Nat.le_refl _, List.prefix_refl _, id, List.prefix_refl _, id, rfl, rfl,
    rfl, fun a ha => setAt_other _ _ ha.symm, fun a => ?_, fun a => ?_⟩
  · by_cases h : b.entries[i].aud = a
    · subst h; simp only [StreamBlock.count, modAt]; rw [setAt_self, hu]
    · simp only [StreamBlock.count, modAt]; rw [setAt_other _ _ h]
  · by_cases h : b.entries[i].aud = a
    · subst h; simp only [StreamBlock.count, modAt]; rw [setAt_self, hc]
    · simp only [StreamBlock.count, modAt]; rw [setAt_other _ _ h]

/-- A position entering a ring that has room is within the frame. -/
theorem FillFrame.push {i : StreamNo} {b : StreamBlock} (p : RingPos) (h : b.entries[i].ring.length < Config.ringSize) :
    FillFrame i b (b.push i p) := by
  have h' : b.entries[i].ring.length + 1 ≤ Config.ringSize := h
  refine ⟨fun j hj => setAt_other _ _ hj.symm, ?_, ?_, ?_, ?_, ?_, ?_, fun _ => ?_, List.prefix_refl _, id, rfl, rfl, rfl,
    fun _ _ => rfl, fun _ => rfl, fun _ => rfl⟩ <;>
  simp only [StreamBlock.push, StreamBlock.setEntry, setAt_self, Nat.le_refl, List.prefix_append, List.length_append,
    List.length_singleton]
  exact h'

/-- A SILENT position entering a ring that has room, counted, is within the frame. -/
theorem FillFrame.pushSilent {i : StreamNo} {b : StreamBlock} (p : RingPos)
    (h : b.entries[i].ring.length < Config.ringSize) :
    FillFrame i b ((b.push i p).count b.entries[i].aud fun c => { c with silent := bump c.silent }) := by
  have hp := FillFrame.push p h
  have hc := FillFrame.count i (b.push i p) (fun c => { c with silent := bump c.silent }) (fun _ => rfl) (fun _ => rfl)
  rw [hp.aud] at hc
  exact hp.trans' hc

/-- A fetch record placed where ring and pool have room is within the frame. -/
theorem FillFrame.placeFetch {i : StreamNo} {b : StreamBlock} (p : RingPos)
    (h : b.entries[i].ring.length < Config.ringSize) (hp : b.pool.length < Config.poolSize) :
    FillFrame i b (b.placeFetch i p) := by
  have h' : b.entries[i].ring.length + 1 ≤ Config.ringSize := h
  have hp' : b.pool.length + 1 ≤ Config.poolSize := hp
  refine ⟨fun j hj => setAt_other _ _ hj.symm, ?_, ?_, ?_, ?_, ?_, ?_, fun _ => ?_, List.prefix_append _ _, fun _ => ?_, rfl,
    rfl, rfl, fun _ _ => rfl, fun _ => rfl, fun _ => rfl⟩ <;>
  simp only [StreamBlock.placeFetch, setAt_self, Nat.le_add_right, List.prefix_append, List.length_append,
    List.length_singleton]
  · exact h'
  · exact hp'

/-- A fill over any list of blocks stays within the frame of its stream (R169). -/
theorem fillBlocks_frame (s : State) (i : StreamNo) (x : TitleTrack) (l : List (Nat × Nat)) (b : StreamBlock) :
    FillFrame i b (fillBlocks s i x l b) := by
  induction l generalizing b with
  | nil => exact FillFrame.setNext i b none
  | cons ek rest ih =>
    obtain ⟨e, k⟩ := ek
    unfold fillBlocks
    dsimp only
    by_cases h1 : Config.ringSize ≤ b.entries[i].ring.length
    · rw [if_pos h1]; exact FillFrame.setNext i b _
    · rw [if_neg h1]
      have hr : b.entries[i].ring.length < Config.ringSize := Nat.lt_of_not_le h1
      split
      · exact FillFrame.trans' (FillFrame.count i b (fun c => { c with late := bump c.late }) (fun _ => rfl) (fun _ => rfl)) (ih _)
      · split
        · exact (FillFrame.pushSilent _ hr).trans' (ih _)
        · split
          · rename_i hp
            exact (FillFrame.placeFetch _ hr hp).trans' (ih _)
          · exact FillFrame.setNext i b _

/-- A fill changes the Stream Unit alone, within the frame of its stream (R169). -/
theorem fill_spec (i : StreamNo) (s : State) :
    ∃ b, fill i s = { s with stream := b } ∧ FillFrame i s.stream b := by
  unfold fill
  dsimp only
  split
  · exact ⟨s.stream, rfl, FillFrame.rfl'⟩
  · split
    · exact ⟨s.stream, rfl, FillFrame.rfl'⟩
    · split
      · exact ⟨_, rfl, fillBlocks_frame _ _ _ _ _⟩
      · exact ⟨s.stream, rfl, FillFrame.rfl'⟩

/-! ### The blocks a fill takes, in order (R167) -/

section

variable {s : State} {x : TitleTrack}

/-- A block that its entry supplies comes first, then the blocks after it. -/
theorem blocksFrom_cons {e k : Nat} (h : k < (descAt s x e).first + supplyAt s x e) :
    blocksFrom s x e k = (e, k) :: blocksFrom s x e (k + 1) := by
  unfold blocksFrom
  dsimp only
  rw [show (descAt s x e).first + supplyAt s x e - k = ((descAt s x e).first + supplyAt s x e - (k + 1)) + 1 by omega,
    List.range'_succ, List.map_cons, List.cons_append]

/-- Past an entry's supply only the entries after it have blocks left. -/
theorem blocksFrom_past {e k : Nat} (h : (descAt s x e).first + supplyAt s x e ≤ k) :
    blocksFrom s x e k = (List.range' (e + 1) (x.track.n - (e + 1))).flatMap fun j =>
      (List.range' (descAt s x j).first (supplyAt s x j)).map fun b => (j, b) := by
  unfold blocksFrom
  dsimp only
  rw [show (descAt s x e).first + supplyAt s x e - k = 0 by omega]
  rfl

/-- Where no later entry supplies a block, none is left. -/
theorem blocksFrom_ended {e k : Nat} (h : (descAt s x e).first + supplyAt s x e ≤ k)
    (hz : ∀ j, e < j → j < x.track.n → supplyAt s x j = 0) : blocksFrom s x e k = [] := by
  rw [blocksFrom_past h, List.flatMap_eq_nil_iff]
  intro j hj
  rw [List.mem_range'_1] at hj
  rw [hz j (by omega) (by omega)]
  rfl

/-- Where `j` is the next entry that supplies a block, the blocks from its first one on are left. -/
theorem blocksFrom_later {e k j : Nat} (h : (descAt s x e).first + supplyAt s x e ≤ k) (h1 : e < j) (h2 : j < x.track.n)
    (hz : ∀ l, e < l → l < j → supplyAt s x l = 0) : blocksFrom s x e k = blocksFrom s x j (descAt s x j).first := by
  have hsplit : List.range' (e + 1) (x.track.n - (e + 1)) =
      List.range' (e + 1) (j - (e + 1)) ++ j :: List.range' (j + 1) (x.track.n - (j + 1)) := by
    rw [show x.track.n - (e + 1) = (j - (e + 1)) + (1 + (x.track.n - (j + 1))) by omega, ← List.range'_append_1,
      ← List.range'_append_1, show e + 1 + (j - (e + 1)) = j by omega]
    simp [List.range'_succ]
  have hnil : ((List.range' (e + 1) (j - (e + 1))).flatMap fun j =>
      (List.range' (descAt s x j).first (supplyAt s x j)).map fun b => (j, b)) = [] := by
    rw [List.flatMap_eq_nil_iff]
    intro l hl
    rw [List.mem_range'_1] at hl
    rw [hz l (by omega) (by omega)]
    rfl
  rw [blocksFrom_past h, hsplit, List.flatMap_append, hnil, List.nil_append, List.flatMap_cons]
  unfold blocksFrom
  dsimp only
  rw [show (descAt s x j).first + supplyAt s x j - (descAt s x j).first = supplyAt s x j by omega]

end

/-- What a fill gives does not depend on the next fetch position that the entry held. -/
theorem fillBlocks_setNext (s : State) (i : StreamNo) (x : TitleTrack) (l : List (Nat × Nat)) (b : StreamBlock)
    (n : Option (Nat × Nat)) : fillBlocks s i x l (b.setNext i n) = fillBlocks s i x l b := by
  induction l generalizing b n with
  | nil => simp [fillBlocks, StreamBlock.setNext, StreamBlock.setEntry]
  | cons ek l ih =>
    have hring : (b.setNext i n).entries[i].ring = b.entries[i].ring := by simp [StreamBlock.setNext, StreamBlock.setEntry]
    have haud : (b.setNext i n).entries[i].aud = b.entries[i].aud := by simp [StreamBlock.setNext, StreamBlock.setEntry]
    have hpool : (b.setNext i n).pool = b.pool := rfl
    have hnext : ∀ m, (b.setNext i n).setNext i m = b.setNext i m := by
      intro m; simp [StreamBlock.setNext, StreamBlock.setEntry]
    have hcount : ∀ (c : StreamBlock) a f, (c.setNext i n).count a f = (c.count a f).setNext i n := fun _ _ _ => rfl
    have hpush : ∀ p, (b.setNext i n).push i p = (b.push i p).setNext i n := by
      intro p; simp [StreamBlock.push, StreamBlock.setNext, StreamBlock.setEntry]
    have hplace : ∀ p, (b.setNext i n).placeFetch i p = (b.placeFetch i p).setNext i n := by
      intro p; simp [StreamBlock.placeFetch, StreamBlock.setNext, StreamBlock.setEntry]
    unfold fillBlocks
    simp only [hring, haud, hpool, hnext, hcount, hpush, hplace, ih]

/-- A fill reads the Stream Unit it is given, and of the state the clocks, titles, clips, lead and shows alone. -/
theorem fillBlocks_congr {s u : State} (hc : u.clock = s.clock) (ht : u.titles = s.titles) (hs : u.store = s.store)
    (hf : u.frame = s.frame) (hsh : u.shows = s.shows) (i : StreamNo) (x : TitleTrack) (l : List (Nat × Nat))
    (b : StreamBlock) : fillBlocks u i x l b = fillBlocks s i x l b := by
  have hclip : clipEntry u = clipEntry s := by funext c; unfold clipEntry; rw [hs]
  have hdesc : descAt u = descAt s := by funext a b; unfold descAt; rw [ht]
  have hair : airing u = airing s := by funext a; unfold airing lead; rw [hc, hf, hsh]
  induction l generalizing b with
  | nil => rfl
  | cons ek l ih =>
    unfold fillBlocks
    simp only [ih, hclip, hdesc, hair]

end Sys2Proof.Machine
end

