-- ==== Sys2Proof/Laws/Frames.lean ====
section
/-! SUPPORT. The budget of a payload: an offer places a section only where it fits, and every step of the composition keeps bytes placed and bytes left together (R146, R147); section sizes (R145). -/

namespace Sys2Proof.Machine

/-- The bytes of the sections placed so far. -/
def Compose.used (c : Compose) : Nat := (c.sections.map Section.size).sum

/-- `d` comes from `c` by placing sections within the room there was. -/
def Compose.Within (c d : Compose) : Prop := d.used + d.room = c.used + c.room ∧ c.sections <+: d.sections

theorem Compose.Within.rfl' {c : Compose} : c.Within c := ⟨rfl, List.prefix_refl _⟩

theorem Compose.Within.trans' {c d e : Compose} (h : c.Within d) (h' : d.Within e) : c.Within e :=
  ⟨h'.1.trans h.1, h.2.trans h'.2⟩

/-- A change of the state alone. -/
theorem Compose.within_state (c : Compose) (s : State) : c.Within { c with state := s } := ⟨rfl, List.prefix_refl _⟩

/-- An offer keeps the budget (R146). -/
theorem offer_within (k : PullContext) (x : Section) (placed : State → State) (c : Compose) :
    c.Within (offer k x placed c).1 := by
  unfold offer
  by_cases h : x.size ≤ c.room
  · rw [if_pos h]
    refine ⟨?_, List.prefix_append _ _⟩
    simp [Compose.used]
    omega
  · rw [if_neg h]
    exact c.within_state _

/-- An offer that fits is placed, with its effect (R146). -/
theorem offer_placed {k : PullContext} {x : Section} {placed : State → State} {c : Compose} (h : x.size ≤ c.room) :
    offer k x placed c = (⟨c.room - x.size, c.sections ++ [x], placed c.state⟩, true) := if_pos h

/-- An offer that does not fit is skipped and counted (R146). -/
theorem offer_skipped {k : PullContext} {x : Section} {placed : State → State} {c : Compose} (h : c.room < x.size) :
    offer k x placed c = ({ c with state := c.state.countDeferred k.port }, false) := if_neg (by omega)

/-- A fold of steps that keep the budget keeps it. -/
theorem foldl_within {α : Type} (f : Compose → α → Compose) (h : ∀ (c : Compose) (x : α), c.Within (f c x)) (l : List α) (c : Compose) :
    c.Within (l.foldl f c) := by
  induction l generalizing c with
  | nil => exact Compose.Within.rfl'
  | cons x l ih => exact (h c x).trans' (ih (f c x))

/-- The same for steps that gather something beside the payload. -/
theorem foldl_fst_within {α β : Type} (f : Compose × β → α → Compose × β) (h : ∀ (c : Compose × β) (x : α), c.1.Within (f c x).1)
    (l : List α) (c : Compose × β) : c.1.Within (l.foldl f c).1 := by
  induction l generalizing c with
  | nil => exact Compose.Within.rfl'
  | cons x l ih => exact (h c x).trans' (ih (f c x))

theorem offerDue_within (k : PullContext) (t : TrackNo) (i : StreamNo) (c : Compose) :
    c.Within (offerDue k t i c).1 := by
  unfold offerDue
  split
  · exact Compose.Within.rfl'
  · split
    · exact offer_within _ _ _ _
    · exact Compose.Within.rfl'

theorem offerFirst_within (k : PullContext) (c : Compose × List TrackNo) (t : TrackNo) :
    c.1.Within (offerFirst k c t).1 := by
  unfold offerFirst
  split
  · exact offerDue_within _ _ _ _
  · split
    · exact offer_within _ _ _ _
    · exact Compose.Within.rfl'

theorem offerSecond_within (k : PullContext) (c : Compose) (t : TrackNo) : c.Within (offerSecond k c t) := by
  unfold offerSecond
  split
  · exact offerDue_within _ _ _ _
  · exact Compose.Within.rfl'

/-- The audio of a payload keeps the budget (R148). -/
theorem composeAudio_within (k : PullContext) (tracks : List TrackNo) (c : Compose) :
    c.Within (composeAudio k tracks c) := by
  unfold composeAudio
  exact ((c.within_state _).trans' (foldl_fst_within _ (offerFirst_within k) tracks (_, []))).trans'
    (foldl_within _ (offerSecond_within k) _ _)

theorem offerChanged_within (k : PullContext) (c : Compose × List CaptionLook) (t : TrackNo) :
    c.1.Within (offerChanged k c t).1 := by
  unfold offerChanged
  dsimp only
  split
  · exact Compose.Within.rfl'
  · dsimp only
    split
    · exact (c.1.within_state _).trans' (offer_within _ _ _ _)
    · exact c.1.within_state _

theorem offerRepeat_within (k : PullContext) (c : Compose) (l : CaptionLook) : c.Within (offerRepeat k c l) := by
  unfold offerRepeat
  split
  · exact Compose.Within.rfl'
  · exact offer_within _ _ _ _

/-- The captions of a payload keep the budget (R154, R156). -/
theorem composeCaptions_within (k : PullContext) (tracks : List TrackNo) (c : Compose) :
    c.Within (composeCaptions k tracks c) := by
  unfold composeCaptions
  exact (foldl_fst_within _ (offerChanged_within k) tracks (c, [])).trans' (foldl_within _ (offerRepeat_within k) _ _)

/-- The sections of a payload keep the budget, in every context state (R144, R146). -/
theorem composeSections_within (k : PullContext) (x : ShowState) (audio captions : List TrackNo) (c : Compose) :
    c.Within (composeSections k x audio captions c) := by
  cases x
  · exact Compose.Within.rfl'
  · exact Compose.Within.rfl'
  · exact (composeAudio_within k audio c).trans' (composeCaptions_within k captions _)
  · exact composeCaptions_within k captions c
  · exact (composeAudio_within k audio c).trans' (composeCaptions_within k captions _)
  · exact foldl_within _ (fun c t => offer_within _ _ _ c) captions c

/-- The bytes of a list of sections are as many as their sizes say. -/
theorem sections_length (l : List Section) : (l.flatMap Section.bytes).length = (l.map Section.size).sum := by
  rw [List.length_flatMap]
  rfl

end Sys2Proof.Machine
end

