-- ==== Sys2Proof/Laws/Memory.lean ====
section
/-! SUPPORT. The byte stores: reading after a write or a clear, and the canonical form. -/

namespace Sys2Proof.Machine.Memory

@[simp] theorem readRun_length (d : Byte) (m : List Host.Cell) (a n : Nat) : (readRun d m a n).length = n := by
  induction n generalizing a with
  | zero => rfl
  | succ n ih => simp [readRun, ih]

/-- A byte of a run. -/
theorem readRun_get (d : Byte) (m : List Host.Cell) (a n i : Nat) (h : i < (readRun d m a n).length) :
    (readRun d m a n)[i] = read d m (a + i) := by
  induction n generalizing a i with
  | zero => simp [readRun] at h
  | succ n ih =>
    cases i with
    | zero => simp [readRun]
    | succ i =>
      simp only [readRun, List.getElem_cons_succ]
      rw [ih]
      congr 1
      omega

/-- Two stores that read alike over a run have the same run. -/
theorem readRun_congr {d : Byte} {m m' : List Host.Cell} (a n : Nat)
    (h : ∀ b, a ≤ b → b < a + n → read d m b = read d m' b) : readRun d m a n = readRun d m' a n := by
  induction n generalizing a with
  | zero => rfl
  | succ n ih =>
    simp only [readRun]
    rw [h a (by omega) (by omega), ih (a + 1) (fun b h1 h2 => h b (by omega) (by omega))]

theorem lookup_other {a b : Nat} (h : a ≠ b) (x : Byte) (m : List Host.Cell) :
    List.lookup a ((b, x) :: m) = m.lookup a := by
  have e : (a == b) = false := beq_false_of_ne h
  simp [List.lookup_cons, e]

theorem lookup_append (m m' : List Host.Cell) (a : Nat) : (m ++ m').lookup a = (m.lookup a).or (m'.lookup a) := by
  induction m with
  | nil => simp
  | cons c m ih =>
    rcases c with ⟨b, x⟩
    by_cases h : a = b
    · subst h; simp
    · simp [lookup_other h, ih]

theorem lookup_filter (m : List Host.Cell) (p : Nat → Bool) (a : Nat) :
    (m.filter fun c => p c.1).lookup a = if p a then m.lookup a else none := by
  induction m with
  | nil => simp
  | cons c m ih =>
    rcases c with ⟨b, x⟩
    by_cases h : a = b
    · subst h
      by_cases hp : p a <;> simp [hp, ih]
    · by_cases hp : p b <;> simp [hp, lookup_other h, ih]

theorem lookup_cells (d : Byte) (a : Nat) (bs : List Byte) (b : Nat) :
    ((cells d a bs).lookup b).getD d = if h : a ≤ b ∧ b < a + bs.length then bs[b - a] else d := by
  induction bs generalizing a with
  | nil => simp [cells]
  | cons x bs ih =>
    have hne : (cells d (a + 1) bs).lookup a = none := by
      have : ∀ (a' : Nat) (ys : List Byte), a < a' → (cells d a' ys).lookup a = none := by
        intro a' ys
        induction ys generalizing a' with
        | nil => simp [cells]
        | cons y ys ih2 =>
          intro hlt
          simp only [cells]
          split
          · exact ih2 (a' + 1) (by omega)
          · rw [lookup_other (by omega), ih2 (a' + 1) (by omega)]
      exact this _ _ (by omega)
    simp only [cells]
    by_cases e : b = a
    · subst e
      split
      · simp_all
      · simp
    · have hb : (if x = d then cells d (a + 1) bs else (a, x) :: cells d (a + 1) bs).lookup b =
          (cells d (a + 1) bs).lookup b := by
        split
        · rfl
        · rw [lookup_other e]
      rw [hb, ih]
      by_cases h : a ≤ b ∧ b < a + (bs.length + 1)
      · rw [dif_pos (by omega), dif_pos (by simpa using h)]
        obtain ⟨k, rfl⟩ : ∃ k, b = a + 1 + k := ⟨b - (a + 1), by omega⟩
        have h1 : a + 1 + k - (a + 1) = k := by omega
        have h2 : a + 1 + k - a = k + 1 := by omega
        simp [h1, h2]
      · rw [dif_neg (by omega), dif_neg (by simpa using h)]

/-- A byte after a write: the byte written, or the byte before. -/
theorem read_write (d : Byte) (m : List Host.Cell) (a : Nat) (bs : List Byte) (b : Nat) :
    read d (write d m a bs) b = if h : a ≤ b ∧ b < a + bs.length then bs[b - a] else read d m b := by
  have hc := lookup_cells d a bs b
  have h1 := lookup_filter m (fun x => decide (x < a)) b
  have h2 := lookup_filter m (fun x => decide (a + bs.length ≤ x)) b
  simp only [read, write, lookup_append, h1, h2]
  by_cases h : a ≤ b ∧ b < a + bs.length
  · rw [dif_pos h] at hc ⊢
    simp [show ¬ b < a by omega, show ¬ a + bs.length ≤ b by omega, hc]
  · rw [dif_neg h] at hc ⊢
    have hn : (cells d a bs).lookup b = none := by
      have : ∀ (a' : Nat) (ys : List Byte), ¬(a' ≤ b ∧ b < a' + ys.length) → (cells d a' ys).lookup b = none := by
        intro a' ys
        induction ys generalizing a' with
        | nil => simp [cells]
        | cons y ys ih =>
          intro hh
          simp only [List.length_cons] at hh
          simp only [cells]
          split
          · exact ih (a' + 1) (by omega)
          · rw [lookup_other (by omega), ih (a' + 1) (by omega)]
      exact this a bs h
    by_cases h3 : b < a
    · simp [h3, hn, show ¬ a + bs.length ≤ b by omega]
    · simp [h3, hn, show a + bs.length ≤ b by omega]

/-- A byte outside a write is as before. -/
theorem read_write_outside {d : Byte} {m : List Host.Cell} {a : Nat} {bs : List Byte} {b : Nat}
    (h : b < a ∨ a + bs.length ≤ b) : read d (write d m a bs) b = read d m b := by
  rw [read_write, dif_neg (by omega)]

/-- A byte inside a write is the byte written. -/
theorem read_write_inside {d : Byte} {m : List Host.Cell} {a : Nat} {bs : List Byte} (i : Nat) (h : i < bs.length) :
    read d (write d m a bs) (a + i) = bs[i] := by
  rw [read_write, dif_pos (by omega)]
  simp

/-- A run after it was written. -/
theorem readRun_write (d : Byte) (m : List Host.Cell) (a : Nat) (bs : List Byte) :
    readRun d (write d m a bs) a bs.length = bs := by
  apply List.ext_getElem (by simp)
  intro i h1 h2
  rw [readRun_get, read_write_inside i h2]

/-- A byte after a clear: what an unlisted byte reads as, or the byte before. -/
theorem read_clear (d : Byte) (m : List Host.Cell) (a n b : Nat) :
    read d (clear m a n) b = if a ≤ b ∧ b < a + n then d else read d m b := by
  have h := lookup_filter m (fun x => decide (x < a) || decide (a + n ≤ x)) b
  simp only [read, clear, h]
  by_cases h1 : a ≤ b ∧ b < a + n
  · simp [h1, show ¬ b < a by omega, show ¬ a + n ≤ b by omega]
  · have h2 : b < a ∨ a + n ≤ b := by omega
    rw [if_neg h1, if_pos (by simpa using h2)]

theorem mem_cells {d : Byte} {a : Nat} {bs : List Byte} {c : Host.Cell} (h : c ∈ cells d a bs) :
    (a ≤ c.1 ∧ c.1 < a + bs.length) ∧ c.2 ≠ d := by
  induction bs generalizing a with
  | nil => simp [cells] at h
  | cons x bs ih =>
    simp only [cells] at h
    split at h
    · have := ih h
      simp only [List.length_cons]
      exact ⟨by omega, this.2⟩
    · rename_i hx
      rcases List.mem_cons.1 h with rfl | h
      · simp [hx]
      · have := ih h
        simp only [List.length_cons]
        exact ⟨by omega, this.2⟩

theorem cells_rising (d : Byte) (a : Nat) (bs : List Byte) : (cells d a bs).Pairwise fun c c' => c.1 < c'.1 := by
  induction bs generalizing a with
  | nil => simp [cells]
  | cons x bs ih =>
    simp only [cells]
    split
    · exact ih _
    · refine List.Pairwise.cons ?_ (ih _)
      intro c hc
      have := (mem_cells hc).1
      simp only
      omega

/-- A write keeps the canonical form. -/
theorem wf_write {d : Byte} {m : List Host.Cell} (h : wf d m) (a : Nat) (bs : List Byte) : wf d (write d m a bs) := by
  refine ⟨?_, ?_⟩
  · unfold write
    rw [List.append_assoc, List.pairwise_append, List.pairwise_append]
    refine ⟨h.1.filter _, ⟨cells_rising d a bs, h.1.filter _, ?_⟩, ?_⟩
    · intro c hc c' hc'
      have h1 := (mem_cells hc).1
      have h2 := (List.mem_filter.1 hc').2
      simp only [decide_eq_true_eq] at h2
      omega
    · intro c hc c' hc'
      have h1 := (List.mem_filter.1 hc).2
      simp only [decide_eq_true_eq] at h1
      rcases List.mem_append.1 hc' with hc' | hc'
      · have := (mem_cells hc').1
        omega
      · have h2 := (List.mem_filter.1 hc').2
        simp only [decide_eq_true_eq] at h2
        omega
  · intro c hc
    unfold write at hc
    rcases List.mem_append.1 hc with hc | hc
    · rcases List.mem_append.1 hc with hc | hc
      · exact h.2 c (List.mem_filter.1 hc).1
      · exact (mem_cells hc).2
    · exact h.2 c (List.mem_filter.1 hc).1

/-- A clear keeps the canonical form. -/
theorem wf_clear {d : Byte} {m : List Host.Cell} (h : wf d m) (a n : Nat) : wf d (clear m a n) :=
  ⟨h.1.filter _, fun c hc => h.2 c (List.mem_filter.1 hc).1⟩

/-- The empty store is in canonical form. -/
theorem wf_nil (d : Byte) : wf d [] := ⟨List.Pairwise.nil, by simp⟩

/-- Equal memories are equal data: two stores in canonical form that read alike are one list. -/
theorem wf_ext {d : Byte} {m m' : List Host.Cell} (h : wf d m) (h' : wf d m') (e : ∀ a, read d m a = read d m' a) :
    m = m' := by
  have key : ∀ (l : List Host.Cell), wf d l → ∀ c : Host.Cell, c ∈ l ↔ (read d l c.1 = c.2 ∧ c.2 ≠ d) := by
    intro l hl c
    constructor
    · intro hc
      refine ⟨?_, hl.2 c hc⟩
      clear h h' e
      induction l with
      | nil => simp at hc
      | cons x l ih =>
        rcases List.mem_cons.1 hc with rfl | hc'
        · rcases c with ⟨b, x⟩
          simp [read]
        · have hx := (List.pairwise_cons.1 hl.1).1 c hc'
          have := ih ⟨(List.pairwise_cons.1 hl.1).2, fun y hy => hl.2 y (List.mem_cons_of_mem _ hy)⟩ hc'
          rcases x with ⟨b, y⟩
          rw [read, lookup_other (by simp only at hx; omega)]
          exact this
    · rintro ⟨h1, h2⟩
      unfold read at h1
      cases hl' : l.lookup c.1 with
      | none => rw [hl'] at h1; exact absurd h1.symm h2
      | some v =>
        rw [hl'] at h1
        simp only [Option.getD_some] at h1
        subst h1
        clear h h' e h2 hl
        induction l with
        | nil => simp at hl'
        | cons x l ih =>
          rcases x with ⟨b, y⟩
          rw [List.lookup_cons] at hl'
          split at hl'
          · rename_i hb
            simp only [beq_iff_eq] at hb
            simp only [Option.some.injEq] at hl'
            rcases c with ⟨b', y'⟩
            simp_all
          · exact List.mem_cons_of_mem _ (ih hl')
  have hmem : ∀ c, c ∈ m ↔ c ∈ m' := fun c => by rw [key m h, key m' h', e]
  have hn : ∀ l : List Host.Cell, wf d l → l.Nodup := fun l hl =>
    hl.1.imp fun {a b} hab he => by rw [he] at hab; exact absurd hab (Nat.lt_irrefl _)
  have hp : m.Perm m' := (List.perm_ext_iff_of_nodup (hn m h) (hn m' h')).2 hmem
  exact hp.eq_of_pairwise (fun a b _ _ h1 h2 => absurd h1 (by omega)) h.1 h'.1

end Sys2Proof.Machine.Memory
end

