-- ==== Sys2Proof/Laws/Receivers.lean ====
section
/-! SUPPORT. What a change of one receiver record does to the records and the subscriber counts, and what finding a record, a track or a free record answers (R120, R121, R127, R129). -/

namespace Sys2Proof.Machine

open Sys2Proof.Safety

/-- Every record number is in the list of all of them. -/
@[simp] theorem mem_allRecs (i : RecNo) : i ∈ allRecs := List.mem_ofFn.mpr ⟨i, rfl⟩

/-- Every track is in the list of all of them. -/
@[simp] theorem mem_allTracks (t : TrackNo) : t ∈ allTracks := by revert t; decide

/-- No record number is listed twice. -/
theorem allRecs_nodup : allRecs.Nodup := List.nodup_ofFn.mpr fun _ _ h => h

/-- A count over a list of distinct elements, after the test changes at one of them. -/
theorem countP_change {α : Type} [DecidableEq α] {l : List α} (hl : l.Nodup) (p q : α → Bool) {i : α} (hi : i ∈ l)
    (h : ∀ j, j ≠ i → q j = p j) :
    l.countP q + (if p i then 1 else 0) = l.countP p + (if q i then 1 else 0) := by
  induction l with
  | nil => cases hi
  | cons x l ih =>
    obtain ⟨hx, hn⟩ := List.nodup_cons.mp hl
    rw [List.countP_cons, List.countP_cons]
    by_cases e : x = i
    · subst e
      have : l.countP q = l.countP p := List.countP_congr fun j hj => by rw [h j fun e => hx (e ▸ hj)]
      rw [this]; omega
    · have := ih hn ((List.mem_cons.mp hi).resolve_left fun e' => e e'.symm)
      rw [h x e]; omega

/-- The records after a change of one (R129). -/
theorem putRec_recs (s : State) (i : RecNo) (new : Receiver) (j : RecNo) :
    (s.putRec i new).rcv.recs[j] = if i = j then new else s.rcv.recs[j] := by
  by_cases h : i = j
  · subst h; simp [State.putRec, ReceiverBlock.put]
  · rw [if_neg h]
    exact setAt_other _ _ h

/-- The counts after a change of one record: less its old contribution, more its new one (R129). -/
theorem putRec_counts (s : State) (i : RecNo) (new : Receiver) (a : Aud) (t : TrackNo) :
    (s.putRec i new).rcv.counts[a][t] =
      recount s.rcv.counts[a][t] (s.rcv.recs[i].wants a t) (new.wants a t) := by
  simp [State.putRec, ReceiverBlock.put, countsAfter]

/-- A change of one record keeps the law of the subscriber counts (R129). -/
theorem putRec_countLaw {s : State} (h : CountLaw s) (i : RecNo) (new : Receiver) : CountLaw (s.putRec i new) := by
  intro a t
  have hc := countP_change allRecs_nodup (fun j => s.rcv.recs[j].wants a t)
    (fun j => (s.putRec i new).rcv.recs[j].wants a t) (mem_allRecs i)
    (fun j hj => by rw [putRec_recs, if_neg fun e => hj e.symm])
  rw [putRec_recs, if_pos rfl] at hc
  rw [putRec_counts, h a t, recount]
  have hp : s.rcv.recs[i].wants a t = true → 1 ≤ allRecs.countP fun j => s.rcv.recs[j].wants a t := fun hw =>
    List.countP_pos_iff.mpr ⟨i, mem_allRecs i, hw⟩
  by_cases hw : s.rcv.recs[i].wants a t = true
  · have := hp hw
    rw [if_pos hw] at hc ⊢
    omega
  · rw [if_neg hw] at hc ⊢
    omega

/-- The record found for an id holds it, BOUND, and is the lowest that does (R121). -/
theorem findId_some {b : ReceiverBlock} {id : BitVec 32} {i : RecNo} (h : b.findId id = some i) :
    b.recs[i].bound = true ∧ b.recs[i].id = id := by
  have := List.find?_some h
  simpa using this

/-- No record is found for an id exactly when no BOUND record holds it (R121). -/
theorem findId_none {b : ReceiverBlock} {id : BitVec 32} :
    b.findId id = none ↔ ∀ i : RecNo, b.recs[i].bound = true → b.recs[i].id ≠ id := by
  simp [ReceiverBlock.findId, List.find?_eq_none]

/-- The free record found is FREE (R120). -/
theorem lowestFree_some {b : ReceiverBlock} {i : RecNo} (h : b.lowestFree = some i) : b.recs[i].bound = false := by
  have := List.find?_some h
  simpa using this

/-- No free record is found exactly when every record is BOUND (R122). -/
theorem lowestFree_none {b : ReceiverBlock} : b.lowestFree = none ↔ ∀ i : RecNo, b.recs[i].bound = true := by
  simp [ReceiverBlock.lowestFree, List.find?_eq_none]

/-- A resolved track is of the kind and language asked for, on the title of an auditorium that is not DARK (R127). -/
theorem resolveTrack_some {s : State} {a : Aud} {k : TrackKind} {pref : Option Lang} {t : TrackNo}
    (h : resolveTrack s a k pref = some t) :
    ∃ l x, pref = some l ∧ s.shows[a].state ≠ .dark ∧ trackOf s a t = some x ∧ x.track.kind = k ∧ x.track.lang = l := by
  unfold resolveTrack at h
  rcases pref with _ | l
  · cases h
  · dsimp only at h
    by_cases hd : s.shows[a].state = .dark
    · rw [if_pos hd] at h; cases h
    · rw [if_neg hd] at h
      have hf := List.find?_some h
      rcases hx : trackOf s a t with _ | x
      · simp [hx] at hf
      · simp [hx] at hf
        exact ⟨l, x, rfl, hd, rfl, hf.1, hf.2⟩

/-- In DARK, and for no preference, nothing is resolved (R127). -/
theorem resolveTrack_dark {s : State} {a : Aud} (k : TrackKind) (pref : Option Lang) (h : s.shows[a].state = .dark) :
    resolveTrack s a k pref = none := by
  unfold resolveTrack
  cases pref
  · rfl
  · exact if_pos h

end Sys2Proof.Machine
end

