-- ==== Sys2Proof/Laws/Requests.lean ====
section
/-! SUPPORT. What taking a request does: one lemma for each way it can go, and what it keeps. -/

namespace Sys2Proof.Machine

variable {r : Req} {k : Byte} {act : State → State × Reply} {s : State}

/-- On an OWED port a request's bytes are discarded (R204). -/
theorem request_owed (h : s.owing r.port = true) : request r k act s = s.owedByte r.port := by
  simp [request, h]

/-- A body above 1,024 bytes is discarded (R204). -/
theorem request_long (h : s.owing r.port = false) (hb : Config.maxRequestBody < r.body.length) :
    request r k act s = s.linkError r.port .hunt := by
  simp [request, h, hb]

/-- A kind not valid on the port is answered UNKNOWN_REQUEST and has no other effect (R205). -/
theorem request_unknown (h : s.takes r = true) (hv : validKind r.port k = false) :
    request r k act s = s.owe r.port ((Reply.of .unknownRequest).response k r) := by
  simp only [State.takes, Bool.and_eq_true, Bool.not_eq_true', decide_eq_true_eq] at h
  simp [request, h.1, Nat.not_lt.2 h.2, hv]

/-- A valid request is carried out whole, and its port owes its response (R205). -/
theorem request_taken (h : s.takes r = true) (hv : validKind r.port k = true) :
    request r k act s = (act s).1.owe r.port ((act s).2.response k r) := by
  simp only [State.takes, Bool.and_eq_true, Bool.not_eq_true', decide_eq_true_eq] at h
  simp [request, h.1, Nat.not_lt.2 h.2, hv]

/-- A property that no change of a port's link state can break is kept by a request whose effect keeps it. -/
theorem request_keeps {P : State → Prop} (hport : ∀ s p x, P s → P (s.setPort p x)) (hact : ∀ s, P s → P (act s).1)
    (h : P s) : P (request r k act s) := by
  unfold request
  split
  · unfold State.owedByte
    split
    · exact hport _ _ _ h
    all_goals exact h
  · split
    · exact hport _ _ _ h
    · split
      · exact hport _ _ _ h
      · exact hport _ _ _ (hact s h)

/-- A request leaves the queue as its effect does. -/
theorem request_pending (hact : (act s).1.pending = s.pending) : (request r k act s).pending = s.pending := by
  unfold request
  split
  · simp
  · split
    · simp
    · split
      · simp
      · simp [hact]

/-- A request's effect that keeps every port's link state: the port that asked owes the answer, every other port is as
before (R205). -/
theorem request_ports (h : s.takes r = true) (hv : validKind r.port k = true) (hact : (act s).1.link.ports = s.link.ports)
    (p : Port) : (request r k act s).port p =
      if r.port = p then { s.port p with rx := .owed (some ((act s).2.response k r)) false } else s.port p := by
  have hp : ∀ q, (act s).1.port q = s.port q := fun q => by simp [State.port, hact]
  rw [request_taken h hv, State.owe_port, hp, hp]
  split
  · rename_i e; subst e; rfl
  · rfl

/-- A refused request changes nothing but what its port owes. -/
theorem request_refuse (c : Code) (h : s.takes r = true) (hv : validKind r.port k = true) :
    request r k (refuse c) s = s.owe r.port ((Reply.of c).response k r) := by
  rw [request_taken h hv]
  rfl

end Sys2Proof.Machine
end

