-- ==== Sys2Proof/Laws/Titles.lean ====
section
/-! SUPPORT. What allocating, returning and releasing a region of the cue store does: first fit, coverage slot by slot, the order of the free extents, and the fields a freed title changes (R2, R16 to R19). -/

namespace Sys2Proof.Machine

open Sys2Proof.Safety

/-- First fit: the extents before the one taken are too small, and the region takes its low end (R17). -/
theorem allocate_some {n : Nat} {l : List Extent} {r : Nat × List Extent} (h : allocate n l = some r) :
    ∃ before e after, l = before ++ e :: after ∧ (∀ f ∈ before, f.count < n) ∧ n ≤ e.count ∧ r.1 = e.base ∧
      r.2 = before ++ (if n = e.count then after else ⟨e.base + n, e.count - n⟩ :: after) := by
  induction l generalizing r with
  | nil => cases h
  | cons e l ih =>
    unfold allocate at h
    by_cases hn : n ≤ e.count
    · rw [if_pos hn] at h
      cases h
      exact ⟨[], e, l, rfl, by simp, hn, rfl, by split <;> rfl⟩
    · rw [if_neg hn] at h
      rcases hr : allocate n l with _ | q
      · rw [hr] at h; cases h
      · rw [hr] at h
        cases h
        obtain ⟨before, f, after, h1, h2, h3, h4, h5⟩ := ih hr
        refine ⟨e :: before, f, after, by rw [h1]; rfl, ?_, h3, h4, by dsimp only; rw [h5]; rfl⟩
        intro g hg
        rcases List.mem_cons.mp hg with rfl | hg
        · omega
        · exact h2 g hg

/-- No extent is large enough exactly when the allocator answers none (R17). -/
theorem allocate_none {n : Nat} {l : List Extent} : allocate n l = none ↔ ∀ e ∈ l, e.count < n := by
  induction l with
  | nil => simp [allocate]
  | cons e l ih =>
    unfold allocate
    by_cases hn : n ≤ e.count
    · simp [hn]
    · simp [hn, ih]; omega

/-- What holds slot `n`, as a number. -/
theorem holdsSlot_iff {b c n : Nat} : holdsSlot b c n = true ↔ b ≤ n ∧ n < b + c := by simp [holdsSlot]

/-- An allocation hands each slot of its region from the list to the region, and no other (R17, R19). -/
theorem allocate_covers {n : Nat} {l : List Extent} {r : Nat × List Extent} (h : allocate n l = some r) (k : Nat) :
    l.countP (fun e => holdsSlot e.base e.count k) =
      r.2.countP (fun e => holdsSlot e.base e.count k) + (if holdsSlot r.1 n k then 1 else 0) := by
  obtain ⟨before, e, after, rfl, -, hn, h4, h5⟩ := allocate_some h
  rw [h4, h5, List.countP_append, List.countP_append, List.countP_cons]
  by_cases hc : n = e.count
  · subst hc; simp; omega
  · simp only [if_neg hc, List.countP_cons, holdsSlot_iff]
    split <;> split <;> split <;> omega

/-- A return hands each slot of the region to the list, and no other (R18, R19). -/
theorem release_covers (b c : Nat) (l : List Extent) (k : Nat) :
    (release b c l).countP (fun e => holdsSlot e.base e.count k) =
      l.countP (fun e => holdsSlot e.base e.count k) + (if holdsSlot b c k then 1 else 0) := by
  induction l with
  | nil => simp [release, List.countP_cons]
  | cons e l ih =>
    unfold release
    by_cases h1 : e.base + e.count < b
    · rw [if_pos h1, List.countP_cons, List.countP_cons, ih]; omega
    · rw [if_neg h1]
      by_cases h2 : e.base + e.count = b
      · rw [if_pos h2]
        rcases l with _ | ⟨u, us⟩
        · simp only [List.countP_cons, List.countP_nil, holdsSlot_iff]
          split <;> split <;> split <;> omega
        · dsimp only
          by_cases h3 : b + c = u.base
          · rw [if_pos h3]
            simp only [List.countP_cons, holdsSlot_iff]
            split <;> split <;> split <;> split <;> omega
          · rw [if_neg h3]
            simp only [List.countP_cons, holdsSlot_iff]
            split <;> split <;> split <;> split <;> omega
      · rw [if_neg h2]
        by_cases h3 : b + c = e.base
        · rw [if_pos h3]
          simp only [List.countP_cons, holdsSlot_iff]
          split <;> split <;> split <;> omega
        · rw [if_neg h3]
          simp only [List.countP_cons]

/-- A list of extents as R16 keeps it: none empty, ascending, no two touching. -/
abbrev Extents (l : List Extent) : Prop :=
  (∀ e ∈ l, 1 ≤ e.count) ∧ l.Pairwise fun e e' => e.base + e.count < e'.base

/-- An allocation keeps the list as R16 has it. -/
theorem allocate_extents {n : Nat} {l : List Extent} {r : Nat × List Extent} (h : allocate n l = some r)
    (hl : Extents l) : Extents r.2 := by
  obtain ⟨before, e, after, rfl, -, hn, -, h5⟩ := allocate_some h
  obtain ⟨hc, hp⟩ := hl
  rw [List.pairwise_append, List.pairwise_cons] at hp
  obtain ⟨p1, ⟨p2, p3⟩, p4⟩ := hp
  rw [h5]
  by_cases hh : n = e.count
  · rw [if_pos hh]
    exact ⟨fun f hf => hc f (by simp at hf ⊢; tauto), List.pairwise_append.mpr ⟨p1, p3, fun a ha b hb =>
      p4 a ha b (List.mem_cons_of_mem _ hb)⟩⟩
  · rw [if_neg hh]
    refine ⟨?_, List.pairwise_append.mpr ⟨p1, List.pairwise_cons.mpr ⟨?_, p3⟩, ?_⟩⟩
    · intro f hf
      rcases List.mem_append.mp hf with hf | hf
      · exact hc f (List.mem_append_left _ hf)
      · rcases List.mem_cons.mp hf with rfl | hf
        · dsimp only; omega
        · exact hc f (List.mem_append_right _ (List.mem_cons_of_mem _ hf))
    · intro f hf
      have := p2 f hf
      dsimp only; omega
    · intro a ha f hf
      rcases List.mem_cons.mp hf with rfl | hf
      · have := p4 a ha e List.mem_cons_self
        dsimp only; omega
      · exact p4 a ha f (List.mem_cons_of_mem _ hf)

/-- Every extent of a list after a return starts at or after the least start there was. -/
theorem release_base {b c lo : Nat} {l : List Extent} (hb : lo ≤ b) (hl : ∀ e ∈ l, lo ≤ e.base) :
    ∀ e ∈ release b c l, lo ≤ e.base := by
  induction l with
  | nil => intro e he; rw [List.mem_singleton.mp he]; exact hb
  | cons f l ih =>
    have hf := hl f List.mem_cons_self
    have hr := fun e he => hl e (List.mem_cons_of_mem _ he)
    unfold release
    intro e he
    split at he
    · rcases List.mem_cons.mp he with rfl | he
      · exact hf
      · exact ih hr e he
    · split at he
      · split at he
        · rw [List.mem_singleton.mp he]; exact hf
        · rename_i u us
          split at he
          · rcases List.mem_cons.mp he with rfl | he
            · exact hf
            · exact hr e (List.mem_cons_of_mem _ he)
          · rcases List.mem_cons.mp he with rfl | he
            · exact hf
            · exact hr e he
      · split at he
        · rcases List.mem_cons.mp he with rfl | he
          · exact hb
          · exact hr e he
        · rcases List.mem_cons.mp he with rfl | he
          · exact hb
          · exact hl e he

/-- A return of a region that no extent overlaps keeps the list as R16 has it. -/
theorem release_extents {b c : Nat} {l : List Extent} (hc : 1 ≤ c) (hl : Extents l)
    (hd : ∀ e ∈ l, e.base + e.count ≤ b ∨ b + c ≤ e.base) : Extents (release b c l) := by
  induction l with
  | nil => exact ⟨fun e he => by rw [List.mem_singleton.mp he]; exact hc, List.pairwise_singleton _ _⟩
  | cons e l ih =>
    obtain ⟨hn, hp⟩ := hl
    rw [List.pairwise_cons] at hp
    have he := hn e List.mem_cons_self
    have hr := fun f hf => hn f (List.mem_cons_of_mem _ hf)
    have hde := hd e List.mem_cons_self
    have hdr := fun f hf => hd f (List.mem_cons_of_mem _ hf)
    unfold release
    by_cases h1 : e.base + e.count < b
    · rw [if_pos h1]
      have q := ih ⟨hr, hp.2⟩ hdr
      have lo := release_base (b := b) (c := c) (lo := e.base + e.count + 1) (l := l) (by omega)
        (fun f hf => by have := hp.1 f hf; omega)
      refine ⟨?_, List.pairwise_cons.mpr ⟨fun f hf => by have := lo f hf; omega, q.2⟩⟩
      intro f hf
      rcases List.mem_cons.mp hf with rfl | hf
      · exact he
      · exact q.1 f hf
    · rw [if_neg h1]
      by_cases h2 : e.base + e.count = b
      · rw [if_pos h2]
        rcases l with _ | ⟨u, us⟩
        · exact ⟨fun f hf => by rw [List.mem_singleton.mp hf]; dsimp only; omega, List.pairwise_singleton _ _⟩
        · have hu := hp.1 u List.mem_cons_self
          have hdu := hdr u List.mem_cons_self
          have hcu := hr u List.mem_cons_self
          have hp2 := List.pairwise_cons.mp hp.2
          dsimp only
          by_cases h3 : b + c = u.base
          · rw [if_pos h3]
            refine ⟨?_, List.pairwise_cons.mpr ⟨fun f hf => ?_, hp2.2⟩⟩
            · intro f hf
              rcases List.mem_cons.mp hf with rfl | hf
              · dsimp only; omega
              · exact hr f (List.mem_cons_of_mem _ hf)
            · have := hp2.1 f hf
              dsimp only; omega
          · rw [if_neg h3]
            refine ⟨?_, List.pairwise_cons.mpr ⟨fun f hf => ?_, hp.2⟩⟩
            · intro f hf
              rcases List.mem_cons.mp hf with rfl | hf
              · dsimp only; omega
              · exact hr f hf
            · have h4 : b + c < u.base := by omega
              rcases List.mem_cons.mp hf with rfl | hf
              · dsimp only; omega
              · have := hp2.1 f hf
                dsimp only; omega
      · rw [if_neg h2]
        have h4 : b + c ≤ e.base := by omega
        by_cases h3 : b + c = e.base
        · rw [if_pos h3]
          refine ⟨?_, List.pairwise_cons.mpr ⟨fun f hf => ?_, hp.2⟩⟩
          · intro f hf
            rcases List.mem_cons.mp hf with rfl | hf
            · dsimp only; omega
            · exact hr f hf
          · have := hp.1 f hf
            dsimp only; omega
        · rw [if_neg h3]
          refine ⟨?_, List.pairwise_cons.mpr ⟨fun f hf => ?_, List.pairwise_cons.mpr hp⟩⟩
          · intro f hf
            rcases List.mem_cons.mp hf with rfl | hf
            · exact hc
            · exact hn f hf
          · rcases List.mem_cons.mp hf with rfl | hf
            · dsimp only; omega
            · have := hp.1 f hf
              dsimp only; omega

/-- All a closed load context changes is the Title Loader (R25). -/
theorem closeLoad_eq (s : State) (t : TitleNo) : ∃ x, s.closeLoad t = { s with loader := x } := by
  unfold State.closeLoad
  split
  · exact ⟨_, rfl⟩
  · exact ⟨s.loader, rfl⟩

/-- All a title's release changes: its record, the free extents, and the Title Loader (R2, R18, R25). -/
theorem freeTitle_eq (s : State) (t : TitleNo) : ∃ x, s.freeTitle t = { s with
    titles := { s.titles with
      recs := setAt s.titles.recs t Title.free
      free := releaseRegion (s.title t).base (s.title t).count s.titles.free }
    loader := x } := by
  obtain ⟨x, hx⟩ := closeLoad_eq s t
  exact ⟨x, by unfold State.freeTitle; rw [hx]⟩

/-- A released title is FREE and every other record is as it was. -/
theorem freeTitle_title (s : State) (t u : TitleNo) :
    (s.freeTitle t).title u = if u = t then Title.free else s.title u := by
  obtain ⟨x, hx⟩ := freeTitle_eq s t
  rw [hx]
  by_cases h : u = t
  · subst h; simp [State.title]
  · rw [if_neg h]
    exact setAt_other _ _ (fun e => h e.symm)

end Sys2Proof.Machine
end

