-- ==== Sys2Proof/Tests/Slice0.lean ====
section
/-! SUPPORT. The model's own tests: ill-formed commands that the check refuses, worked values of the spec, one-step runs, and for each statement with hypotheses a state and operands that meet them. -/

-- One theorem at a time: each waits for the kernel, and waiting threads take memory.
set_option Elab.async false

namespace Sys2Proof.Tests

open Sys2Proof.Machine Sys2Proof.Safety

/-! ### Commands that are not well formed -/

/-- A body one byte longer than a request frame can hold. -/
def longBody : List Byte := List.replicate 1025 0

theorem test_longest_body_is_well_formed : (Instr.arm ⟨.feed 0, 0, List.replicate 1024 0⟩).wellFormed = true := by
  decide +kernel

/-- Every request row refuses the long body. -/
theorem test_long_body_is_ill_formed :
    ([Instr.reset, .loadOpen, .loadData, .loadFinish, .loadAbort, .unload, .arm, .run, .hold, .darken, .position,
      .assignFeed, .assignAir, .report, .pull, .sense, .setLoadIdleTime, .setKeepAliveTime, .setUrgencyMargin,
      .setJumpThreshold, .setGainExponent, .setSilenceInterval, .setLead, .setCapacity, .setRepeatPeriod, .setWindow,
      .setBitRate, .stats, .tableRead, .cacheProbe, .cacheFlush, .clipDefine, .clipDelete, .clipWriteEnable, .clipProgram,
      .clipErase, .clipVerify, .clipProtect].map fun f : Req → Instr => (f ⟨.m, 0, longBody⟩).wellFormed) =
      List.replicate 38 false := by
  decide +kernel

/-- A SET row refuses the parameter of another row, and takes one outside 1 to 11. -/
theorem test_set_row_refuses_other_parameter :
    ([(Instr.setLoadIdleTime, 2), (.setKeepAliveTime, 1), (.setUrgencyMargin, 1), (.setJumpThreshold, 1),
      (.setGainExponent, 1), (.setSilenceInterval, 1), (.setLead, 1), (.setCapacity, 1), (.setRepeatPeriod, 1),
      (.setWindow, 1), (.setBitRate, 1)].map fun x : (Req → Instr) × Nat =>
        ((x.1 ⟨.m, 0, [byte x.2, 0, 0, 0, 0, 0]⟩).wellFormed, (x.1 ⟨.m, 0, [12, 0, 0, 0, 0, 0]⟩).wellFormed)) =
      List.replicate 11 (false, true) := by
  decide +kernel

/-- An unknown request is of a kind that is not valid on its port. -/
theorem test_unknown_request_of_valid_kind_is_ill_formed :
    (Instr.unknownRequest (.feed 1) 5 0).wellFormed = false ∧ (Instr.unknownRequest (.air 1) 13 0).wellFormed = false ∧
      (Instr.unknownRequest .m 28 0).wellFormed = false ∧ (Instr.unknownRequest .m 29 0).wellFormed = true := by
  decide +kernel

/-- No row of the table gives bits. -/
theorem test_no_word_spells_a_command : decodeTableWord 16 0 = none ∧ State.reset.withFetchWord 16 0 = State.reset :=
  ⟨rfl, rfl⟩

/-! ### A small state -/

/-- The language "eng". -/
def eng : Lang := ⟨101, 110, 103⟩

/-- A title of two tracks of two entries each, as LOAD.OPEN of key 1 lays it out. -/
def title (x : TitleState) : Title where
  state := x
  key := 1
  loader := some 0
  base := 0
  count := 7
  textBytes := 16
  fill := 5
  reels := [1000, 500]
  tracks := [⟨.caption, eng, 2, 2, 0, 5, if x = .ready then 1 else 0⟩,
    ⟨.description, eng, 2, 2, 2, 6, if x = .ready then 1 else 0⟩]
  clips := if x = .ready then [7] else []
  refs := if x = .ready then 1 else 0
  lastActivity := 0

/-- Its seven slots. -/
def cueBytes : List Byte :=
  CaptionEntry.bytes ⟨100, 50, false, false, 0, 5⟩ ++ CaptionEntry.bytes ⟨200, 10, true, false, 5, 0⟩ ++
    DescEntry.bytes ⟨96, 192, 7, 0, 3⟩ ++ DescEntry.bytes ⟨400, 96, 7, 2, 0⟩ ++
    ([72, 69, 76, 76, 79] ++ List.replicate 11 0) ++ anchorBytes 100 ++ anchorBytes 96

/-- The part with that title in record 0. -/
def withTitle (x : TitleState) : State :=
  { State.reset with
    titles := {
      recs := setAt TitleBlock.reset.recs 0 (title x)
      free := [⟨7, 131065⟩]
      cue := Memory.write cueEmpty [] 0 cueBytes }
    store := { StoreBlock.reset with
      directory := setAt StoreBlock.reset.directory 7 ⟨true, 16, 4⟩ } }

/-- Auditorium 2, owned by F0, on A0, with the title, at show time `at_`, in the context state given; its two tracks
have a subscriber each. -/
def playing (x : ShowState) (at_ : Nat) : State :=
  let s := withTitle .ready
  { s with
    shows := setAt s.shows 2 ⟨x, some 0, some 0, some 0⟩
    clock := { s.clock with auds := setAt s.clock.auds 2 { AudClock.reset with pos := 65536 * at_ } }
    store := { s.store with inUse := setAt s.store.inUse 7 1 }
    rcv := { s.rcv with
      recs := setAt s.rcv.recs 0 ⟨true, 9, some 0, 2, some eng, some eng, some 0, some 1, 0⟩
      counts := setAt s.rcv.counts 2 (setAt (setAt (fillTable 8 0) 0 1) 1 1) } }

/-- The state a command leaves. -/
def after (i : Instr) (s : State) : State :=
  match exec i s with
  | .next t => t
  | .fault _ => s
  | .refused _ => s

/-- What a port owes. -/
def owed (p : Port) (s : State) : Option Response :=
  match (s.port p).rx with
  | .owed r _ => r
  | .hunt => none
  | .frame => none

/-! ### Worked values of the spec -/

/-- The RUN of auditorium 4 of R203 as sent. -/
theorem test_frame_of_run : frameBytes 2 0x10 [4] = [0xC5, 0x01, 0x00, 0x02, 0x10, 0x04, 0xE8, 0xFF] := by decide +kernel

/-- Worked example of section 9.1: a page of zeros, and an erased page. -/
theorem test_check_words :
    checkWord (List.replicate 512 0) = 0xFFFF ∧ checkWord (List.replicate 512 0xFF) = 0x00FF := by
  decide +kernel

/-- Worked example of section 1.5: two caption tracks of 1,200 and 900 entries and 40,000 text bytes. -/
theorem test_region_of_worked_title :
    Decl.regionSlots ⟨1, 1, 2, [1000], [⟨0, [], 1200⟩, ⟨0, [], 900⟩], 40000⟩ = 4667 ∧
      (layTracks 0 4600 [⟨0, [], 1200⟩, ⟨0, [], 900⟩]).map (fun t => (t.entryBase, t.anchorBase)) =
        [(0, 4600), (1200, 4638)] := by
  decide +kernel

/-- Worked example of section 1.6: allocation, a refusal, and the merge of three extents. -/
theorem test_allocation_example :
    allocate 4667 [⟨0, 131072⟩] = some (0, [⟨4667, 126405⟩]) ∧
    release 4667 20000 [⟨34667, 96405⟩] = [⟨4667, 20000⟩, ⟨34667, 96405⟩] ∧
    allocate 100000 [⟨4667, 20000⟩, ⟨34667, 96405⟩] = none ∧
    allocate 8000 [⟨4667, 20000⟩, ⟨34667, 96405⟩] = some (4667, [⟨12667, 12000⟩, ⟨34667, 96405⟩]) ∧
    release 24667 10000 [⟨12667, 12000⟩, ⟨34667, 96405⟩] = [⟨12667, 118405⟩] := by
  decide +kernel

/-- A 120-byte text whose bytes 94 to 96 are the first three of a four-byte character is cut to 94 bytes. -/
theorem test_cut_text :
    prepareText (List.replicate 94 65 ++ [0xF0, 0x9F, 0x8E, 0xAC] ++ List.replicate 22 65) = (List.replicate 94 65, true) ∧
      prepareText (List.replicate 96 65) = (List.replicate 96 65, false) := by
  decide +kernel

/-- Cases of section 4.7: a slew by six ticks, the clamp to a reel's end, a negative error, the trim's limit. -/
theorem test_slew_cases :
    reported [60006, 60994, 50000] ⟨1, 1200, 50⟩ = (120006, false) ∧
    reported [60006, 60994, 50000] ⟨1, 1220, 50⟩ = (120999, true) ∧
    (let c : AudClock := { AudClock.reset with pos := 7864320000 }
     (c.slew (errorOf c 120006)).pos = 7864418304 ∧ (c.slew (errorOf c 120006)).trim = 6 ∧
       (c.slew (-5)).pos = 7864319999 ∧ (c.slew (-5)).trim = 0) ∧
    ({ AudClock.reset with pos := 7864320000, trim := -650, gain := 12 } : AudClock).slew (-40960) =
      { AudClock.reset with pos := 7864309760, trim := -655, gain := 12 } := by
  decide +kernel

/-- The victims the replacement bits name (R106). -/
theorem test_victims :
    ({ CacheSet.clear with a := false, bw := true } : CacheSet).victim = 1 ∧
    ({ CacheSet.clear with a := true, cw := true } : CacheSet).victim = 3 ∧ CacheSet.clear.victim = 0 := by
  decide +kernel

/-! ### One step each -/

/-- RUN of an ARMED auditorium. -/
theorem test_run_starts_the_clock :
    let t := after (.run ⟨.feed 0, 9, [2]⟩) (playing .armed 40)
    t.shows[(2 : Aud)].state = .running ∧ owed (.feed 0) t = some ⟨2, 9, .ok, false, []⟩ := by
  decide +kernel

/-- A RUN from a port that does not own the auditorium. -/
theorem test_run_from_another_port :
    owed (.feed 1) (after (.run ⟨.feed 1, 9, [2]⟩) (playing .armed 40)) = some ⟨2, 9, .notOwner, false, []⟩ := by
  decide +kernel

/-- A house tick moves a running clock by a tick. -/
theorem test_tick : (after .houseTick (playing .running 40)).clock.auds[(2 : Aud)].pos = 41 * 65536 := by decide +kernel

/-- The first PULL sends the active caption: header, then a CAPTION of 13 bytes. -/
theorem test_pull_sends_caption :
    owed (.air 0) (after (.pull ⟨.air 0, 3, [2]⟩) (playing .held 0)) =
      some ⟨12, 3, .ok, false, [2, 3, 120, 0, 0, 120, 0, 8, 1, 0, 1, 0,
        16, 0, 5, 100, 0, 0, 50, 0, 72, 69, 76, 76, 79]⟩ := by
  decide +kernel

/-- CLIP.DEFINE of a clip in use. -/
theorem test_define_in_use :
    owed .m (after (.clipDefine ⟨.m, 3, le 2 7 ++ le 2 0 ++ le 2 1⟩) (playing .held 0)) =
      some ⟨21, 3, .inUse, false, []⟩ := by
  decide +kernel

/-- A stream request takes the lowest stream and asks for every block the track supplies. -/
theorem test_request_gets_stream :
    let t := requestStream (playing .running 0) (2, 1)
    t.stream.entries[(0 : StreamNo)].alloc = true ∧
      t.stream.pool.map (fun r => (r.flashBlock, r.play)) = [(16, 96), (17, 192), (18, 400)] := by
  decide +kernel

/-! ### What meets the hypotheses of each statement

One named theorem for each statement with hypotheses, a clause at a boundary of its range where it has several. -/

theorem test_meets_StepTakesFrontCommand :
    ({ State.reset with pending := [.houseTick] } : State).pending = .houseTick :: [] ∧ State.reset.pending = [] :=
  ⟨rfl, rfl⟩

theorem test_meets_RequestsRefusedAtTheDoor :
    (asRequest (.run ⟨.m, 7, [0]⟩) = some (⟨.m, 7, [0]⟩, 2) ∧ (Instr.run ⟨.m, 7, [0]⟩).wellFormed = true ∧
      State.reset.owing .m = false ∧ validKind .m 2 = false) ∧ validKind .m 0 = false ∧ validKind .m 29 = false ∧
    (asRequest (.clipErase ⟨.m, 7, []⟩) = some (⟨.m, 7, []⟩, 25) ∧ (Instr.clipErase ⟨.m, 7, []⟩).wellFormed = true ∧
      validKind .m 25 = true ∧ fixedLength (.clipErase ⟨.m, 7, []⟩) = some 2) := by
  decide +kernel

theorem test_meets_EveryRequestIsAnswered :
    asRequest (.clipProtect ⟨.m, 7, [0, 0]⟩) = some (⟨.m, 7, [0, 0]⟩, 27) ∧
      (Instr.clipProtect ⟨.m, 7, [0, 0]⟩).wellFormed = true ∧ State.reset.owing .m = false := by
  decide +kernel

/-- A port in the receiver state given. -/
def portIn (p : Port) (rx : Rx) : State := State.reset.setRx p rx

theorem test_meets_ReceiverFollowsItsTable :
    (State.reset.port .m).rx = .hunt ∧ ((portIn .m .frame).port .m).rx = .frame ∧
    (∀ counted, ((portIn .m (.owed (some ⟨2, 7, .ok, false, []⟩) counted)).port .m).rx =
      .owed (some ⟨2, 7, .ok, false, []⟩) counted) ∧
    asRequest (.reset ⟨.m, 7, []⟩) = some (⟨.m, 7, []⟩, 28) ∧ (Instr.reset ⟨.m, 7, []⟩).wellFormed = true := by
  decide +kernel

theorem test_meets_BitRateIsStoredThenApplied :
    (2 ^ 32 - 1 < 2 ^ 32 ∧ State.reset.owing .m = false) ∧
    (let s := State.reset.setPort (.air 1) ⟨.hunt, 0, 115200, some 9600⟩
     (s.port (.air 1)).newRate = some 9600 ∧ (s.port (.air 1)).rx = .hunt) ∧
    (portIn (.air 1) (.owed none false)).owing (.air 1) = true ∧ ((portIn (.air 1) .frame).port (.air 1)).rx = .frame := by
  decide +kernel

theorem test_meets_SenseReportsAndClears :
    State.reset.owing (.feed 3) = false ∧ (0 : Fin 4) ≠ 3 ∧ 1 < (2 : Byte).toNat := by
  decide +kernel

theorem test_meets_StatsReturnsAndClears : State.reset.owing .m = false ∧ 1 < (2 : Byte).toNat := by decide +kernel

/-- No index is both an entry of a table and out of its range. -/
theorem test_meets_TableReadReturnsEntry :
    State.reset.owing .m = false ∧ handle (23 : TitleNo) = 24 ∧ (511 : RecNo).val = 511 ∧ (23 : StreamNo).val = 23 ∧
      (1023 : ClipNo).val = 1023 ∧
    ∀ x ∈ [((0 : Byte), 0), (5, 0), (1, 0), (1, 25), (2, 512), (3, 24), (4, 1024)],
      (x.1 = 0 ∨ 4 < x.1.toNat ∨ (x.1 = 1 ∧ (x.2 = 0 ∨ 24 < x.2)) ∨ (x.1 = 2 ∧ 511 < x.2) ∨ (x.1 = 3 ∧ 23 < x.2) ∨
        (x.1 = 4 ∧ 1023 < x.2)) := by
  decide +kernel

theorem test_meets_SetStoresParameters : (2 ^ 32 - 1 < 2 ^ 32) ∧ State.reset.owing .m = false := by decide +kernel

theorem test_meets_SetRefusesWhatIsOutOfRange :
    State.reset.owing .m = false ∧ ((12 : Byte) = 0 ∨ 11 < (12 : Byte).toNat) ∧ 15 < (16 : Byte).toNat ∧
      ((3 : Byte).toNat ≠ 4 ∧ (3 : Byte).toNat ≠ 5) ∧ ((6 : Byte).toNat ≠ 4 ∧ (6 : Byte).toNat ≠ 5) ∧
      6 < (7 : Byte).toNat := by
  decide +kernel

/-- The part with a maintenance operation. -/
def maintaining (op : Maintenance) (use : FlashUse) : State :=
  { State.reset with store := { StoreBlock.reset with op := op, use := use } }

/-- 512 bytes of zeros. -/
def zeros : List Byte := List.replicate 512 0

/-- Sector 1 of a suspended erase is bytes 8,448 to 16,895; a waiting erase has not started. -/
theorem test_meets_PowerOnStartsAfresh :
    (∀ a ∈ [8448, 16895], ∃ st, st ≠ OpState.waiting ∧
      (maintaining (.erase .suspended 1) .idle).store.op = .erase st (a / 8448)) ∧
    (∀ a ∈ [8447, 16896], ¬∃ st, st ≠ OpState.waiting ∧
      (maintaining (.erase .suspended 1) .idle).store.op = .erase st (a / 8448)) ∧
    ¬∃ st, st ≠ OpState.waiting ∧ (maintaining (.erase .waiting 1) .idle).store.op = .erase st (8448 / 8448) := by
  refine ⟨fun a ha => ⟨.suspended, by decide, ?_⟩, ?_, ?_⟩
  · rcases List.mem_pair.mp ha with rfl | rfl <;> rfl
  · rintro a ha ⟨st, -, h⟩
    have h : Maintenance.erase .suspended 1 = .erase st (a / 8448) := h
    injection h with _ h
    rcases List.mem_pair.mp ha with rfl | rfl <;> exact absurd h (by decide)
  · rintro ⟨st, hs, h⟩
    have h : Maintenance.erase .waiting 1 = .erase st 1 := h
    injection h with h
    exact hs h.symm

/-- A power-on leaves the sector of a suspended erase erased, and the page of a program in flight as it was. -/
theorem test_power_on_ends_operations :
    let held : List Host.Cell := [(528, 3), (8448, 7)]
    let left := fun op : Maintenance =>
      let s := maintaining op .idle
      (after .powerOn { s with store := { s.store with flash := held } }).store.flash
    left (.erase .suspended 1) = [(528, 3)] ∧ left (.program .inFlight 1 zeros 65535) = held := by
  decide +kernel

/-- A part with a RESET of tag 5 waiting for the operation. -/
def deferred (op : Maintenance) (use : FlashUse) : State :=
  let s := (maintaining op use).setRx .m (.owed none false)
  { s with link := { s.link with resetTag := some 5 } }

theorem test_meets_ResetTakesEffect :
    (State.reset.owing .m = false ∧ State.reset.store.op.started = false) ∧
    (let s := maintaining (.erase .suspended 4095) .idle
     s.owing .m = false ∧ s.store.op.started = true) ∧
    (let s := deferred (.program .inFlight 65535 zeros 65535) .program
     s.link.resetTag = some 5 ∧ s.store.op = .program .inFlight 65535 zeros 65535 ∧ zeros.length = 512) ∧
    (let s := deferred (.erase .inFlight 0) .erase
     s.link.resetTag = some 5 ∧ s.store.op = .erase .inFlight 0) := by
  decide +kernel

/-- Auditorium 2 with a silence boundary due and a silence count. -/
def silent (x : ShowState) (n : Nat) : State :=
  let s := playing x 40
  { s.setClock 2 { s.clock.auds[(2 : Aud)] with silence := n } with
    due := { s.due with silence := setAt s.due.silence 2 true } }

theorem test_meets_SilenceBoundaryCountsSilence :
    ∀ x ∈ [(ShowState.held, 0, 1), (.running, 0, 1), (.running, 1, 2), (.running, 3, 3), (.freewheel, 1, 2),
      (.freewheel, 2, 3), (.freewheel, 3, 3)],
      (silent x.1 x.2.1).due.silence[(2 : Aud)] = true ∧ (silent x.1 x.2.1).shows[(2 : Aud)].state = x.1 ∧
        min ((silent x.1 x.2.1).clock.auds[(2 : Aud)].silence + 1) 3 = x.2.2 := by
  decide +kernel

theorem test_meets_HouseSecondAndExpiry :
    ({ State.reset with due := { Due.reset with second := true } } : State).due.second = true ∧
      ({ State.reset with due := { Due.reset with expiry := some 10 } } : State).due.expiry = some 10 := by
  decide +kernel

/-- The checks of POSITION and ARM, each at the first value that it refuses and the last that it lets pass. -/
theorem test_meets_ShowRequestRefusals :
    (2 ^ 24 - 1 < 2 ^ 24 ∧ State.reset.owing (.feed 0) = false ∧ 15 < (16 : Byte).toNat ∧
      State.reset.shows[(15 : Aud)].feedOwner ≠ some (0 : Fin 4)) ∧
    (∀ x ∈ [ShowState.dark, .armed], (playing x 0).owing (.feed 0) = false ∧
      (playing x 0).shows[(2 : Aud)].feedOwner = some 0 ∧ (playing x 0).shows[(2 : Aud)].state = x) ∧
    (5 < (6 : Byte).toNat ∧ (5 : Byte).toNat ≤ 5 ∧ 1048575 < 1048576 ∧
      (((titleOf (playing .armed 0) 2).map (·.reels)).getD []).length ≤ (2 : Byte).toNat) ∧
    (24 < (25 : Byte).toNat ∧ (24 : Byte) = byte ((23 : TitleNo).val + 1) ∧
      ((playing .dark 0).title 23).state ≠ .ready ∧ ((playing .dark 0).title 0).state = .ready) := by
  decide +kernel

theorem test_meets_ShowRequestRefusals_storage :
    let s := { playing .dark 0 with store := { (playing .dark 0).store with op := .erase .waiting 1 } }
    (s.title 0).state = .ready ∧ armConflicts s (s.title 0).clips := by
  refine ⟨by decide +kernel, 7, 1, by decide +kernel, Or.inr ⟨.waiting, rfl⟩, 16, ?_, rfl⟩
  show _ ∧ _ ∧ _
  decide +kernel

/-- A report of reel 1, frame 2 at 24 frames a second: show time 1,100; errors below and at the jump threshold. -/
theorem test_meets_PositionSlewsTheClock :
    let c : Fin 6 := 0
    let m := reportedTime [1000, 500] (1 : Byte).toNat 2 ([50, 48, 40, 25, 24, 20].getD c.val 0)
    m = (1100, false) ∧
    ∀ x ∈ [ShowState.running, .freewheel], ∀ at_ ∈ [1100, 501, 1699], (playing x at_).owing (.feed 0) = false ∧
      (playing x at_).shows[(2 : Aud)].feedOwner = some 0 ∧ titleOf (playing x at_) 2 = some (title .ready) ∧
      2 ≤ 1048575 ∧ (1 : Byte).toNat < (title .ready).reels.length ∧ (playing x at_).shows[(2 : Aud)].state = x ∧
      ((m.1 : Int) * 65536 - (playing x at_).clock.auds[(2 : Aud)].pos).natAbs <
        (playing x at_).clock.auds[(2 : Aud)].jump * 65536 := by
  decide +kernel

theorem test_meets_PositionStepsOrPlaces :
    let c : Fin 6 := 0
    let m := reportedTime [1000, 500] (1 : Byte).toNat 2 ([50, 48, 40, 25, 24, 20].getD c.val 0)
    (∀ x ∈ [ShowState.held, .lost, .armed], (playing x 500).owing (.feed 0) = false ∧
      (playing x 500).shows[(2 : Aud)].feedOwner = some 0 ∧ titleOf (playing x 500) 2 = some (title .ready) ∧
      (playing x 500).shows[(2 : Aud)].state = x) ∧
    ∀ x ∈ [ShowState.running, .freewheel], ∀ at_ ∈ [500, 1700], titleOf (playing x at_) 2 = some (title .ready) ∧
      (playing x at_).shows[(2 : Aud)].state = x ∧
      (playing x at_).clock.auds[(2 : Aud)].jump * 65536 ≤
        ((m.1 : Int) * 65536 - (playing x at_).clock.auds[(2 : Aud)].pos).natAbs := by
  decide +kernel

/-! Titles. -/

/-- A declaration of one reel, one caption track of `n` entries and `x` text bytes, with key `k`. -/
def decl (k : BitVec 64) (n x : Nat) : Decl := ⟨k, 1, 1, [1000], [⟨0, eng.bytes, n⟩], x⟩

theorem decl_fits (k : BitVec 64) (n x : Nat) (hn : n < 65536) (hx : x < 2 ^ 24) : declFits (decl k n x) := by
  refine ⟨rfl, rfl, show 1 < 256 by decide, show 1 < 256 by decide, by simp [decl], hx, ?_⟩
  intro t ht
  rw [List.mem_singleton.mp ht]
  exact ⟨show 0 < 256 by decide, rfl, hn⟩

theorem decl_in_range (k : BitVec 64) (n x : Nat) (hn : n ≤ 16383) (hx : x ≤ 2097151) : declInRange (decl k n x) := by
  refine ⟨by simp [decl], by simp [decl], by simp [decl], by simp [decl], hx, ?_⟩
  intro t ht
  rw [List.mem_singleton.mp ht]
  exact ⟨Nat.zero_le 1, show ∀ c ∈ eng.bytes, _ by decide, hn⟩

/-- The part with every title record but those of `free` LOADING with key 5. -/
def crowded (free : List TitleNo) (extents : List Extent) : State :=
  { State.reset with titles := { TitleBlock.reset with
      recs := Vector.ofFn fun t => if t ∈ free then Title.free else { Title.free with state := .loading, key := 5 }
      free := extents } }

/-- The cases of LOAD.OPEN in order: a broken body; a READY title with the key, or a LOADING or FINISHING one; an open
context; an item out of range; a full table; no room. -/
theorem test_meets_LoadOpenAnswers :
    (loadPort (.feed 3) = some 3 ∧ loadPort .m = some 4) ∧
    ((List.replicate 12 (0 : Byte)).length ≠ 13 + 3 * at1 (List.replicate 12 0) 8 + 6 * at1 (List.replicate 12 0) 9) ∧
    (declBytes (decl 1 16384 2097152)).length ≤ 1024 ∧
    (((withTitle .ready).title 0).state = .ready ∧ ((withTitle .ready).title 0).key = (decl 1 2 16).key) ∧
    (∀ x ∈ [TitleState.loading, .finishing], ((withTitle x).title 0).state = x ∧ ((withTitle x).title 0).key = 1 ∧
      ∀ t, ¬(((withTitle x).title t).state = .ready ∧ ((withTitle x).title t).key = 1)) ∧
    (∀ t, (State.reset.title t).state = .free) ∧ State.reset.loader.ctx[(3 : LoadPort)] = .closed ∧
    ({ State.reset with loader := { LoaderBlock.reset with ctx := fillTable 5 (.loading 0) } } : State).loader.ctx[(3 : LoadPort)]
      ≠ .closed ∧
    (∀ t, ((crowded [] []).title t).state ≠ .free) ∧
    (∃ t, ((crowded [23] [⟨0, 2⟩]).title t).state = .free) ∧
    1 ≤ (decl 1 2 1).entries + ceilDiv (decl 1 2 1).textBytes 16 + (decl 1 2 1).anchors ∧
    ∀ e ∈ (crowded [23] [⟨0, 3⟩]).titles.free,
      e.count < (decl 1 2 1).entries + ceilDiv (decl 1 2 1).textBytes 16 + (decl 1 2 1).anchors := by
  decide +kernel

theorem test_meets_LoadOpenAnswers_range :
    declFits (decl 1 16384 2097151) ∧ ¬declInRange (decl 1 16384 2097151) ∧ declFits (decl 1 16383 2097151) ∧
      declInRange (decl 1 16383 2097151) :=
  ⟨decl_fits 1 _ _ (by decide) (by decide),
    fun h => absurd (h.2.2.2.2.2 ⟨0, eng.bytes, 16384⟩ (List.mem_singleton.mpr rfl)).2.2 (by decide),
    decl_fits 1 _ _ (by decide) (by decide), decl_in_range 1 _ _ (by decide) (by decide)⟩

/-- A region of no slots, and one that takes a whole extent after one that is too small. -/
theorem test_meets_LoadOpenStartsTitle :
    declFits (decl 1 0 0) ∧ declInRange (decl 1 0 0) ∧ declFits (decl 1 2 1) ∧ declInRange (decl 1 2 1) ∧
    (∀ u, ((crowded [3, 23] [⟨0, 3⟩, ⟨9, 4⟩]).title u).state ≠ .free →
      ((crowded [3, 23] [⟨0, 3⟩, ⟨9, 4⟩]).title u).key ≠ (decl 1 2 1).key) ∧
    (crowded [3, 23] [⟨0, 3⟩, ⟨9, 4⟩]).loader.ctx[(0 : LoadPort)] = .closed ∧
    ((crowded [3, 23] [⟨0, 3⟩, ⟨9, 4⟩]).title 3).state = .free ∧
    (∀ u, u < 3 → ((crowded [3, 23] [⟨0, 3⟩, ⟨9, 4⟩]).title u).state ≠ .free) ∧
    (decl 1 0 0).entries + ceilDiv (decl 1 0 0).textBytes 16 + (decl 1 0 0).anchors = 0 ∧
    (decl 1 2 1).entries + ceilDiv (decl 1 2 1).textBytes 16 + (decl 1 2 1).anchors = 4 ∧
    (crowded [3, 23] [⟨0, 3⟩, ⟨9, 4⟩]).titles.free = [⟨0, 3⟩] ++ ⟨9, 4⟩ :: [] :=
  ⟨decl_fits 1 _ _ (by decide) (by decide), decl_in_range 1 _ _ (by decide) (by decide),
    decl_fits 1 _ _ (by decide) (by decide), decl_in_range 1 _ _ (by decide) (by decide), by decide +kernel⟩

/-- Texts of 96 and 97 bytes; one cut within a character, one with four continuation bytes at its end. -/
theorem test_meets_CutTextEndsOnCharacter :
    (List.replicate 96 (65 : Byte)).length ≤ 96 ∧ 96 < (List.replicate 97 (65 : Byte)).length ∧
    (let x : List Byte := List.replicate 95 65 ++ [0xC3, 0xA9]
     96 < x.length ∧ isContinuation (x.getD (95 - 0) 0) = false) ∧
    (let x : List Byte := List.replicate 92 65 ++ [0xF0, 0x80, 0x80, 0x80, 0x80]
     96 < x.length ∧ (∀ k, k < 3 → isContinuation (x.getD (95 - k) 0) = true) ∧
       isContinuation (x.getD (95 - 3) 0) = false) ∧
    (let x : List Byte := List.replicate 97 0x80
     96 < x.length ∧ ∀ k, k < 4 → isContinuation (x.getD (95 - k) 0) = true) := by
  decide +kernel

/-- The small title in LOADING, with one entry in each track of two, and `fill` text bytes received. -/
def loading (fill : Nat) : State :=
  let s := withTitle .loading
  { s.setTitle 0 { title .loading with
      fill := fill
      tracks := [⟨.caption, eng, 2, 1, 0, 5, 0⟩, ⟨.description, eng, 2, 1, 2, 6, 0⟩] } with
    loader := { LoaderBlock.reset with ctx := setAt LoaderBlock.reset.ctx 0 (.loading 0) } }

theorem loading_laid_out : laidOut ((loading 5).title 0) := by
  refine ⟨by decide +kernel, by decide +kernel, by decide +kernel, ?_⟩
  have h : ((loading 5).title 0).tracks = [⟨.caption, eng, 2, 1, 0, 5, 0⟩, ⟨.description, eng, 2, 1, 2, 6, 0⟩] := by
    decide +kernel
  have e : ((loading 5).title 0).entries = 4 ∧ ((loading 5).title 0).textBytes = 16 ∧
      ((loading 5).title 0).state = .loading := by
    decide +kernel
  rw [h, e.1, e.2.1, e.2.2]
  intro i tr hi
  match i with
  | 0 => cases hi; decide +kernel
  | 1 => cases hi; decide +kernel
  | n + 2 => simp at hi

/-- A caption and a description at the start of the entry before, and texts that just fit and just do not. -/
theorem test_meets_EntriesAreStored :
    loadPort (.feed 0) = some 0 ∧ (loading 5).owing (.feed 0) = false ∧ ((loading 5).title 0).state = .loading ∧
    ((loading 5).title 0).loader = some 0 ∧
    ((loading 5).title 0).tracks[(0 : TrackNo).val]? = some ⟨.caption, eng, 2, 1, 0, 5, 0⟩ ∧
    ((loading 5).title 0).tracks[(1 : TrackNo).val]? = some ⟨.description, eng, 2, 1, 2, 6, 0⟩ ∧
    entryStart (loading 5).titles.cue ((loading 5).title 0) ⟨.caption, eng, 2, 1, 0, 5, 0⟩ (1 - 1) ≤ 100 ∧
    entryStart (loading 5).titles.cue ((loading 5).title 0) ⟨.description, eng, 2, 1, 2, 6, 0⟩ (1 - 1) ≤ 96 ∧
    ((loading 5).title 0).fill + (prepareText (List.replicate 11 65)).1.length ≤ ((loading 5).title 0).textBytes ∧
    ((loading 5).title 0).textBytes < ((loading 5).title 0).fill + (prepareText (List.replicate 12 65)).1.length := by
  decide +kernel

theorem test_meets_EntriesAreStored_forms :
    laidOut ((loading 5).title 0) ∧
      entryFits .caption (.caption 100 65535 3 (List.replicate 11 65)) ∧
      entryFits .description (.description 96 192 (1023 + 4096 * 4095) 15) := by
  refine ⟨loading_laid_out, ⟨rfl, ?_⟩, ⟨rfl, ?_⟩⟩ <;> decide

theorem test_meets_ChunkIsTakenInOrder :
    (∀ x ∈ RawEntry.caption 100 1 0 [65] :: List.replicate 15 (.caption 300 1 0 []), entryFits .caption x) ∧
      (List.replicate 15 (RawEntry.caption 300 1 0 [])).length < 16 ∧
      ([byte 1, byte 0, byte 16] ++
        (RawEntry.caption 100 1 0 [65] :: List.replicate 15 (.caption 300 1 0 [])).flatMap entryBytes).length ≤ 1024 := by
  refine ⟨?_, by decide, by decide +kernel⟩
  intro x hx
  rcases List.mem_cons.mp hx with rfl | hx
  · exact ⟨rfl, by decide⟩
  · rw [(List.mem_replicate.mp hx).2]
    exact ⟨rfl, by decide⟩

/-- Each failure at the first value that fails: the track number, n_decl, the bits of a caption, the level of a
description, a start one tick early, a text byte too many, and the idle time. -/
theorem test_meets_LoadFailsWithReason :
    (loading 5).loader.ctx[(0 : LoadPort)] = .loading 0 ∧ ((loading 5).title 0).tracks.length ≤ (2 : Byte).toNat ∧
    (((withTitle .loading).title 0).tracks[(0 : TrackNo).val]? = some ⟨.caption, eng, 2, 2, 0, 5, 0⟩) ∧
    (let early : RawEntry := .caption 99 1 3 []
     early.start < entryStart (loading 5).titles.cue ((loading 5).title 0) ⟨.caption, eng, 2, 1, 0, 5, 0⟩ (1 - 1)) ∧
    ¬((4 : Nat) < 4) ∧ ¬((16 : Nat) ≤ 15 ∧ (0 : Nat) / 1024 % 4 = 0) ∧ ¬((15 : Nat) ≤ 15 ∧ (1024 : Nat) / 1024 % 4 = 0) ∧
    (let s := { loading 5 with
      clock := { ClockBlock.reset with h := 36000 }
      due := { Due.reset with idle := setAt Due.reset.idle 0 true } }
     s.due.idle[(0 : TitleNo)] = true ∧ 1200 * s.loader.idleTime ≤ (s.clock.h - (s.title 0).lastActivity).toNat) := by
  decide +kernel

/-- The small title in FINISHING, its context with it. -/
def finishing : State :=
  { withTitle .finishing with loader := { LoaderBlock.reset with ctx := setAt LoaderBlock.reset.ctx 0 (.finishing 0) } }

theorem test_meets_LoadFinishAndAbort :
    ([0, 0] : List Byte).length < 3 ∧ ((0 : Byte) = 0 ∧ 24 < (25 : Byte).toNat) ∧ (State.reset.title 23).state = .free ∧
    (((loading 5).title 0).state ≠ .free ∧ ((loading 5).title 0).loader ≠ loadPort .m) ∧
    (((loading 5).title 0).state = .loading ∧ (loading 5).loader.ctx[(0 : LoadPort)] = .loading 0) ∧
    ((finishing.title 0).state = .finishing ∧ (finishing.title 0).loader = some 0 ∧
      finishing.loader.ctx[(0 : LoadPort)] = .finishing 0) ∧
    (((withTitle .ready).title 0).state = .ready ∧ ((withTitle .ready).title 0).loader = some 0) := by
  decide +kernel

/-- One entry promised and none sent; seventeen entries sent. -/
theorem test_meets_LoadFinishAndAbort_counts :
    ((loading 5).title 0).state ≠ .free ∧
    (¬∃ es : List RawEntry, es.length = (1 : Byte).toNat ∧ (∀ e ∈ es, entryFits .caption e) ∧ [] = es.flatMap entryBytes) ∧
    (∃ es : List RawEntry, es.length = (17 : Byte).toNat ∧ (∀ e ∈ es, entryFits .caption e) ∧
      (List.replicate 17 (RawEntry.caption 300 1 0 [])).flatMap entryBytes = es.flatMap entryBytes) ∧
    ((List.replicate 17 (RawEntry.caption 300 1 0 [])).flatMap entryBytes).length ≤ 1021 ∧
    16 < (17 : Byte).toNat := by
  refine ⟨by decide +kernel, ?_, ⟨List.replicate 17 (.caption 300 1 0 []), rfl, ?_, rfl⟩, by decide +kernel, by decide⟩
  · rintro ⟨es, hl, -, he⟩
    match es, hl with
    | [.caption start dur bits text], _ => simp [entryBytes] at he
    | [.description start dur clipBlock level], _ => simp [entryBytes] at he
  · intro e he
    rw [(List.mem_replicate.mp he).2]
    exact ⟨rfl, by decide⟩

/-- A LOAD.DATA of seventeen entries is taken: it sets the last activity, and the load goes on. -/
theorem test_seventeen_entries :
    let s := { loading 5 with clock := { ClockBlock.reset with h := 9 } }
    let t := after (.loadData ⟨.feed 0, 4, [1, 0, 17] ++
      (List.replicate 17 (RawEntry.caption 300 1 0 [])).flatMap entryBytes⟩) s
    owed (.feed 0) t = some ⟨7, 4, .range, false, []⟩ ∧ (t.title 0).state = .loading ∧ (t.title 0).lastActivity = 9 := by
  decide +kernel

theorem finishing_laid_out : laidOut (finishing.title 0) := by
  refine ⟨by decide +kernel, by decide +kernel, by decide +kernel, ?_⟩
  have h : (finishing.title 0).tracks = [⟨.caption, eng, 2, 2, 0, 5, 0⟩, ⟨.description, eng, 2, 2, 2, 6, 0⟩] := by
    decide +kernel
  have e : (finishing.title 0).entries = 4 ∧ (finishing.title 0).textBytes = 16 ∧
      (finishing.title 0).state = .finishing := by
    decide +kernel
  rw [h, e.1, e.2.1, e.2.2]
  intro i tr hi
  match i with
  | 0 => cases hi; decide +kernel
  | 1 => cases hi; decide +kernel
  | n + 2 => simp at hi

theorem test_meets_FinishingCompletes :
    laidOut (finishing.title 0) ∧ [7].Pairwise (· < ·) ∧ ([7] : List Nat).length ≤ 256 ∧
      ∀ c, c ∈ [7] ↔ namesClip finishing.titles.cue (finishing.title 0) c := by
  refine ⟨finishing_laid_out, by decide, by decide, ?_⟩
  have h : (finishing.title 0).tracks = [⟨.caption, eng, 2, 2, 0, 5, 0⟩, ⟨.description, eng, 2, 2, 2, 6, 0⟩] := by
    decide +kernel
  have e : ∀ k, k < 2 →
      (descEntry finishing.titles.cue (finishing.title 0) ⟨.description, eng, 2, 2, 2, 6, 0⟩ k).clip = 7 := by
    decide +kernel
  intro c
  constructor
  · intro hc
    rw [List.mem_singleton.mp hc]
    exact ⟨1, _, 0, by rw [h]; rfl, rfl, by decide, e 0 (by decide)⟩
  · rintro ⟨i, tr, k, hi, hd, hk, hc⟩
    rw [h] at hi
    match i with
    | 0 => cases hi; cases hd
    | 1 => cases hi; rw [← hc, e k hk]; decide
    | n + 2 => simp at hi

/-- Byte `a` of a cue store whose slot k is a description entry naming clip k. -/
def manyByte (a : Nat) : Byte := if a % 16 = 5 then byte (a / 16) else if a % 16 = 6 then byte (a / 16 / 256) else 0

/-- A FINISHING title of one description track whose 257 entries name clips 0 to 256. -/
def manyClips : State :=
  { State.reset with
    titles := {
      recs := setAt TitleBlock.reset.recs 0 { Title.free with
        state := .finishing, loader := some 0, count := 266, tracks := [⟨.description, eng, 257, 257, 0, 257, 0⟩] }
      free := [⟨266, 130806⟩]
      cue := Memory.write cueEmpty [] 0 ((List.range 4112).map manyByte) }
    loader := { LoaderBlock.reset with ctx := setAt LoaderBlock.reset.ctx 0 (.finishing 0) } }

theorem manyClips_clip (k : Nat) (h : k < 257) :
    (descEntry manyClips.titles.cue (manyClips.title 0) ⟨.description, eng, 257, 257, 0, 257, 0⟩ k).clip = k := by
  have r : ∀ a, a < 4112 → Memory.read cueEmpty manyClips.titles.cue a = manyByte a := by
    intro a ha
    have := Memory.read_write_inside (d := cueEmpty) (m := []) (a := 0) (bs := (List.range 4112).map manyByte) a
      (by simpa using ha)
    simpa [manyClips] using this
  have r5 := r (16 * k + 5) (by omega)
  have r6 := r (16 * k + 6) (by omega)
  have r7 := r (16 * k + 7) (by omega)
  have e : (entrySlot (manyClips.title 0) ⟨.description, eng, 257, 257, 0, 257, 0⟩ k) * 16 = 16 * k := by
    have : (manyClips.title 0).base = 0 := rfl
    simp only [entrySlot, this]; omega
  have h5 : (16 * k + 5) % 16 = 5 := by omega
  have h6 : (16 * k + 6) % 16 = 6 := by omega
  have h7 : (16 * k + 7) % 16 = 7 := by omega
  have d5 : (16 * k + 5) / 16 = k := by omega
  have d6 : (16 * k + 6) / 16 = k := by omega
  simp only [manyByte, h5, h6, h7, d5, d6] at r5 r6 r7
  simp only [descEntry, slotAt, Config.slotBytes, e, field, Memory.readRun, List.drop_succ_cons, List.drop_zero,
    List.take_succ_cons, List.take_zero, Nat.add_assoc, Nat.reduceAdd, r5, r6, r7]
  simp [leVal, clipOf, byte]
  omega

theorem test_meets_FinishingCompletes_overflow :
    (manyClips.title 0).state = .finishing ∧ manyClips.loader.ctx[(0 : LoadPort)] = .finishing 0 ∧
    (List.range 257).Nodup ∧ (List.range 257).length = 257 ∧
      ∀ c ∈ List.range 257, namesClip manyClips.titles.cue (manyClips.title 0) c :=
  ⟨by decide +kernel, by decide +kernel, List.nodup_range, List.length_range, fun c hc =>
    ⟨0, _, c, rfl, rfl, List.mem_range.mp hc, manyClips_clip c (List.mem_range.mp hc)⟩⟩

theorem test_meets_UnloadReleasesTitle :
    ((Port.m = .m) ∧ ∃ n, Port.feed 3 = .feed n) ∧ (State.reset.title 23).state = .free ∧
    ((withTitle .loading).title 0).loader ≠ loadPort (.feed 1) ∧ ((withTitle .loading).title 0).state ≠ .ready ∧
    ((playing .held 0).title 0).refs ≠ 0 ∧
    (let s := (withTitle .ready).setTitle 0 { title .ready with refs := 0 }
     (s.title 0).state = .ready ∧ (s.title 0).loader = loadPort (.feed 0) ∧ (s.title 0).refs = 0 ∧
       ∀ p : LoadPort, s.loader.ctx[p] = .closed) := by
  decide +kernel

theorem test_meets_UnloadReleasesTitle_contexts :
    LoadLaw ((withTitle .ready).setTitle 0 { title .ready with refs := 0 }) := by
  intro p
  have h : ∀ p : LoadPort, ((withTitle .ready).setTitle 0 { title .ready with refs := 0 }).loader.ctx[p] = .closed := by
    decide +kernel
  rw [h p]
  trivial

/-! Shows and receivers. -/

theorem test_meets_AssignmentsSetTheMaps :
    State.reset.owing .m = false ∧ State.reset.shows[(15 : Aud)].airPort = none ∧
      State.reset.shows[(15 : Aud)].airPort ≠ some (1 : Fin 2) ∧ 15 < (16 : Byte).toNat ∧
      (3 < (4 : Byte).toNat ∧ (4 : Byte) ≠ 255) ∧ ((3 : Byte) ≠ 4 ∧ (3 : Byte) ≠ 5 ∧ (3 : Byte) ≠ 255) := by
  decide +kernel

theorem test_meets_ArmBindsTheAuditorium :
    ((playing .dark 0).owing (.feed 0) = false ∧ (playing .dark 0).shows[(2 : Aud)].feedOwner = some 0 ∧
      (playing .dark 0).shows[(2 : Aud)].state = .dark ∧ ((playing .dark 0).title 0).state = .ready) ∧
    ¬armConflicts (playing .dark 0) ((playing .dark 0).title 0).clips := by
  refine ⟨by decide +kernel, ?_⟩
  rintro ⟨c, sector, -, ⟨st, block, data, check, h, -⟩ | ⟨st, h⟩, -⟩ <;> cases h

theorem test_meets_RunAndHoldFollowTheirTables :
    15 < (16 : Byte).toNat ∧ State.reset.shows[(15 : Aud)].feedOwner ≠ some (0 : Fin 4) ∧
    ∀ x ∈ [ShowState.dark, .armed, .running, .held, .freewheel, .lost], (playing x 0).owing (.feed 0) = false ∧
      (playing x 0).shows[(2 : Aud)].feedOwner = some 0 ∧ (playing x 0).shows[(2 : Aud)].state = x := by
  decide +kernel

theorem test_meets_DarkenReleasesTheAuditorium :
    ((playing .dark 0).owing .m = false ∧ (playing .dark 0).shows[(2 : Aud)].state = .dark) ∧
    ((playing .lost 0).owing (.feed 0) = false ∧ (playing .lost 0).shows[(2 : Aud)].feedOwner = some 0 ∧
      (playing .lost 0).shows[(2 : Aud)].state ≠ .dark ∧ (playing .lost 0).shows[(2 : Aud)].title = some 0 ∧
      isKind (playing .lost 0) .description 2 1 = true ∧ 1 ≤ (playing .lost 0).rcv.counts[(2 : Aud)][(1 : TrackNo)]) := by
  decide +kernel

/-- The playing auditorium with every record BOUND in it, record `i` with id `i + 1`. -/
def fullHouse : State :=
  let s := playing .running 0
  { s with rcv := { s.rcv with recs := Vector.ofFn fun i => { Receiver.free with
      bound := true, id := BitVec.ofNat 32 (i.val + 1), airPort := some 0, aud := 2 } } }

theorem playing_recs (x : ShowState) (n : Nat) (j : RecNo) (h : j ≠ 0) : (playing x n).rcv.recs[j] = Receiver.free := by
  show (setAt ReceiverBlock.reset.recs 0 _)[j] = _
  rw [setAt_other _ _ (fun e => h e.symm)]
  simp [ReceiverBlock.reset]

theorem playing_unknown (x : ShowState) (n : Nat) (j : RecNo) :
    ¬((playing x n).rcv.recs[j].bound = true ∧ (playing x n).rcv.recs[j].id = 10) := by
  by_cases h : j = 0
  · subst h
    show ¬(true = true ∧ (9 : BitVec 32) = 10)
    decide
  · rw [playing_recs x n j h]
    decide

theorem fullHouse_recs (j : RecNo) : fullHouse.rcv.recs[j].bound = true ∧ fullHouse.rcv.recs[j].id ≠ 513 := by
  have e : fullHouse.rcv.recs[j] = { Receiver.free with
      bound := true, id := BitVec.ofNat 32 (j.val + 1), airPort := some 0, aud := 2 } := by
    simp [fullHouse]
  rw [e]
  refine ⟨rfl, fun h => ?_⟩
  have h2 : (BitVec.ofNat 32 (j.val + 1)).toNat = 513 := congrArg BitVec.toNat h
  rw [BitVec.toNat_ofNat] at h2
  omega

theorem test_meets_HelloBindsOrMoves :
    ((playing .running 0).owing (.air 0) = false ∧ ((0 : BitVec 32) = 0 ∧ 15 < 16) ∧
      State.reset.shows[(15 : Aud)].airPort ≠ some (0 : Fin 2) ∧
      (playing .running 0).shows[(2 : Aud)].airPort = some 0) ∧
    ((playing .running 0).rcv.recs[(0 : RecNo)].bound = true ∧ (playing .running 0).rcv.recs[(0 : RecNo)].id = 9) ∧
    (∀ j : RecNo, ¬((playing .running 0).rcv.recs[j].bound = true ∧ (playing .running 0).rcv.recs[j].id = 10)) ∧
    ((playing .running 0).rcv.recs[(1 : RecNo)].bound = false ∧
      ∀ k : RecNo, k < 1 → (playing .running 0).rcv.recs[k].bound = true) ∧
    (∀ j : RecNo, fullHouse.rcv.recs[j].bound = true) ∧
    ∀ j : RecNo, ¬(fullHouse.rcv.recs[j].bound = true ∧ fullHouse.rcv.recs[j].id = 513) := by
  refine ⟨by decide +kernel, by decide +kernel, playing_unknown _ _, ⟨by decide +kernel, fun k hk => ?_⟩,
    fun j => (fullHouse_recs j).1, fun j h => (fullHouse_recs j).2 h.2⟩
  obtain rfl : k = 0 := by
    apply Fin.ext
    have h : k.val < 1 := hk
    show k.val = 0
    omega
  rfl

theorem test_meets_ChooseAliveAndBye :
    ((playing .running 0).owing (.air 0) = false ∧ (playing .running 0).owing (.air 1) = false) ∧
    (∀ k ∈ [ItemKind.choose, .alive, .bye], k ≠ .hello) ∧
    (∀ l, (some eng = some l ∨ (none : Option Lang) = some l) → langOf l.bytes = some l) ∧
    (∀ j : RecNo, ¬((playing .running 0).rcv.recs[j].bound = true ∧ (playing .running 0).rcv.recs[j].id = 10)) ∧
    (prefOf [0, 0, 97] = none ∧ prefOf [97, 98, 99] = some (some ⟨97, 98, 99⟩)) ∧
    ((playing .running 0).rcv.recs[(0 : RecNo)].bound = true ∧ (playing .running 0).rcv.recs[(0 : RecNo)].id = 9 ∧
      (playing .running 0).rcv.recs[(0 : RecNo)].airPort = some 0 ∧
      (playing .running 0).rcv.recs[(0 : RecNo)].airPort ≠ some (1 : Fin 2)) := by
  refine ⟨by decide +kernel, by decide, ?_, playing_unknown _ _, by decide, by decide +kernel⟩
  rintro l (h | h)
  · cases h; decide
  · cases h

theorem test_meets_ReportAnswersEachItem :
    (∀ x ∈ List.replicate 16 (List.replicate 12 (4 : Byte)), x.length = 12) ∧
    (List.replicate 16 (List.replicate 12 (4 : Byte))).length ≤ 16 ∧
    ((List.replicate 13 (0 : Byte)).length % 12 ≠ 0) ∧ ((List.replicate 204 (0 : Byte)).length % 12 = 0 ∧
      192 < (List.replicate 204 (0 : Byte)).length) ∧ 3 < (4 : Byte).toNat := by
  decide +kernel

/-! Cue location. -/

/-- The caption track of the small title. -/
def captions : TitleTrack := ⟨title .ready, ⟨.caption, eng, 2, 2, 0, 5, 1⟩⟩

/-- The playing auditorium with its caption cursor on entry 1, placed at 150. -/
def cursored : State :=
  let s := playing .running 150
  { s with cues := s.cues.setCursor 2 0 ⟨true, 1, 150⟩ }

theorem test_meets_LookupFindsLowestEntry :
    (playing .running 0).shows[(2 : Aud)].title = some 0 ∧ trackOf (playing .running 0) 2 0 = some captions ∧
    TrackSound (playing .running 0).titles.cue captions := by
  refine ⟨by decide +kernel, by decide +kernel, ?_, by decide +kernel, ?_⟩
  · intro i j hij hj
    have hj : j < 2 := hj
    obtain ⟨rfl, rfl⟩ : i = 0 ∧ j = 1 := by omega
    decide +kernel
  · intro k hk
    have hk : k < 1 := hk
    obtain rfl : k = 0 := by omega
    decide +kernel

/-- A valid cursor, met backward at 149 and forward at 150; no way of the reset cache holds a key. -/
theorem test_meets_LookupFindsLowestEntry_cursor :
    cursored.cues.cursors[(2 : Aud)][(0 : TrackNo)] = ⟨true, 1, 150⟩ ∧ 1 ≤ captions.track.n ∧
    (∀ j, j < 1 → entryEnd cursored.titles.cue captions.title captions.track j ≤ 150) ∧
    ∀ (i : Fin 16) (w : Fin 4), cursored.cues.sets[i].ways[w].holds (handle 0) 0 (149 / 2048) = false := by
  decide +kernel

/-- A set with its ways as given and its bits clear. -/
def ways (l : Vector Way 4) : CacheSet := { CacheSet.clear with ways := l }

theorem test_meets_PositionCacheFollowsItsRules :
    (let s := ways (setAt CacheSet.clear.ways 2 ⟨true, 1, 0, 0, 1⟩)
     s.ways[(2 : Fin 4)].valid = true ∧ s.ways[(2 : Fin 4)].handle = 0 + 1 ∧ s.ways[(2 : Fin 4)].track = 0 ∧
       s.ways[(2 : Fin 4)].bucket = 2047 / 2048 ∧ ∀ v : Fin 4, v < 2 → s.ways[v].valid = false) ∧
    (let s := ways (setAt CacheSet.clear.ways 0 ⟨true, 2, 0, 0, 1⟩)
     s.ways[(1 : Fin 4)].valid = false ∧ (∀ v : Fin 4, v < 1 → s.ways[v].valid = true) ∧
       ∀ v : Fin 4, ¬(s.ways[v].valid = true ∧ s.ways[v].handle = 1)) ∧
    (∀ v : Fin 4, (ways (fillTable 4 ⟨true, 2, 0, 0, 1⟩)).ways[v].valid = true) ∧
    State.reset.owing .m = false ∧
    (24 < (25 : Byte).toNat ∧ 7 < (8 : Byte).toNat ∧ 8191 < 8192) ∧
      (1 ≤ (24 : Byte).toNat ∧ (24 : Byte).toNat ≤ 24 ∧ (7 : Byte).toNat ≤ 7 ∧ 8191 ≤ 8191) := by
  decide +kernel

/-! Payloads. -/

theorem playing_settings (x : ShowState) (n : Nat) : SettingsLaw (playing x n) := by
  refine ⟨show (5 ≤ 30 ∧ 30 ≤ 120) by decide, show (10 ≤ 60 ∧ 60 ≤ 600) by decide, show (60 ≤ 360 ∧ 360 ≤ 2400) by decide,
    ?_, ?_, ?_⟩
  · intro a
    have h : (playing x n).clock.auds[a].jump = 600 ∧ (playing x n).clock.auds[a].gain = 16 ∧
        (playing x n).clock.auds[a].interval = 1200 := by
      by_cases ha : a = 2
      · subst ha; exact ⟨rfl, rfl, rfl⟩
      · have : (playing x n).clock.auds[a] = AudClock.reset := by
          show (setAt ClockBlock.reset.auds 2 _)[a] = _
          rw [setAt_other _ _ (fun e => ha e.symm)]
          simp [ClockBlock.reset]
        rw [this]; exact ⟨rfl, rfl, rfl⟩
    rw [h.1, h.2.1, h.2.2]
    decide
  · have h : ∀ p : Fin 2, State.reset.frame.air[p] = AirParams.reset := by decide +kernel
    intro p
    show State.reset.frame.air[p].lead ≤ 2400 ∧ _
    rw [show (playing x n).frame.air[p] = AirParams.reset from h p, h p]
    decide
  · have h : ∀ p, (playing x n).port p = PortLink.reset := by
      intro p
      show LinkBlock.reset.ports[portIx p] = _
      simp [LinkBlock.reset]
    intro p
    rw [h p]
    exact ⟨by decide, fun v hv => by cases hv⟩

theorem test_meets_PayloadKeepsItsLaw :
    (playing .running 0).owing (.air 0) = false ∧ (playing .running 0).shows[(2 : Aud)].airPort = some 0 ∧
      SettingsLaw (playing .running 0) :=
  ⟨by decide +kernel, by decide +kernel, playing_settings _ _⟩

theorem test_meets_PullOfAStoppedShow :
    15 < (16 : Byte).toNat ∧ (playing .dark 0).shows[(15 : Aud)].airPort ≠ some (0 : Fin 2) ∧
    (∀ x ∈ [ShowState.dark, .armed, .lost], (playing x 0).owing (.air 0) = false ∧
      (playing x 0).shows[(2 : Aud)].airPort = some 0 ∧ (playing x 0).shows[(2 : Aud)].state = x) ∧
    SettingsLaw (playing .lost 0) :=
  ⟨by decide, by decide +kernel, by decide +kernel, playing_settings _ _⟩

/-- The playing auditorium with one subscribed track alone. -/
def solo (x : ShowState) (v : TrackNo) : State :=
  let s := playing x 0
  { s with rcv := { s.rcv with counts := setAt s.rcv.counts 2 (setAt (fillTable 8 0) v 1) } }

/-- The lead takes the airing instant to 120, in the caption that starts at 100; nothing has been sent, or the caption
has, with its countdown at 2 or at 1, which the PULL lowers first. -/
theorem test_meets_PullSendsTheCaption :
    (∀ x ∈ [ShowState.held, .running, .freewheel], (solo x 0).owing (.air 0) = false ∧
      (solo x 0).shows[(2 : Aud)].airPort = some 0 ∧ (solo x 0).shows[(2 : Aud)].state = x ∧
      (∀ w, isSubscribed (solo x 0) .description 2 w = false) ∧
      (∀ w, isSubscribed (solo x 0) .caption 2 w = true ↔ w = 0) ∧ trackOf (solo x 0) 2 0 = some captions) ∧
    (let r := lookup (solo .held 0) 2 0 (min ((solo .held 0).clock.auds[(2 : Aud)].pos / 65536 + 120) 16777215)
     r.1 = ⟨0, true⟩ ∧ (pulled (solo .held 0) 2).frame.auds[(2 : Aud)].sent[(0 : TrackNo)] ≠ .entry 0 ∧
       ∀ k ∈ [2, 1],
         let f := (pulled ((solo .held 0).modFrame 2 fun f =>
           { f with sent := setAt f.sent 0 (.entry 0), countdown := setAt f.countdown 0 k }) 2).frame.auds[(2 : Aud)]
         f.sent[(0 : TrackNo)] = .entry 0 ∧ f.countdown[(0 : TrackNo)] = k - 1) := by
  decide +kernel

/-- What a PULL of auditorium 2 on A0 fixes. -/
def pullOf2 : PullContext := ⟨2, 0, 120, 240, 8⟩

/-- A caption of 13 bytes, with 13 and 12 bytes of room; two tracks looked at, in repeat order from rotation index 7. -/
theorem test_meets_PullSendsTheCaption_offers :
    trackOf (solo .held 0) pullOf2.aud 0 = some captions ∧
    (captionBytes (solo .held 0).titles.cue captions 0 ⟨0, true⟩ false).length = 13 ∧
    (captionBytes (solo .held 0).titles.cue captions 0 ⟨0, true⟩ true).length = 13 ∧
    (solo .held 0).frame.auds[(2 : Aud)].sent[(0 : TrackNo)] ≠ .entry 0 ∧
    (let looks : List CaptionLook := [⟨0, ⟨0, true⟩, false⟩, ⟨7, ⟨0, true⟩, false⟩]
     looks.Pairwise (fun l m => l.track ≠ m.track) ∧ (candidates pullOf2 (solo .held 0) looks).map (·.track) = [0, 7]) := by
  decide +kernel

theorem test_meets_PullSendsTheCaption_settings : SettingsLaw (solo .held 0) := playing_settings .held 0

/-- The playing auditorium with its description track alone, served by stream 3 with the ring given. -/
def served (ring : List RingPos) : State :=
  let s := solo .running 1
  { s with stream := { s.stream with
      entries := setAt s.stream.entries 3 { Stream.reset with alloc := true, aud := 2, track := 1, ring := ring } } }

/-- A ring position at play time `n`. -/
def slotAtTime (n : Nat) (x : RingState) : RingPos := ⟨n, x, 7, 0, 16, 3⟩

/-- The airing instant is 120, the window 240: play times 24 and 25 lie on either side of late, 359 and 360 on either
side of due. -/
theorem test_meets_PullSendsTheBlock :
    (∀ w, isSubscribed (solo .running 1) .caption 2 w = false) ∧
    (∀ w, isSubscribed (solo .running 1) .description 2 w = true ↔ w = 1) ∧
    (solo .running 1).owing (.air 0) = false ∧ (solo .running 1).shows[(2 : Aud)].airPort = some 0 ∧
    (∀ x ∈ [25, 359], ∀ st ∈ [RingState.present zeros, .outstanding, .bad, .silent],
      let s := served [slotAtTime 24 .bad, slotAtTime x st, slotAtTime 360 .outstanding]
      s.stream.streamOf 2 1 = some 3 ∧
      s.stream.entries[(3 : StreamNo)].ring = [slotAtTime 24 .bad] ++ slotAtTime x st :: slotAtTime 360 .outstanding :: [] ∧
      24 + 96 ≤ 120 ∧ 120 < x + 96 ∧ x < 120 + 240 ∧ 120 + 240 ≤ 360 ∧
      (blockSection 1 (slotAtTime x st)).length + 12 ≤ s.frame.air[(0 : Fin 2)].capacity) ∧
    512 < (blockSection 1 (slotAtTime 25 (.present zeros))).length + 12 ∧
    ((solo .running 1).stream.streamOf 2 1 = none ∧
      ((solo .running 1).stream.mark 2 1 true).isUnserved 2 1 = true) := by
  decide +kernel

/-- Rings with no position, with one that is late, and with one that is due or not; a SILENCE of 8 bytes, with 8 and 7
bytes of room; a track that has no stream. -/
theorem test_meets_PullSendsTheBlock_offers :
    (∀ x ∈ [ShowState.running, .freewheel, .held], (solo x 1).owing (.air 0) = false ∧
      (solo x 1).shows[(2 : Aud)].airPort = some 0 ∧ (solo x 1).shows[(2 : Aud)].state = x) ∧
    pullOf2.sair ≤ 16777215 ∧
    ((served []).stream.streamOf pullOf2.aud 1 = some 3 ∧ (served []).stream.entries[(3 : StreamNo)].ring = []) ∧
    (∀ late ∈ [[], [slotAtTime 24 .bad]], ∀ x ∈ [359, 360],
      let s := served (late ++ [slotAtTime x .outstanding])
      s.stream.entries[(3 : StreamNo)].ring = late ++ [slotAtTime x .outstanding] ∧
      (∀ z ∈ late, z.play + 96 ≤ pullOf2.sair) ∧ pullOf2.sair < x + 96 ∧ (x < pullOf2.sair + pullOf2.window ↔ x = 359)) ∧
    (blockSection 1 (slotAtTime 359 .outstanding)).length = 8 ∧
    ((solo .running 1).stream.streamOf pullOf2.aud 1 = none ∧
      (solo .running 1).stream.unserved[pullOf2.aud][(1 : TrackNo)] = false ∧
      ((solo .running 1).stream.mark 2 1 true).unserved[pullOf2.aud][(1 : TrackNo)] = true) := by
  decide +kernel

/-! Streams. -/

/-- Streams 0 to `n - 1` taken by auditorium 0. -/
def taken (n : Nat) : State :=
  { State.reset with stream := { StreamBlock.reset with
      entries := Vector.ofFn fun i => { Stream.reset with alloc := decide (i.val < n) } } }

/-- Auditorium 0's track 0 has every stream but the last, or every one; it is released with no track waiting, and with
one of auditorium 15 waiting. -/
theorem test_meets_StreamsAreGrantedAndReleased :
    ((taken 23).stream.entries[(23 : StreamNo)].alloc = false ∧
      ∀ j : StreamNo, j < 23 → (taken 23).stream.entries[j].alloc = true) ∧
    (∀ i : StreamNo, (taken 24).stream.entries[i].alloc = true) ∧
    ((taken 24).stream.mark 0 0 true).unserved[(0 : Aud)][(0 : TrackNo)] = true ∧
    ((taken 24).stream.unserved[(0 : Aud)][(0 : TrackNo)] = false ∧ (taken 24).stream.streamOf 0 0 = some 0 ∧
      ∀ (b : Aud) (w : TrackNo), ¬((taken 24).stream.unserved[b][w] = true ∧ 1 ≤ (taken 24).rcv.counts[b][w])) ∧
    (let s := { taken 24 with
      stream := (taken 24).stream.mark 15 7 true
      rcv := { ReceiverBlock.reset with counts := setAt ReceiverBlock.reset.counts 15 (fillTable 8 1) } }
     s.stream.unserved[(15 : Aud)][(7 : TrackNo)] = true ∧ 1 ≤ s.rcv.counts[(15 : Aud)][(7 : TrackNo)] ∧
     s.stream.unserved[(0 : Aud)][(0 : TrackNo)] = false ∧ s.stream.streamOf 0 0 = some 0 ∧
       ∀ (b : Aud) (w : TrackNo), s.stream.unserved[b][w] = true ∧ 1 ≤ s.rcv.counts[b][w] →
         (15 : Aud) < b ∨ ((15 : Aud) = b ∧ (7 : TrackNo) ≤ w)) := by
  decide +kernel

/-- Stream 3 with its next block, of clip 7, which has blocks 0 to 3, or is not defined, and `n` records in the pool. -/
def filling (isDefined : Bool) (n : Nat) : State :=
  let s := served []
  { s with
    stream := { s.stream with
      entries := setAt s.stream.entries 3 { s.stream.entries[(3 : StreamNo)] with next := some (0, 1) }
      pool := List.replicate n ⟨5, 9, 0, 0, 0⟩ }
    store := { s.store with directory := setAt s.store.directory 7 (if isDefined then ⟨true, 16, 4⟩ else ⟨false, 0, 0⟩) } }

theorem test_meets_FillMakesThePosition :
    ∀ x ∈ [(true, 31), (true, 32), (false, 0)],
      let s := filling x.1 x.2
      let st := s.stream.entries[(3 : StreamNo)]
      let tt : TitleTrack := ⟨title .ready, ⟨.description, eng, 2, 2, 2, 6, 1⟩⟩
      let d := descEntry s.titles.cue tt.title tt.track 0
      let sair := min (s.clock.auds[st.aud].pos / 65536 + lead s st.aud) 16777215
      st.alloc = true ∧ st.next = some (0, 1) ∧ trackOf s st.aud st.track = some tt ∧ st.ring.length < 8 ∧
        sair < d.start + 96 * (1 - d.first) + 96 ∧ d.clip = 7 ∧ d.first ≤ 1 ∧
        s.store.directory[(7 : ClipNo)].defined = x.1 ∧ s.stream.pool.length = x.2 ∧
        1 < d.first + min (ceilDiv d.dur 96) (4 - d.first) ∧ 1 < d.first + min (ceilDiv d.dur 96) (4096 - d.first) ∧
        s.stream.stats[st.aud].silent ≠ 65535 := by
  decide +kernel

/-- The description track of the small title. -/
def descriptions : TitleTrack := ⟨title .ready, ⟨.description, eng, 2, 2, 2, 6, 1⟩⟩

/-- Block 1 is the last that entry 0 supplies: block 2 of entry 1, its first, comes next. -/
theorem filling_next (x : Bool × Nat) (h : x ∈ [(true, 0), (true, 31), (true, 32), (false, 0)]) :
    comesNext (filling x.1 x.2) descriptions 0 (1 + 1) (some (1, 2)) := by
  have e : ∀ x ∈ [(true, 0), (true, 31), (true, 32), (false, 0)],
      entrySupply (filling x.1 x.2) descriptions 0 = 2 ∧ entrySupply (filling x.1 x.2) descriptions 1 = 1 ∧
      (descEntry (filling x.1 x.2).titles.cue descriptions.title descriptions.track 0).first = 0 ∧
      (descEntry (filling x.1 x.2).titles.cue descriptions.title descriptions.track 1).first = 2 := by
    decide +kernel
  obtain ⟨h0, h1, f0, f1⟩ := e x h
  refine ⟨fun hk => ?_, fun _ => ⟨fun hz => ?_, fun j hj hn _ hz => ?_⟩⟩
  · have hk : 1 + 1 < (descEntry (filling x.1 x.2).titles.cue descriptions.title descriptions.track 0).first +
        entrySupply (filling x.1 x.2) descriptions 0 := hk
    omega
  · have := hz 1 (by decide) (by decide)
    omega
  · have hn : j < 2 := hn
    obtain rfl : j = 1 := by omega
    exact congrArg (fun k => some (1, k)) f1.symm

/-- A next block with room in the pool or none, of an undefined clip, in a full ring, and late. -/
theorem test_meets_FillMakesThePosition_steps :
    (∀ x ∈ [(true, 31), (true, 32), (false, 0)],
      let s := filling x.1 x.2
      let d := descEntry s.titles.cue descriptions.title descriptions.track 0
      trackOf s 2 1 = some descriptions ∧ 1 < d.first + entrySupply s descriptions 0 ∧
        (clipEntry s d.clip).defined = x.1) ∧
    ((served []).stream.entries[(0 : StreamNo)].alloc = false ∧ (served []).stream.entries[(3 : StreamNo)].next = none) ∧
    (let s := served (List.replicate 8 (slotAtTime 0 .bad))
     8 ≤ s.stream.entries[(3 : StreamNo)].ring.length) ∧
    (let s := (filling true 0).setClock 2 { AudClock.reset with pos := 168 * 65536 }
     let d := descEntry s.titles.cue descriptions.title descriptions.track 0
     d.start + 96 * (1 - d.first) + 96 ≤ min (s.clock.auds[(2 : Aud)].pos / 65536 + lead s 2) 16777215) := by
  decide +kernel

/-- A fill start in the first entry, whose first block comes next, and one past the last entry. -/
theorem test_meets_FillMakesThePosition_starts :
    (let r := lookup (filling true 0) 2 1 120
     r.1 = ⟨0, true⟩ ∧ 0 < descriptions.track.n ∧ (120 - 96) / 96 = 0 ∧
       0 < entrySupply (filling true 0) descriptions 0) ∧
    (lookup (filling true 0) 2 1 496).1.index = descriptions.track.n := by
  decide +kernel

/-! The clip store. -/

/-- The checks at their limits; clip 7 is defined over blocks 16 to 19, and in use. -/
theorem test_meets_DirectoryRequests :
    (1023 < 1024 ∧ 4096 < 4097 ∧ 65536 < 65535 + 2) ∧ (1023 = (1023 : ClipNo).val ∧ 65535 + 1 ≤ 65536) ∧
    (playing .held 0).store.inUse[(7 : ClipNo)] ≠ 0 ∧ (withTitle .ready).store.inUse[(7 : ClipNo)] = 0 := by
  decide +kernel

/-- A first block of 19 overlaps the clip, one of 20 does not. -/
theorem test_meets_DirectoryRequests_overlap :
    DirectoryLaw (withTitle .ready) ∧
    (∃ (d : ClipNo) (b : Nat), d ≠ 0 ∧ inExtent (withTitle .ready).store.directory[d] b ∧ 19 ≤ b ∧ b < 19 + 1) ∧
    ¬∃ (d : ClipNo) (b : Nat), d ≠ 0 ∧ inExtent (withTitle .ready).store.directory[d] b ∧ 20 ≤ b ∧ b < 20 + 1 := by
  have h : ∀ c : ClipNo, (withTitle .ready).store.directory[c] = if c = 7 then ⟨true, 16, 4⟩ else ⟨false, 0, 0⟩ := by
    intro c
    show (setAt StoreBlock.reset.directory 7 _)[c] = _
    by_cases hc : c = 7
    · rw [hc, setAt_self]; rfl
    · rw [setAt_other _ _ (fun e => hc e.symm), if_neg hc]
      simp [StoreBlock.reset, ClipEntry.clear]
  have e : ∀ (c : ClipNo) (b : Nat), inExtent (withTitle .ready).store.directory[c] b ↔ c = 7 ∧ 16 ≤ b ∧ b < 20 := by
    intro c b
    rw [h c]
    by_cases hc : c = 7 <;> simp [hc, inExtent]
  refine ⟨⟨?_, ?_⟩, ⟨7, 19, by decide, (e 7 19).mpr (by decide), by decide, by decide⟩, ?_⟩
  · intro c
    rw [h c]
    by_cases hc : c = 7 <;> simp [hc]
  · intro c d b hc hd
    rw [((e c b).mp hc).1, ((e d b).mp hd).1]
  · rintro ⟨d, b, -, hb, h1, h2⟩
    have := ((e d b).mp hb).2
    omega

/-- The latch set and clear; sectors below the floor and at it; the last page and sector, and the numbers after. -/
theorem test_meets_MaintenanceIsAccepted :
    (State.reset.store.latch = false ∧ (State.reset.setLatch true).store.latch = true ∧ zeros.length = 512 ∧
      65535 < 65536 ∧ 4095 < 4096 ∧ 4095 ≤ 4095 ∧ 1023 < 1024) ∧
    (maintaining (.erase .waiting 0) .idle).store.op ≠ .none ∧ State.reset.store.op = .none ∧
    State.reset.store.directory[(1023 : ClipNo)].defined = false ∧
    (withTitle .ready).store.directory[(7 : ClipNo)].defined = true := by
  decide +kernel

theorem test_meets_MaintenanceIsAccepted_protection :
    sectorProtected { State.reset with store := { StoreBlock.reset with floor := 4096 } } 4095 ∧
    ¬sectorProtected State.reset 0 ∧ sectorProtected (playing .held 0) 1 := by
  refine ⟨Or.inl (by decide), ?_, Or.inr ⟨7, by decide +kernel, 16, ?_, rfl⟩⟩
  · rintro (h | ⟨c, h, -⟩)
    · exact absurd h (by decide)
    · exact h (by simp [State.reset, StoreBlock.reset])
  · show _ ∧ _ ∧ _
    decide +kernel

/-- Records of slack 360 and 359, with the margin 360: not urgent, and urgent. Of two equal slacks, the lower stream. -/
def pooled (play : Nat) (op : Maintenance) : State :=
  let s := maintaining op .idle
  { s with stream := { s.stream with pool := [⟨4, 0, 0, 1, play⟩, ⟨3, 0, 0, 2, play⟩, ⟨3, 0, 0, 3, play⟩] } }

theorem test_meets_ArbiterGivesTheFlash :
    (maintaining (.program .inFlight 0 zeros 0) .program).store.use ≠ .idle ∧
    (∀ x ∈ [Maintenance.none, .program .waiting 0 zeros 0, .erase .suspended 4095, .verify .waiting 7 16 4 0 0],
      ∀ n ∈ [360, 359], (pooled n x).store.use = .idle ∧ (pooled n x).store.op = x ∧
        (pooled n x).stream.pool = [⟨4, 0, 0, 1, n⟩] ++ ⟨3, 0, 0, 2, n⟩ :: [⟨3, 0, 0, 3, n⟩] ∧
        ((∃ r ∈ (pooled n x).stream.pool,
          (r.play : Int) - (min ((pooled n x).clock.auds[r.aud].pos / 65536 + lead (pooled n x) r.aud) 16777215 : Nat) <
            (pooled n x).store.margin) ↔ n = 359)) ∧
    (State.reset.store.op = .none ∧ State.reset.stream.pool = []) ∧
    (let s := deferred (.erase .suspended 0) .idle
     s.link.resetTag ≠ none ∧ s.store.op.started = true) := by
  decide +kernel

/-- An erase in flight, with a record of slack 359 and 360 for the margin 360. -/
theorem test_meets_ArbiterGivesTheFlash_suspension :
    ∀ n ∈ [360, 359], (pooled n (.erase .inFlight 4095)).store.op = .erase .inFlight 4095 ∧
      (pooled n (.erase .inFlight 4095)).link.resetTag = none ∧ (pooled n (.erase .inFlight 4095)).store.margin = 360 ∧
      ((∃ r ∈ (pooled n (.erase .inFlight 4095)).stream.pool,
        (r.play : Int) - (min ((pooled n (.erase .inFlight 4095)).clock.auds[r.aud].pos / 65536 +
          lead (pooled n (.erase .inFlight 4095)) r.aud) 16777215 : Nat) < 360) ↔ n = 359) := by
  decide +kernel

/-- Stream 3 alone waits, with slack 72, and the pool has a place. -/
theorem test_meets_ArbiterGivesTheFlash_grant :
    (filling true 31).stream.pool.length < 32 ∧ waitsWith (filling true 31) 3 72 ∧
    ∀ j d, waitsWith (filling true 31) j d → (72 : Int) < d ∨ ((72 : Int) = d ∧ (3 : StreamNo) ≤ j) := by
  refine ⟨by decide +kernel, ⟨0, 1, descriptions, by decide +kernel, by decide +kernel, by decide +kernel,
    by decide +kernel, by decide +kernel⟩, ?_⟩
  have only : ∀ j : StreamNo, (filling true 31).stream.entries[j].alloc = true → j = 3 := by decide +kernel
  have n3 : (filling true 31).stream.entries[(3 : StreamNo)].next = some (0, 1) := by decide +kernel
  have t3 : trackOf (filling true 31) (filling true 31).stream.entries[(3 : StreamNo)].aud
      (filling true 31).stream.entries[(3 : StreamNo)].track = some descriptions := by
    decide +kernel
  rintro j d ⟨e, k, x, ha, -, hn, ht, hd⟩
  obtain rfl := only j ha
  rw [n3] at hn
  rw [t3] at ht
  cases hn
  cases ht
  exact Or.inr ⟨by rw [hd]; decide +kernel, by decide⟩

theorem test_meets_ArbiterGivesTheFlash_law :
    FlashLaw State.reset ∧ FlashLaw (pooled 359 (.program .waiting 0 zeros 0)) ∧
      FlashLaw (pooled 359 (.erase .suspended 4095)) ∧ FlashLaw (pooled 359 (.verify .waiting 7 16 4 0 0)) ∧
      FlashLaw (deferred (.erase .suspended 0) .idle) :=
  ⟨Or.inl rfl, Or.inr rfl, Or.inr rfl, Or.inr rfl, Or.inr rfl⟩

/-- Stream 3 with one OUTSTANDING position, its fetch in flight, and an operation. -/
def fetching (op : Maintenance) : State :=
  let s := served [slotAtTime 96 .outstanding]
  { s with store := { s.store with op := op, use := .fetch ⟨3, 2, 0, 16, 96⟩ } }

/-- A live fetch, one whose stream's generation has moved on, and pages inside and outside the sector of an erase. -/
theorem test_meets_FetchCompletionFillsTheRing :
    (∀ op ∈ [Maintenance.none, .erase .suspended 1, .erase .waiting 1],
      let s := fetching op
      let st := s.stream.entries[(3 : StreamNo)]
      s.store.use = .fetch ⟨3, 2, 0, 16, 96⟩ ∧ st.alloc = true ∧ st.generation = 0 ∧
        st.ring = [] ++ slotAtTime 96 .outstanding :: [] ∧ (slotAtTime 96 .outstanding).state = .outstanding ∧
        (slotAtTime 96 .outstanding).play = 96 ∧ (slotAtTime 96 .outstanding).flashBlock = 16) ∧
    (Maintenance.erase .suspended 1).erasing = some 1 ∧ (Maintenance.erase .waiting 1).erasing = none ∧ 16 / 16 = 1 ∧
    (let s := { fetching .none with stream := StreamBlock.reset }
     s.store.use = .fetch ⟨3, 2, 0, 16, 96⟩ ∧ s.stream.entries[(3 : StreamNo)].alloc = false) ∧
    (List.replicate 514 (0xFF : Byte)).length = 514 ∧
    leVal ((List.replicate 514 (0xFF : Byte)).drop 512) ≠ checkWord ((List.replicate 514 (0xFF : Byte)).take 512) ∧
    (let page : List Byte := zeros ++ [0xFF, 0xFF]
     page.length = 514 ∧ leVal (page.drop 512) = checkWord (page.take 512)) := by
  decide +kernel

theorem test_meets_MaintenanceCompletes :
    State.reset.link.resetTag = none ∧
    (maintaining (.program .inFlight 65535 zeros 65535) .program).store.op = .program .inFlight 65535 zeros 65535 ∧
    zeros.length = 512 ∧ (maintaining (.erase .inFlight 4095) .erase).store.op = .erase .inFlight 4095 ∧
    (maintaining (.verify .inFlight 7 16 4 2 0) .verify).store.op = .verify .inFlight 7 16 4 2 0 ∧ 2 + 1 < 4 ∧
    (maintaining (.verify .inFlight 7 16 4 3 0) .verify).store.op = .verify .inFlight 7 16 4 3 0 ∧ 4 ≤ 3 + 1 := by
  decide +kernel

/-! The laws that every step keeps: a house tick waits in the part after power-on. -/

/-- The part after power-on with a house tick in its queue. -/
def ticking : State := { State.reset with pending := [.houseTick] }

theorem test_meets_a_step : step ticking = .next (after .houseTick State.reset) := rfl

theorem test_meets_EveryStepKeepsAttention : AttentionLaw ticking := by
  have h : (∀ n : Fin 4, ticking.link.attention[portIx (.feed n)] = ticking.link.flagged (.feed n)) ∧
      (∀ n : Fin 2, ticking.link.attention[portIx (.air n)] = ticking.link.flagged (.air n)) ∧
      ticking.link.attention[portIx .m] = ticking.link.flagged .m := by
    decide +kernel
  intro p
  cases p with
  | feed n => exact h.1 n
  | air n => exact h.2.1 n
  | m => exact h.2.2

theorem test_meets_EveryStepKeepsTheClocks : ClockLaw ticking ∧ ReelLaw ticking := by
  constructor
  · show ∀ a : Aud, _
    decide +kernel
  · show ∀ t : TitleNo, _
    decide +kernel

theorem test_meets_EveryStepKeepsTheCueStore : CueStoreLaw ticking := by
  refine ⟨?_, by decide +kernel, by decide +kernel⟩
  intro n
  have h : all24.countP (fun t => (ticking.title t).state != .free && holdsSlot (ticking.title t).base
      (ticking.title t).count n) = 0 := by
    have e : ∀ t, (ticking.title t).state = .free := by decide +kernel
    rw [List.countP_eq_zero]
    intro t _
    simp [e t]
  have f : ticking.titles.free = [⟨0, 131072⟩] := by decide +kernel
  unfold slotOwners
  rw [h, f]
  by_cases hn : n < 131072 <;> simp [holdsSlot, hn, Config.slots]

theorem test_meets_EveryStepKeepsTheTitles : ShowLaw ticking ∧ ResolveLaw ticking := by
  have v : ∀ (i : Fin 16) (w : Fin 4), ticking.cues.sets[i].ways[w].valid = false := by decide +kernel
  have b : ∀ i : RecNo, ticking.rcv.recs[i].bound = false := by
    intro i
    simp [ticking, State.reset, ReceiverBlock.reset, Receiver.free]
  refine ⟨⟨?_, ?_, ?_⟩, ?_⟩
  · show ∀ t : TitleNo, _
    decide +kernel
  · show ∀ a : Aud, _
    decide +kernel
  · intro i
    refine ⟨fun w _ hw => ?_, fun w hw => ?_⟩ <;> rw [v i w] at hw <;> cases hw
  · intro i hi
    rw [b i] at hi
    cases hi

theorem test_meets_EveryStepKeepsTheReceivers : ReceiverLaw ticking ∧ CountLaw ticking := by
  have b : ∀ i : RecNo, ticking.rcv.recs[i].bound = false := by
    intro i
    simp [ticking, State.reset, ReceiverBlock.reset, Receiver.free]
  constructor
  · intro i _ hi
    rw [b i] at hi
    cases hi
  · intro a t
    have : ∀ (a : Aud) (t : TrackNo), ticking.rcv.counts[a][t] = 0 := by decide +kernel
    rw [this a t, eq_comm, List.countP_eq_zero]
    intro i _ h
    rw [Receiver.wants, b i] at h
    cases h

theorem test_meets_EveryStepKeepsRingsAndSettings : StreamLaw ticking ∧ SettingsLaw ticking := by
  refine ⟨⟨by decide +kernel, by decide +kernel⟩, by decide, by decide, by decide, by decide +kernel, by decide +kernel, ?_⟩
  have h : ∀ p, ticking.port p = PortLink.reset := by
    intro p
    show LinkBlock.reset.ports[portIx p] = _
    simp [LinkBlock.reset]
  intro p
  rw [h p]
  exact ⟨by decide, fun v hv => by cases hv⟩

/-- The part with every title FREE has nothing to lay out; with no stream and no mark it serves no track. -/
theorem test_meets_EveryStepKeepsRingsAndSettings_rings :
    (ShowLaw ticking ∧ CueStoreLaw ticking ∧ CountLaw ticking ∧ ResolveLaw ticking) ∧ LayoutLaw ticking ∧
      EntryLaw ticking ∧ ServeLaw ticking ∧ RingLaw ticking := by
  have free : ∀ t, (ticking.title t).state = .free := by decide +kernel
  have entry : ∀ i : StreamNo, ticking.stream.entries[i] = Stream.reset := by
    intro i
    simp [ticking, State.reset, StreamBlock.reset]
  have quiet : ∀ (a : Aud) (v : TrackNo), ticking.stream.unserved[a][v] = false ∧ ticking.rcv.counts[a][v] = 0 := by
    decide +kernel
  refine ⟨⟨test_meets_EveryStepKeepsTheTitles.1, test_meets_EveryStepKeepsTheCueStore,
    test_meets_EveryStepKeepsTheReceivers.2, test_meets_EveryStepKeepsTheTitles.2⟩,
    fun t h => absurd (free t) h, fun t _ _ h => absurd (free t) h, ⟨?_, ?_⟩, ?_⟩
  · rintro i j a v ⟨h, -⟩
    rw [entry i] at h
    cases h
  · intro a v
    have none : ¬∃ i : StreamNo, ticking.stream.entries[i].alloc = true ∧ ticking.stream.entries[i].aud = a ∧
        ticking.stream.entries[i].track = v := by
      rintro ⟨i, h, -⟩
      rw [entry i] at h
      cases h
    rw [(quiet a v).1, (quiet a v).2]
    refine ⟨fun h => none h.1, fun h => ?_, fun h => absurd h.2 (by decide)⟩
    rcases h with h | h
    · exact absurd h none
    · cases h
  · intro i
    rw [entry i]
    exact ⟨List.Pairwise.nil, fun e k x h => by cases h⟩

/-- What the statement on cursors and ways assumes beside: the laws of regions and entries, and sound cursors and ways. -/
theorem test_meets_EveryStepKeepsTheTitles_lookups :
    (CueStoreLaw ticking ∧ LayoutLaw ticking ∧ EntryLaw ticking) ∧ LocateLaw ticking := by
  have cursors : ∀ (a : Aud) (t : TrackNo), ticking.cues.cursors[a][t].valid = false := by decide +kernel
  have ways : ∀ (i : Fin 16) (w : Fin 4), ticking.cues.sets[i].ways[w].valid = false := by decide +kernel
  have rings := test_meets_EveryStepKeepsRingsAndSettings_rings
  refine ⟨⟨rings.1.2.1, rings.2.1, rings.2.2.1⟩, ⟨fun a t x _ h => ?_, fun i w h tr hv => ?_⟩⟩
  · rw [cursors a t] at h
    cases h
  · rw [ways i w] at hv
    cases hv

/-- A valid cursor that is sound for its placed-at. -/
theorem test_meets_EveryStepKeepsTheTitles_cursor : LocateLaw cursored := by
  have only : ∀ (a : Aud) (t : TrackNo), cursored.cues.cursors[a][t].valid = true → a = 2 ∧ t = 0 := by decide +kernel
  have ways : ∀ (i : Fin 16) (w : Fin 4), cursored.cues.sets[i].ways[w].valid = false := by decide +kernel
  have track : trackOf cursored 2 0 = some captions := by decide +kernel
  have cursor := test_meets_LookupFindsLowestEntry_cursor
  refine ⟨fun a t x hx hv => ?_, fun i w h tr hv => ?_⟩
  · obtain ⟨rfl, rfl⟩ := only a t hv
    rw [track] at hx
    cases hx
    rw [cursor.1]
    exact ⟨cursor.2.1, cursor.2.2.1⟩
  · rw [ways i w] at hv
    cases hv

/-- An erase of sector 0 waits, and clip 7, in use, has its blocks in sector 1. -/
def guarded : State :=
  let s := playing .held 0
  { s with store := { s.store with op := .erase .waiting 0 }, pending := [.flashArbiterChoice] }

theorem test_meets_EveryStepKeepsTheClipStore :
    guarded.store.op.targetSector = some 0 ∧ guarded.store.inUse[(7 : ClipNo)] ≠ 0 ∧
    (InterlockLaw guarded ∧ DirectoryLaw guarded) ∧ inExtent guarded.store.directory[(7 : ClipNo)] 19 ∧ 527 < 528 := by
  refine ⟨by decide +kernel, by decide +kernel, ⟨?_, test_meets_DirectoryRequests_overlap.1⟩, ?_, by decide⟩
  · intro sector h c hc
    cases h
    have d : ∀ c : ClipNo, guarded.store.directory[c].inSector 0 = false := by
      intro c
      show (setAt StoreBlock.reset.directory 7 _)[c].inSector 0 = false
      by_cases hc : c = 7
      · rw [hc, setAt_self]; rfl
      · rw [setAt_other _ _ (fun e => hc e.symm)]
        simp [StoreBlock.reset, ClipEntry.clear, ClipEntry.inSector]
    exact d c
  · show _ ∧ _ ∧ _
    decide +kernel

/-- A program of page 0, in sector 0, waits. -/
def programming : State :=
  let s := playing .held 0
  { s with store := { s.store with op := .program .waiting 0 zeros 65535 }, pending := [.flashArbiterChoice] }

theorem test_meets_EveryStepKeepsTheClipStore_program :
    ProgramLaw guarded ∧ ProgramLaw programming ∧ programming.store.op.targetSector = some 0 := by
  refine ⟨fun st block data check h => ?_, fun st block data check h => ?_, by decide +kernel⟩
  · have h : Maintenance.erase .waiting 0 = .program st block data check := h
    cases h
  · have h : Maintenance.program .waiting 0 zeros 65535 = .program st block data check := h
    injection h with _ _ h _
    rw [← h]
    exact List.length_replicate

theorem test_meets_EveryStepKeepsTheLoads : MemoryLaw (loading 5) ∧ LoadLaw (loading 5) ∧ LayoutLaw (loading 5) := by
  refine ⟨⟨by decide +kernel, by decide +kernel⟩, ?_, ?_⟩
  · intro p
    by_cases hp : p = 0
    · rw [hp]
      show _ ∧ _
      decide +kernel
    · have : (loading 5).loader.ctx[p] = .closed := by
        show (setAt LoaderBlock.reset.ctx 0 _)[p] = _
        rw [setAt_other _ _ (fun e => hp e.symm)]
        simp [LoaderBlock.reset]
      rw [this]
      trivial
  · intro t ht
    have e : ∀ t, ((loading 5).title t).state ≠ .free → t = 0 := by decide +kernel
    rw [e t ht]
    exact ⟨loading_laid_out, by decide +kernel, by decide +kernel⟩

/-- The LOADING title's region and the free extent after it cover the cue store. -/
theorem test_meets_EveryStepKeepsTheLoads_entries : CueStoreLaw (loading 5) ∧ EntryLaw (loading 5) := by
  have others : ∀ t, ((loading 5).title t).state ≠ .free → t = 0 := by decide +kernel
  have tracks : ((loading 5).title 0).tracks = [⟨.caption, eng, 2, 1, 0, 5, 0⟩, ⟨.description, eng, 2, 1, 2, 6, 0⟩] := by
    decide +kernel
  refine ⟨⟨?_, by decide +kernel, by decide +kernel⟩, ?_⟩
  · intro n
    have owners : all24.countP (fun t => ((loading 5).title t).state != .free && holdsSlot ((loading 5).title t).base
        ((loading 5).title t).count n) = if n < 7 then 1 else 0 := by
      have first : all24 = 0 :: all24.tail := by decide
      have rest : ∀ t ∈ all24.tail, ((loading 5).title t).state = .free := by decide +kernel
      have region : ((loading 5).title 0).state = .loading ∧ ((loading 5).title 0).base = 0 ∧
          ((loading 5).title 0).count = 7 := by
        decide +kernel
      rw [first, List.countP_cons, region.1, region.2.1, region.2.2,
        List.countP_eq_zero.mpr fun t ht => by simp [rest t ht]]
      by_cases h : n < 7 <;> simp [holdsSlot, h]
    have extents : (loading 5).titles.free = [⟨7, 131065⟩] := by decide +kernel
    unfold slotOwners
    rw [owners, extents]
    by_cases h : n < 7
    · have h7 : ¬7 ≤ n := by omega
      have hs : n < Config.slots := by show n < 131072; omega
      simp [holdsSlot, h, h7, hs]
    · have h7 : 7 ≤ n := by omega
      by_cases hs : n < 131072 <;> simp [holdsSlot, h, h7, hs, Config.slots]
  · intro t i tr ht hi
    obtain rfl := others t ht
    rw [tracks] at hi
    have one : tr.n = 1 := by
      match i with
      | 0 => cases hi; rfl
      | 1 => cases hi; rfl
      | n + 2 => simp at hi
    have state : ((loading 5).title 0).state = .loading := by decide +kernel
    exact ⟨fun j k h1 h2 => by omega, fun h => by rw [state] at h; cases h⟩

theorem test_meets_EveryStepKeepsTheFlash :
    FlashLaw (maintaining (.erase .inFlight 4095) .erase) ∧ SuspensionLaw (maintaining (.erase .inFlight 4095) .erase) :=
  ⟨⟨4095, rfl⟩, fun _ _ _ => by decide +kernel⟩

end Sys2Proof.Tests
end

/-! What leaves the title block as it is: which commands change no title record, no free extent and no byte of the cue
store, from the operations they are made of up to the dispatch. -/
section
namespace Sys2Proof.Machine

/-! ### Shared operations -/

/-- A fold of operations that leave the title block as it is leaves it as it is. -/
theorem foldl_titles {α : Type} {f : State → α → State} (h : ∀ s x, (f s x).titles = s.titles) (l : List α) (s : State) :
    (l.foldl f s).titles = s.titles :=
  List.foldlRecOn l f (motive := fun u => u.titles = s.titles) rfl fun u hu x _ => (h u x).trans hu

/-- A request whose effect leaves the title block as it is (R204, R205). -/
theorem request_titles {act : State → State × Reply} (hact : ∀ s, (act s).1.titles = s.titles) (r : Req) (k : Byte)
    (s : State) : (request r k act s).titles = s.titles :=
  request_keeps (P := fun u => u.titles = s.titles) (fun _ _ _ h => h) (fun u h => (hact u).trans h) rfl

@[simp] theorem refuse_titles (c : Code) (s : State) : (refuse c s).1.titles = s.titles := rfl

@[simp] theorem fill_titles (i : StreamNo) (s : State) : (fill i s).titles = s.titles := (fill_frame i s).titles

@[simp] theorem refillAud_titles (a : Aud) (s : State) : (refillAud a s).titles = s.titles := (refillAud_frame a s).titles

@[simp] theorem handEdges_titles (before : Vector (Vector Nat 8) 16) (s : State) :
    (handEdges before s).titles = s.titles :=
  (handEdges_frame before s).titles

@[simp] theorem grantRoom_titles (n : Nat) (s : State) : (grantRoom n s).titles = s.titles := (grantRoom_frame n s).titles

/-! ### The clocks (chapter 4) -/

@[simp] theorem advanceAud_titles (s : State) (a : Aud) : (advanceAud s a).titles = s.titles := by
  unfold advanceAud
  dsimp only
  split
  · split <;> simp
  · rfl

theorem houseTick_titles (s : State) : (houseTick s).titles = s.titles := by
  simp [houseTick, foldl_titles advanceAud_titles]

@[simp] theorem moveClock_titles (a : Aud) (r : Nat) (s : State) : (moveClock a r s).titles = s.titles := by
  simp [moveClock]

@[simp] theorem stepClock_titles (a : Aud) (r : Nat) (s : State) : (stepClock a r s).titles = s.titles := by
  simp [stepClock]

@[simp] theorem handleReport_titles (a : Aud) (r : Nat) (s : State) : (handleReport a r s).titles = s.titles := by
  unfold handleReport
  dsimp only
  cases s.shows[a].state with
  | dark => rfl
  | armed | held | lost => simp
  | running | freewheel => dsimp only; split <;> simp

@[simp] theorem positionTaken_titles (a : Aud) (r : Nat) (clamped : Bool) (s : State) :
    (positionTaken a r clamped s).titles = s.titles := by
  cases clamped <;> simp [positionTaken, clearSilence, clampReel]

theorem position_titles (r : Req) (s : State) : (position r s).1.titles = s.titles := by
  unfold position
  split <;> simp

@[simp] theorem silenceReached_titles (a : Aud) (n : Nat) (s : State) : (silenceReached a n s).titles = s.titles := by
  unfold silenceReached
  split
  · simp
  · split <;> simp

theorem silenceBoundary_titles (a : Aud) (s : State) : (silenceBoundary a s).titles = s.titles := by
  unfold silenceBoundary
  dsimp only
  split
  · split <;> simp
  · rfl

/-! ### Payloads (chapter 7) -/

/-- An offer whose placing leaves the title block as it is (R146). -/
theorem offer_titles {placed : State → State} (h : ∀ s, (placed s).titles = s.titles) (k : PullContext) (x : Section)
    (c : Compose) : (offer k x placed c).1.state.titles = c.state.titles := by
  unfold offer
  split
  · exact h _
  · simp

theorem removeLateTrack_titles (k : PullContext) (s : State) (t : TrackNo) :
    (removeLateTrack k s t).titles = s.titles := by
  unfold removeLateTrack
  split
  · unfold removeLate
    dsimp only
    split <;> simp
  · rfl

theorem offerDue_titles (k : PullContext) (t : TrackNo) (i : StreamNo) (c : Compose) :
    (offerDue k t i c).1.state.titles = c.state.titles := by
  unfold offerDue
  split
  · rfl
  · split
    · exact offer_titles (fun s => by simp [takePosition]) _ _ _
    · rfl

theorem offerFirst_titles (k : PullContext) (acc : Compose × List TrackNo) (t : TrackNo) :
    (offerFirst k acc t).1.state.titles = acc.1.state.titles := by
  unfold offerFirst
  split
  · exact offerDue_titles _ _ _ _
  · split
    · exact offer_titles (fun _ => rfl) _ _ _
    · rfl

theorem offerSecond_titles (k : PullContext) (c : Compose) (t : TrackNo) :
    (offerSecond k c t).state.titles = c.state.titles := by
  unfold offerSecond
  split
  · exact offerDue_titles _ _ _ _
  · rfl

/-- A fold over a composition whose every step leaves the title block as it is; `get` is the composition within what
the fold carries. -/
theorem compose_foldl_titles {α β : Type} (get : β → Compose) {f : β → α → β}
    (h : ∀ b x, (get (f b x)).state.titles = (get b).state.titles) (l : List α) (b : β) :
    (get (l.foldl f b)).state.titles = (get b).state.titles :=
  List.foldlRecOn l f (motive := fun d => (get d).state.titles = (get b).state.titles) rfl
    fun d hd x _ => (h d x).trans hd

theorem composeAudio_titles (k : PullContext) (tracks : List TrackNo) (c : Compose) :
    (composeAudio k tracks c).state.titles = c.state.titles :=
  calc (composeAudio k tracks c).state.titles
    _ = _ := compose_foldl_titles id (offerSecond_titles k) _ _
    _ = _ := compose_foldl_titles Prod.fst (offerFirst_titles k) _ _
    _ = c.state.titles := foldl_titles (removeLateTrack_titles k) _ _

theorem markSent_titles (k : PullContext) (t : TrackNo) (x : Sent) (s : State) : (markSent k t x s).titles = s.titles := rfl

theorem markRepeat_titles (k : PullContext) (t : TrackNo) (s : State) : (markRepeat k t s).titles = s.titles := rfl

theorem offerChanged_titles (k : PullContext) (acc : Compose × List CaptionLook) (t : TrackNo) :
    (offerChanged k acc t).1.state.titles = acc.1.state.titles := by
  unfold offerChanged
  dsimp only
  split
  · rfl
  · dsimp only
    split
    · exact offer_titles (markSent_titles k t _) _ _ _
    · rfl

theorem offerRepeat_titles (k : PullContext) (c : Compose) (l : CaptionLook) :
    (offerRepeat k c l).state.titles = c.state.titles := by
  unfold offerRepeat
  split
  · rfl
  · exact offer_titles (markRepeat_titles k _) _ _ _

theorem composeCaptions_titles (k : PullContext) (tracks : List TrackNo) (c : Compose) :
    (composeCaptions k tracks c).state.titles = c.state.titles :=
  calc (composeCaptions k tracks c).state.titles
    _ = _ := compose_foldl_titles id (offerRepeat_titles k) _ _
    _ = c.state.titles := compose_foldl_titles Prod.fst (offerChanged_titles k) _ _

theorem offerLostClear_titles (k : PullContext) (c : Compose) (t : TrackNo) :
    (offerLostClear k c t).state.titles = c.state.titles :=
  offer_titles (markSent_titles k t _) _ _ _

theorem composeSections_titles (k : PullContext) (x : ShowState) (audio captions : List TrackNo) (c : Compose) :
    (composeSections k x audio captions c).state.titles = c.state.titles := by
  cases x with
  | dark | armed => rfl
  | running | freewheel => exact (composeCaptions_titles _ _ _).trans (composeAudio_titles _ _ _)
  | held => exact composeCaptions_titles _ _ _
  | lost => exact compose_foldl_titles id (offerLostClear_titles k) _ _

@[simp] theorem pullTaken_titles (p : Fin 2) (a : Aud) (s : State) : (pullTaken p a s).1.titles = s.titles := by
  simp [pullTaken, composeSections_titles]

theorem pull_titles (r : Req) (s : State) : (pull r s).1.titles = s.titles := by
  unfold pull
  cases r.port with
  | feed _ | m => rfl
  | air p =>
    dsimp only [pullOn]
    split
    · rfl
    · split
      · rfl
      · split <;> simp

/-! ### Receivers (chapter 6) -/

@[simp] theorem reresolveAud_titles (a : Aud) (s : State) : (reresolveAud a s).titles = s.titles := by
  refine foldl_titles (fun u i => ?_) _ _
  unfold reresolve
  dsimp only
  split <;> simp

@[simp] theorem unresolveAud_titles (a : Aud) (s : State) : (unresolveAud a s).titles = s.titles := by
  simp only [unresolveAud]

@[simp] theorem changeRec_titles (i : RecNo) (new : Receiver) (s : State) : (changeRec i new s).titles = s.titles := by
  simp [changeRec]

theorem itemHello_titles (p : Fin 2) (it : Item) (s : State) : (itemHello p it s).1.titles = s.titles := by
  unfold itemHello
  repeat' split
  all_goals simp

theorem itemChoose_titles (p : Fin 2) (it : Item) (s : State) : (itemChoose p it s).1.titles = s.titles := by
  unfold itemChoose
  repeat' split
  all_goals simp

theorem itemAlive_titles (p : Fin 2) (it : Item) (s : State) : (itemAlive p it s).1.titles = s.titles := by
  unfold itemAlive
  repeat' split
  all_goals rfl

theorem itemBye_titles (p : Fin 2) (it : Item) (s : State) : (itemBye p it s).1.titles = s.titles := by
  unfold itemBye
  repeat' split
  all_goals simp

theorem takeItem_titles (p : Fin 2) (it : Item) (s : State) : (takeItem p it s).1.titles = s.titles := by
  unfold takeItem
  split
  · rfl
  · exact itemHello_titles p it s
  · exact itemChoose_titles p it s
  · exact itemAlive_titles p it s
  · exact itemBye_titles p it s

@[simp] theorem takeItems_titles (p : Fin 2) (its : List Item) (s : State) :
    (takeItems p its s).1.titles = s.titles := by
  induction its generalizing s with
  | nil => rfl
  | cons it rest ih => exact (ih _).trans (takeItem_titles p it s)

theorem report_titles (r : Req) (s : State) : (report r s).1.titles = s.titles := by
  unfold report
  cases r.port with
  | feed _ | m => rfl
  | air p =>
    dsimp only [reportOn]
    split
    · rfl
    · split <;> simp

theorem houseSecondBoundary_titles (s : State) : (houseSecondBoundary s).titles = s.titles := by
  unfold houseSecondBoundary
  split <;> rfl

theorem expireRec_titles (k : Nat) (s : State) (i : RecNo) : (expireRec k s i).titles = s.titles := by
  unfold expireRec
  dsimp only
  split
  · split <;> rfl
  · rfl

theorem keepAliveExpiry_titles (s : State) : (keepAliveExpiry s).titles = s.titles := by
  unfold keepAliveExpiry
  cases s.due.expiry with
  | none => rfl
  | some k =>
    dsimp only
    rw [suspendTest_titles, handEdges_titles, foldl_titles (expireRec_titles k)]

/-! ### Shows (chapter 3) and the position cache (chapter 5) -/

theorem assignFeed_titles (r : Req) (s : State) : (assignFeed r s).1.titles = s.titles := by
  unfold assignFeed
  split
  · rfl
  · split <;> rfl

theorem assignAir_titles (r : Req) (s : State) : (assignAir r s).1.titles = s.titles := by
  unfold assignAir
  split
  · rfl
  · split
    · split <;> simp
    · rfl

theorem run_titles (r : Req) (s : State) : (run r s).1.titles = s.titles := by
  unfold run
  split
  · rfl
  · split <;> rfl

theorem hold_titles (r : Req) (s : State) : (hold r s).1.titles = s.titles := by
  unfold hold
  split
  · rfl
  · split <;> rfl

theorem cacheProbe_titles (r : Req) (s : State) : (cacheProbe r s).1.titles = s.titles := by
  unfold cacheProbe
  dsimp only
  split
  · rfl
  · split <;> rfl

theorem cacheFlush_titles (r : Req) (s : State) : (cacheFlush r s).1.titles = s.titles := by
  unfold cacheFlush
  split <;> rfl

/-! ### The clip store (chapter 9) -/

theorem clipDefine_titles (r : Req) (s : State) : (clipDefine r s).1.titles = s.titles := by
  unfold clipDefine
  dsimp only
  repeat' split
  all_goals rfl

theorem clipDelete_titles (r : Req) (s : State) : (clipDelete r s).1.titles = s.titles := by
  unfold clipDelete
  repeat' split
  all_goals rfl

theorem clipProtect_titles (r : Req) (s : State) : (clipProtect r s).1.titles = s.titles := by
  unfold clipProtect
  dsimp only
  split <;> rfl

theorem clipWriteEnable_titles (r : Req) (s : State) : (clipWriteEnable r s).1.titles = s.titles := by
  unfold clipWriteEnable
  split <;> rfl

theorem clipProgram_titles (r : Req) (s : State) : (clipProgram r s).1.titles = s.titles := by
  unfold clipProgram
  dsimp only
  repeat' split
  all_goals rfl

theorem clipErase_titles (r : Req) (s : State) : (clipErase r s).1.titles = s.titles := by
  unfold clipErase
  dsimp only
  repeat' split
  all_goals rfl

theorem clipVerify_titles (r : Req) (s : State) : (clipVerify r s).1.titles = s.titles := by
  unfold clipVerify
  dsimp only
  repeat' split
  all_goals rfl

theorem startTurn_titles (s : State) : (startTurn s).titles = s.titles := by
  unfold startTurn
  split <;> rfl

theorem arbiterChoice_titles (s : State) : (arbiterChoice s).titles = s.titles := by
  unfold arbiterChoice
  split
  · split
    · exact startTurn_titles s
    · split
      · simp [startFetch]
      · rfl
  · rfl

theorem fetchCompletion_titles (s : State) : (fetchCompletion s).titles = s.titles := by
  unfold fetchCompletion
  split <;> rfl

theorem verifyTurnCompletion_titles (s : State) : (verifyTurnCompletion s).titles = s.titles := by
  unfold verifyTurnCompletion
  split
  · dsimp only
    split <;> rfl
  · rfl

/-! ### Ports and settings (chapter 10) -/

theorem frameCheckFail_titles (p : Port) (s : State) : (frameCheckFail p s).titles = s.titles := by
  unfold frameCheckFail
  split <;> simp

theorem frameLengthDiscard_titles (p : Port) (s : State) : (frameLengthDiscard p s).titles = s.titles := by
  unfold frameLengthDiscard
  split <;> simp

theorem discardPartial_titles (p : Port) (s : State) : (discardPartial p s).titles = s.titles := by
  unfold discardPartial
  split <;> rfl

theorem unknownRequest_titles (p : Port) (kind tag : Byte) (s : State) :
    (unknownRequest p kind tag s).titles = s.titles := by
  unfold unknownRequest
  split
  · simp
  · split <;> rfl

theorem responseSent_titles (p : Port) (s : State) : (responseSent p s).titles = s.titles := by
  unfold responseSent
  split <;> rfl

theorem syncByte_titles (p : Port) (s : State) : (syncByte p s).titles = s.titles := by
  unfold syncByte
  split
  · rfl
  · rfl
  · simp

theorem sense_titles (r : Req) (s : State) : (sense r s).1.titles = s.titles := by
  unfold sense
  dsimp only
  repeat' split
  all_goals rfl

theorem stats_titles (r : Req) (s : State) : (stats r s).1.titles = s.titles := by
  unfold stats
  dsimp only
  repeat' split
  all_goals rfl

theorem tableRead_titles (r : Req) (s : State) : (tableRead r s).1.titles = s.titles := by
  unfold tableRead
  dsimp only
  split
  · rfl
  · split
    · rfl
    · dsimp only
      split <;> rfl

/-- A SET whose parameter's store leaves the title block as it is (R207). -/
theorem setRequest_titles {store : Nat → Nat → State → Option State}
    (h : ∀ target v s u, store target v s = some u → u.titles = s.titles) (param lo hi : Nat) (r : Req) (s : State) :
    (setRequest param lo hi store r s).titles = s.titles := by
  unfold setRequest
  split
  · refine request_titles (fun u => ?_) _ _ _
    unfold setParam
    dsimp only
    split
    · rfl
    · split
      · rfl
      · split
        · rfl
        · rename_i hs
          exact h _ _ _ _ hs
  · rfl

theorem setClockParam_titles (f : AudClock → Nat → AudClock) (target v : Nat) (s u : State)
    (h : setClockParam f target v s = some u) : u.titles = s.titles := by
  obtain ⟨a, -, rfl⟩ := Option.map_eq_some_iff.mp h
  rfl

theorem setAirParam_titles (f : AirParams → Nat → AirParams) (target v : Nat) (s u : State)
    (h : setAirParam f target v s = some u) : u.titles = s.titles := by
  obtain ⟨p, -, rfl⟩ := Option.map_eq_some_iff.mp h
  rfl

theorem storeLoadIdleTime_titles (target v : Nat) (s u : State) (h : storeLoadIdleTime target v s = some u) :
    u.titles = s.titles := by
  cases h; rfl

theorem storeKeepAlive_titles (target v : Nat) (s u : State) (h : storeKeepAlive target v s = some u) :
    u.titles = s.titles := by
  cases h; rfl

theorem storeMargin_titles (target v : Nat) (s u : State) (h : storeMargin target v s = some u) :
    u.titles = s.titles := by
  cases h; simp

theorem storeLead_titles (target v : Nat) (s u : State) (h : storeLead target v s = some u) :
    u.titles = s.titles := by
  obtain ⟨w, hw, rfl⟩ := Option.map_eq_some_iff.mp h
  rw [suspendTest_titles]
  exact setAirParam_titles _ _ _ _ _ hw

theorem storeBitRate_titles (target v : Nat) (s u : State) (h : storeBitRate target v s = some u) :
    u.titles = s.titles := by
  obtain ⟨p, -, rfl⟩ := Option.map_eq_some_iff.mp h
  rfl

theorem bitRateChangeApplies_titles (p : Port) (s : State) : (bitRateChangeApplies p s).titles = s.titles := by
  unfold bitRateChangeApplies
  dsimp only
  split
  · split <;> rfl
  · rfl

/-! ### The dispatch -/

/-- The commands that change no title record, no free extent and no byte of the cue store: all but the resets (and the
completions that a waiting RESET turns into one, R199), the loads, UNLOAD, ARM and DARKEN. -/
def keepsTitles : Instr → Bool
  | .powerOn | .reset _ | .resetTakesEffect | .programCompletion | .eraseCompletion => false
  | .loadOpen _ | .loadData _ | .loadFinish _ | .loadAbort _ | .unload _ => false
  | .loadIdleTimeout _ | .finishingCompletion _ | .clipListOverflow _ => false
  | .arm _ | .darken _ => false
  | _ => true

theorem exec_keepsTitles {i : Instr} (hi : keepsTitles i = true) (s : State) :
    ∃ t, exec i s = .next t ∧ t.titles = s.titles := by
  cases i with
  | powerOn | resetTakesEffect | programCompletion | eraseCompletion => cases hi
  | reset _ | loadOpen _ | loadData _ | loadFinish _ | loadAbort _ | unload _ | arm _ | darken _ => cases hi
  | loadIdleTimeout _ | finishingCompletion _ | clipListOverflow _ => cases hi
  | houseTick => exact ⟨_, rfl, houseTick_titles s⟩
  | silenceBoundary a => exact ⟨_, rfl, silenceBoundary_titles a s⟩
  | houseSecondBoundary => exact ⟨_, rfl, houseSecondBoundary_titles s⟩
  | keepAliveExpiry => exact ⟨_, rfl, keepAliveExpiry_titles s⟩
  | run r => exact ⟨_, rfl, request_titles (run_titles r) _ _ _⟩
  | hold r => exact ⟨_, rfl, request_titles (hold_titles r) _ _ _⟩
  | position r => exact ⟨_, rfl, request_titles (position_titles r) _ _ _⟩
  | assignFeed r => exact ⟨_, rfl, request_titles (assignFeed_titles r) _ _ _⟩
  | assignAir r => exact ⟨_, rfl, request_titles (assignAir_titles r) _ _ _⟩
  | report r => exact ⟨_, rfl, request_titles (report_titles r) _ _ _⟩
  | pull r => exact ⟨_, rfl, request_titles (pull_titles r) _ _ _⟩
  | sense r => exact ⟨_, rfl, request_titles (sense_titles r) _ _ _⟩
  | setLoadIdleTime r => exact ⟨_, rfl, setRequest_titles storeLoadIdleTime_titles _ _ _ _ _⟩
  | setKeepAliveTime r => exact ⟨_, rfl, setRequest_titles storeKeepAlive_titles _ _ _ _ _⟩
  | setUrgencyMargin r => exact ⟨_, rfl, setRequest_titles storeMargin_titles _ _ _ _ _⟩
  | setJumpThreshold r | setGainExponent r | setSilenceInterval r =>
    exact ⟨_, rfl, setRequest_titles (setClockParam_titles _) _ _ _ _ _⟩
  | setLead r => exact ⟨_, rfl, setRequest_titles storeLead_titles _ _ _ _ _⟩
  | setCapacity r | setRepeatPeriod r | setWindow r =>
    exact ⟨_, rfl, setRequest_titles (setAirParam_titles _) _ _ _ _ _⟩
  | setBitRate r => exact ⟨_, rfl, setRequest_titles storeBitRate_titles _ _ _ _ _⟩
  | bitRateChangeApplies p => exact ⟨_, rfl, bitRateChangeApplies_titles p s⟩
  | stats r => exact ⟨_, rfl, request_titles (stats_titles r) _ _ _⟩
  | tableRead r => exact ⟨_, rfl, request_titles (tableRead_titles r) _ _ _⟩
  | cacheProbe r => exact ⟨_, rfl, request_titles (cacheProbe_titles r) _ _ _⟩
  | cacheFlush r => exact ⟨_, rfl, request_titles (cacheFlush_titles r) _ _ _⟩
  | clipDefine r => exact ⟨_, rfl, request_titles (clipDefine_titles r) _ _ _⟩
  | clipDelete r => exact ⟨_, rfl, request_titles (clipDelete_titles r) _ _ _⟩
  | clipWriteEnable r => exact ⟨_, rfl, request_titles (clipWriteEnable_titles r) _ _ _⟩
  | clipProgram r => exact ⟨_, rfl, request_titles (clipProgram_titles r) _ _ _⟩
  | clipErase r => exact ⟨_, rfl, request_titles (clipErase_titles r) _ _ _⟩
  | clipVerify r => exact ⟨_, rfl, request_titles (clipVerify_titles r) _ _ _⟩
  | clipProtect r => exact ⟨_, rfl, request_titles (clipProtect_titles r) _ _ _⟩
  | flashArbiterChoice => exact ⟨_, rfl, arbiterChoice_titles s⟩
  | fetchCompletion => exact ⟨_, rfl, fetchCompletion_titles s⟩
  | verifyTurnCompletion => exact ⟨_, rfl, verifyTurnCompletion_titles s⟩
  | frameCheckFail p => exact ⟨_, rfl, frameCheckFail_titles p s⟩
  | frameLengthDiscard p => exact ⟨_, rfl, frameLengthDiscard_titles p s⟩
  | frameGapTimeout p | breakCondition p => exact ⟨_, rfl, discardPartial_titles p s⟩
  | owedByteDiscard p => exact ⟨_, rfl, State.owedByte_titles s p⟩
  | unknownRequest p kind tag => exact ⟨_, rfl, unknownRequest_titles p kind tag s⟩
  | responseSent p => exact ⟨_, rfl, responseSent_titles p s⟩
  | syncByte p => exact ⟨_, rfl, syncByte_titles p s⟩

end Sys2Proof.Machine
end

/-! The law of the cue store (R19): what its clauses read, and the one kind of change that can touch them, in which a
record and the free-extent list hand each other slots. -/
section
namespace Sys2Proof.Machine

open Sys2Proof.Safety

/-! ### What the law reads -/

/-- Does the title hold slot `n`: is it not FREE, with `n` in its region? -/
def Title.owns (x : Title) (n : Nat) : Bool := x.state != .free && holdsSlot x.base x.count n

/-- How many extents of a list hold slot `n`. -/
def freeOwners (l : List Extent) (n : Nat) : Nat := l.countP fun e => holdsSlot e.base e.count n

/-- How many titles hold slot `n`. -/
def titleOwners (s : State) (n : Nat) : Nat := all24.countP fun t => (s.title t).owns n

theorem slotOwners_eq (s : State) (n : Nat) : slotOwners s n = freeOwners s.titles.free n + titleOwners s n := rfl

/-- The law in the words above: each slot has one owner, and the free list is as R16 keeps it. -/
theorem cueStoreLaw_iff (s : State) : CueStoreLaw s ↔
    (∀ n, freeOwners s.titles.free n + titleOwners s n = if n < Config.slots then 1 else 0) ∧ Extents s.titles.free :=
  Iff.rfl

@[simp] theorem Title.free_owns (n : Nat) : Title.free.owns n = false := rfl

theorem Title.owns_of_free {x : Title} (h : x.state = .free) (n : Nat) : x.owns n = false := by simp [Title.owns, h]

theorem Title.owns_of_not_free {x : Title} (h : x.state ≠ .free) (n : Nat) : x.owns n = holdsSlot x.base x.count n := by
  simp [Title.owns, h]

theorem mem_all24 (t : Fin 24) : t ∈ all24 := by revert t; decide

theorem all24_nodup : all24.Nodup := by decide

/-- A title record after one record is replaced. -/
theorem title_of_setAt {s u : State} {t : TitleNo} {x : Title} (h : u.titles.recs = setAt s.titles.recs t x) (v : TitleNo) :
    u.title v = if v = t then x else s.title v := by
  unfold State.title
  rw [h]
  split
  · next e => subst e; exact setAt_self _ _ _
  · next e => exact setAt_other _ _ fun e' => e e'.symm

/-- The titles' share of a slot after one record is replaced: less the old record's, more the new one's. -/
theorem titleOwners_of_setAt {s u : State} {t : TitleNo} {x : Title} (h : u.titles.recs = setAt s.titles.recs t x)
    (n : Nat) :
    titleOwners u n + (if (s.title t).owns n then 1 else 0) = titleOwners s n + (if x.owns n then 1 else 0) := by
  have := countP_change all24_nodup (fun v => (s.title v).owns n) (fun v => (u.title v).owns n) (mem_all24 t)
    fun v hv => by rw [title_of_setAt h, if_neg hv]
  rwa [title_of_setAt h t, if_pos rfl] at this

/-! ### Changes that keep the law -/

/-- A record replaced, and the free-extent list with it, keep the law where each slot the record gains or loses is lost
or gained by the list. -/
theorem cueStoreLaw_of_handover {s u : State} {t : TitleNo} {x : Title} (h : CueStoreLaw s)
    (hrecs : u.titles.recs = setAt s.titles.recs t x) (hext : Extents u.titles.free)
    (hslots : ∀ n, freeOwners u.titles.free n + (if x.owns n then 1 else 0) =
      freeOwners s.titles.free n + (if (s.title t).owns n then 1 else 0)) : CueStoreLaw u := by
  obtain ⟨hcover, -⟩ := (cueStoreLaw_iff s).mp h
  refine (cueStoreLaw_iff u).mpr ⟨fun n => ?_, hext⟩
  have htitles := titleOwners_of_setAt hrecs n
  have hlist := hslots n
  rw [← hcover n]
  omega

/-- The law reads the title block alone. -/
theorem cueStoreLaw_of_titles {s u : State} (h : CueStoreLaw s) (hu : u.titles = s.titles) : CueStoreLaw u := by
  have hrecs : u.titles.recs = setAt s.titles.recs 0 (s.title 0) := by
    rw [hu]; exact (setAt_same s.titles.recs 0).symm
  refine cueStoreLaw_of_handover h hrecs ?_ fun n => ?_
  · rw [hu]; exact h.2
  · rw [hu]

/-- Are the two records both FREE or both not, with the same region? -/
structure Title.SameRegion (x y : Title) : Prop where
  free : y.state = .free ↔ x.state = .free
  base : y.base = x.base
  count : y.count = x.count

theorem Title.SameRegion.owns {x y : Title} (h : x.SameRegion y) (n : Nat) : y.owns n = x.owns n := by
  unfold Title.owns
  rw [h.base, h.count]
  by_cases hx : x.state = .free
  · rw [h.free.mpr hx, hx]
  · rw [bne_iff_ne.mpr hx, bne_iff_ne.mpr (mt h.free.mp hx)]

/-- `u` differs from `s` at most in cue store bytes, in blocks other than the title block, and in record `t`, whose
region stays. -/
structure RetouchesTitle (t : TitleNo) (s u : State) : Prop where
  recs : ∃ x, u.titles.recs = setAt s.titles.recs t x ∧ (s.title t).SameRegion x
  free : u.titles.free = s.titles.free

/-- A change of a record that leaves its region alone keeps the law. -/
theorem RetouchesTitle.cueStoreLaw {t : TitleNo} {s u : State} (hu : RetouchesTitle t s u) (h : CueStoreLaw s) :
    CueStoreLaw u := by
  obtain ⟨⟨x, hrecs, hx⟩, hfree⟩ := hu
  refine cueStoreLaw_of_handover h hrecs ?_ fun n => ?_
  · rw [hfree]; exact h.2
  · rw [hfree, hx.owns]

/-- A record whose region stays is FREE after the change just when it was before. -/
theorem RetouchesTitle.state_free {t : TitleNo} {s u : State} (hu : RetouchesTitle t s u) :
    (u.title t).state = .free ↔ (s.title t).state = .free := by
  obtain ⟨⟨x, hrecs, hx⟩, -⟩ := hu
  rw [title_of_setAt hrecs, if_pos rfl]
  exact hx.free

/-- Every record FREE and the whole store one free extent, as a reset leaves them (R24). -/
theorem cueStoreLaw_of_reset {s : State} (hrecs : s.titles.recs = TitleBlock.reset.recs)
    (hfree : s.titles.free = TitleBlock.reset.free) : CueStoreLaw s := by
  have htitle : ∀ t, s.title t = Title.free := fun t => by simp [State.title, hrecs, TitleBlock.reset]
  refine (cueStoreLaw_iff s).mpr ⟨fun n => ?_, ?_⟩
  · have hnone : titleOwners s n = 0 := List.countP_eq_zero.mpr fun t _ => by simp [htitle t]
    rw [hnone, hfree]
    simp [freeOwners, TitleBlock.reset, holdsSlot]
  · rw [hfree]
    simp [Extents, TitleBlock.reset]

/-! ### A region taken and a region returned (R15 to R18) -/

/-- A region of 0 slots takes no slot and any other takes its own (R15, R17). -/
theorem allocateRegion_covers {c : Nat} {l : List Extent} {r : Nat × List Extent} (h : allocateRegion c l = some r)
    (n : Nat) : freeOwners l n = freeOwners r.2 n + (if holdsSlot r.1 c n then 1 else 0) := by
  unfold allocateRegion at h
  by_cases hc : c = 0
  · rw [if_pos hc] at h
    cases h
    simp [holdsSlot, hc]
  · rw [if_neg hc] at h
    exact allocate_covers h n

theorem allocateRegion_extents {c : Nat} {l : List Extent} {r : Nat × List Extent} (h : allocateRegion c l = some r)
    (hl : Extents l) : Extents r.2 := by
  unfold allocateRegion at h
  by_cases hc : c = 0
  · rw [if_pos hc] at h
    cases h
    exact hl
  · rw [if_neg hc] at h
    exact allocate_extents h hl

/-- A region of 0 slots returns no slot and any other returns its own (R15, R18). -/
theorem releaseRegion_covers (b c : Nat) (l : List Extent) (n : Nat) :
    freeOwners (releaseRegion b c l) n = freeOwners l n + (if holdsSlot b c n then 1 else 0) := by
  unfold releaseRegion
  by_cases hc : c = 0
  · simp [holdsSlot, hc]
  · rw [if_neg hc]
    exact release_covers b c l n

theorem releaseRegion_extents {b c : Nat} {l : List Extent} (hl : Extents l)
    (hd : 1 ≤ c → ∀ e ∈ l, e.base + e.count ≤ b ∨ b + c ≤ e.base) : Extents (releaseRegion b c l) := by
  unfold releaseRegion
  by_cases hc : c = 0
  · rw [if_pos hc]
    exact hl
  · rw [if_neg hc]
    exact release_extents (by omega) hl (hd (by omega))

/-- Under the law no free extent overlaps a title's region: a slot in both would have two owners. -/
theorem free_disjoint_region {s : State} (h : CueStoreLaw s) {t : TitleNo} (ht : (s.title t).state ≠ .free)
    (hc : 1 ≤ (s.title t).count) {e : Extent} (he : e ∈ s.titles.free) :
    e.base + e.count ≤ (s.title t).base ∨ (s.title t).base + (s.title t).count ≤ e.base := by
  obtain ⟨hcover, hcount, -⟩ := (cueStoreLaw_iff s).mp h
  have hec := hcount e he
  by_contra hover
  let n := max e.base (s.title t).base
  have hfree : 0 < freeOwners s.titles.free n :=
    List.countP_pos_iff.mpr ⟨e, he, holdsSlot_iff.mpr ⟨by omega, by omega⟩⟩
  have htitle : 0 < titleOwners s n :=
    List.countP_pos_iff.mpr ⟨t, mem_all24 t, by
      rw [Title.owns_of_not_free ht]; exact holdsSlot_iff.mpr ⟨by omega, by omega⟩⟩
  have hone := hcover n
  split at hone <;> omega

/-- A title that becomes FREE hands its region to the free-extent list (R2, R18). -/
theorem freeTitle_cueStoreLaw {s : State} (h : CueStoreLaw s) {t : TitleNo} (ht : (s.title t).state ≠ .free) :
    CueStoreLaw (s.freeTitle t) := by
  obtain ⟨l, hl⟩ := freeTitle_eq s t
  rw [hl]
  refine cueStoreLaw_of_handover h rfl ?_ fun n => ?_
  · exact releaseRegion_extents h.2 fun hc e he => free_disjoint_region h ht hc he
  · rw [Title.owns_of_not_free ht]
    simp [releaseRegion_covers]

end Sys2Proof.Machine
end

/-! Every step keeps the law of the cue store: the resets, the commands that open, write and free titles, those that
count references, and the step (O54). -/
section
namespace Sys2Proof.Machine

open Sys2Proof.Safety

/-! ### Loads (chapter 2) -/

/-- A request whose effect keeps the law keeps it. -/
theorem request_cueStoreLaw {act : State → State × Reply} (hact : ∀ s, CueStoreLaw s → CueStoreLaw (act s).1) (r : Req)
    (k : Byte) {s : State} (h : CueStoreLaw s) : CueStoreLaw (request r k act s) :=
  request_keeps (fun _ _ _ h => cueStoreLaw_of_titles h rfl) hact h

theorem suspendTest_cueStoreLaw {s : State} (h : CueStoreLaw s) : CueStoreLaw (suspendTest s) :=
  cueStoreLaw_of_titles h (suspendTest_titles s)

theorem failLoad_cueStoreLaw {s : State} (h : CueStoreLaw s) {t : TitleNo} (ht : (s.title t).state ≠ .free)
    (reason : FailReason) : CueStoreLaw (failLoad t reason s) := by
  have hfree := freeTitle_cueStoreLaw h ht
  unfold failLoad
  dsimp only
  split
  · exact cueStoreLaw_of_titles hfree rfl
  · exact hfree

/-- LOAD.OPEN's OK: a FREE record takes a region that the allocator took from the list (R17, R29). -/
theorem openTitle_cueStoreLaw {s : State} (h : CueStoreLaw s) {d : Decl} {t : TitleNo} {r : Nat × List Extent}
    (ht : (s.title t).state = .free) (hr : allocateRegion d.regionSlots s.titles.free = some r) (p : LoadPort) :
    CueStoreLaw (openTitle d p t r.1 r.2 s) := by
  refine cueStoreLaw_of_handover (t := t) (x := d.title p r.1 s.clock.h) h rfl ?_ fun n => ?_
  · exact allocateRegion_extents hr h.2
  · have howns : (d.title p r.1 s.clock.h).owns n = holdsSlot r.1 d.regionSlots n :=
      Title.owns_of_not_free (by simp [Decl.title]) n
    rw [howns, Title.owns_of_free ht, allocateRegion_covers hr n]
    simp [openTitle]

theorem lowestFreeTitle_free {s : State} {t : TitleNo} (h : lowestFreeTitle s = some t) : (s.title t).state = .free :=
  beq_iff_eq.mp (List.find?_some (p := fun t => (s.title t).state == .free) h)

/-- LOAD.OPEN changes nothing, or opens a FREE record on a region that the allocator took (R28). -/
theorem loadOpen_cases (r : Req) (s : State) : (loadOpen r s).1 = s ∨
    ∃ d p t x, (s.title t).state = .free ∧ allocateRegion d.regionSlots s.titles.free = some x ∧
      (loadOpen r s).1 = openTitle d p t x.1 x.2 s := by
  unfold loadOpen
  split
  · next p _ =>
    unfold loadOpenOn
    split
    · exact .inl rfl
    · next d _ =>
      repeat' split
      case h_2 t ht _ x hx =>
        exact .inr ⟨d, p, t, x, lowestFreeTitle_free ht, hx, rfl⟩
      all_goals exact .inl rfl
  · exact .inl rfl

theorem loadOpen_cueStoreLaw (r : Req) (s : State) (h : CueStoreLaw s) : CueStoreLaw (loadOpen r s).1 := by
  obtain hs | ⟨d, p, t, x, ht, hx, hs⟩ := loadOpen_cases r s
  · rw [hs]; exact h
  · rw [hs]; exact openTitle_cueStoreLaw h ht hx p

/-- What the admission of a load request answers with is a title that is not FREE and in an admitted state (R26). -/
theorem admitLoad_ok {p : Port} {lengthOk : Bool} {n : Nat} {f : TitleState → Bool} {s : State} {t : TitleNo}
    (h : admitLoad p lengthOk n f s = .ok t) : (s.title t).state ≠ .free := by
  unfold admitLoad at h
  dsimp only at h
  repeat' split at h
  all_goals cases h
  assumption

theorem touchTitle_retouches (t : TitleNo) (s : State) : RetouchesTitle t s (touchTitle t s) :=
  ⟨⟨_, rfl, ⟨Iff.rfl, rfl, rfl⟩⟩, rfl⟩

/-- An entry that a LOAD.DATA stores leaves its title's region alone (R32). -/
theorem appendEntry_retouches {t : TitleNo} {tn : Nat} {e : RawEntry} {s : State} {r : State × Bool}
    (h : appendEntry t tn e s = .ok r) : RetouchesTitle t s r.1 := by
  unfold appendEntry at h
  dsimp only at h
  repeat' split at h
  all_goals cases h
  all_goals exact ⟨⟨_, rfl, ⟨Iff.rfl, rfl, rfl⟩⟩, rfl⟩

theorem appendEntries_cueStoreLaw {t : TitleNo} (tn : Nat) (es : List RawEntry) (cut : Bool) {s : State}
    (h : CueStoreLaw s) (ht : (s.title t).state ≠ .free) : CueStoreLaw (appendEntries t tn es cut s).1 := by
  induction es generalizing cut s with
  | nil => exact h
  | cons e es ih =>
    unfold appendEntries
    split
    · exact failLoad_cueStoreLaw h ht _
    · next r hr =>
      have hs := appendEntry_retouches hr
      exact ih _ (hs.cueStoreLaw h) (mt hs.state_free.mp ht)

theorem loadData_cueStoreLaw (r : Req) (s : State) (h : CueStoreLaw s) : CueStoreLaw (loadData r s).1 := by
  unfold loadData
  dsimp only
  split
  · exact h
  · next t hadmit =>
    have hs := touchTitle_retouches t s
    have h1 := hs.cueStoreLaw h
    have ht := mt hs.state_free.mp (admitLoad_ok hadmit)
    split
    · exact failLoad_cueStoreLaw h1 ht _
    · split
      · exact h1
      · exact appendEntries_cueStoreLaw _ _ _ h1 ht

theorem loadFinish_cueStoreLaw (r : Req) (s : State) (h : CueStoreLaw s) : CueStoreLaw (loadFinish r s).1 := by
  unfold loadFinish
  split
  · exact h
  · next t hadmit =>
    have ht := admitLoad_ok hadmit
    have hs : RetouchesTitle t (touchTitle t s)
        ((touchTitle t s).setTitle t { (touchTitle t s).title t with state := .finishing }) :=
      ⟨⟨_, rfl, ⟨by simp [(touchTitle_retouches t s).state_free, ht], rfl, rfl⟩⟩, rfl⟩
    have h2 := hs.cueStoreLaw ((touchTitle_retouches t s).cueStoreLaw h)
    dsimp only
    split
    · exact cueStoreLaw_of_titles h2 rfl
    · exact h2

theorem finishingCompletion_cueStoreLaw (t : TitleNo) {s : State} (h : CueStoreLaw s) :
    CueStoreLaw (finishingCompletion t s) := by
  unfold finishingCompletion
  dsimp only
  split
  · next hf =>
    have hx : (s.title t).SameRegion ((s.title t).complete (clipList s.titles.cue (s.title t))) :=
      ⟨by simp [Title.complete, hf.1], rfl, rfl⟩
    split <;> exact RetouchesTitle.cueStoreLaw (t := t) ⟨⟨_, by rw [State.closeLoad_titles], hx⟩, by simp⟩ h
  · exact h

theorem clipListOverflow_cueStoreLaw (t : TitleNo) {s : State} (h : CueStoreLaw s) :
    CueStoreLaw (clipListOverflow t s) := by
  unfold clipListOverflow
  dsimp only
  split
  · next hf => exact failLoad_cueStoreLaw h (by simp [hf.1]) _
  · exact h

theorem loadAbort_cueStoreLaw (r : Req) (s : State) (h : CueStoreLaw s) : CueStoreLaw (loadAbort r s).1 := by
  unfold loadAbort
  split
  · exact h
  · next hadmit => exact freeTitle_cueStoreLaw h (admitLoad_ok hadmit)

theorem loadIdleTimeout_cueStoreLaw (t : TitleNo) {s : State} (h : CueStoreLaw s) :
    CueStoreLaw (loadIdleTimeout t s) := by
  unfold loadIdleTimeout
  split
  · next hdue =>
    simp only [idleExpired, Bool.and_eq_true, beq_iff_eq] at hdue
    obtain ⟨-, hloading, -⟩ := hdue
    exact failLoad_cueStoreLaw h (by simp [hloading]) _
  · exact h

/-- UNLOAD changes nothing, or frees a READY title that no context holds and forgets its ways (R22). -/
theorem unload_cases (r : Req) (s : State) : (unload r s).1 = s ∨
    ∃ t, (s.title t).state = .ready ∧ (s.title t).refs = 0 ∧
      (unload r s).1 = { s.freeTitle t with cues := (s.freeTitle t).cues.forget (handle t) } := by
  unfold unload
  split
  · exact .inl rfl
  · split
    · exact .inl rfl
    · next t _ =>
      dsimp only
      repeat' split
      case isFalse.isFalse.isFalse.isFalse hready hrefs =>
        exact .inr ⟨t, not_not.mp hready, not_not.mp hrefs, rfl⟩
      all_goals exact .inl rfl

theorem unload_cueStoreLaw (r : Req) (s : State) (h : CueStoreLaw s) : CueStoreLaw (unload r s).1 := by
  obtain hs | ⟨t, hready, -, hs⟩ := unload_cases r s
  · rw [hs]; exact h
  · rw [hs]; exact cueStoreLaw_of_titles (freeTitle_cueStoreLaw h (by simp [hready])) rfl

/-! ### References (R56, R61) -/

theorem bindTitle_cueStoreLaw (a : Aud) (t : TitleNo) {s : State} (h : CueStoreLaw s) :
    CueStoreLaw (bindTitle a t s) :=
  RetouchesTitle.cueStoreLaw (t := t) ⟨⟨_, rfl, ⟨Iff.rfl, rfl, rfl⟩⟩, rfl⟩ h

/-- Of the title block ARM changes what the binding does (R56, R57). -/
theorem armTaken_titles (a : Aud) (t : TitleNo) (s : State) : (armTaken a t s).titles = (bindTitle a t s).titles := by
  simp only [armTaken, suspendTest_titles, handEdges_titles, reresolveAud_titles, State.clearFrame_titles,
    State.clearCursors_titles, State.setClock_titles]

theorem unbindTitle_cueStoreLaw (a : Aud) {s : State} (h : CueStoreLaw s) : CueStoreLaw (unbindTitle a s) := by
  unfold unbindTitle
  cases s.shows[a].title with
  | none => exact cueStoreLaw_of_titles h rfl
  | some t => exact RetouchesTitle.cueStoreLaw (t := t) ⟨⟨_, rfl, ⟨Iff.rfl, rfl, rfl⟩⟩, rfl⟩ h

/-- ARM changes nothing, or binds a DARK context to a READY title (R54). -/
theorem arm_cases (r : Req) (s : State) : (arm r s).1 = s ∨
    ∃ a t, s.shows[a].state = .dark ∧ (s.title t).state = .ready ∧ (arm r s).1 = armTaken a t s := by
  unfold arm
  split
  · exact .inl rfl
  · next a _ =>
    repeat' split
    case h_2.isFalse.isFalse hdark _ _ t _ hready _ =>
      exact .inr ⟨a, t, not_not.mp hdark, not_not.mp hready, by dsimp only⟩
    all_goals exact .inl rfl

theorem arm_cueStoreLaw (r : Req) (s : State) (h : CueStoreLaw s) : CueStoreLaw (arm r s).1 := by
  obtain hs | ⟨a, t, -, -, hs⟩ := arm_cases r s
  · rw [hs]; exact h
  · rw [hs]; exact cueStoreLaw_of_titles (bindTitle_cueStoreLaw a t h) (armTaken_titles a t s)

theorem darkenTaken_cueStoreLaw (a : Aud) {s : State} (h : CueStoreLaw s) : CueStoreLaw (darkenTaken a s) := by
  unfold darkenTaken
  dsimp only
  refine suspendTest_cueStoreLaw (unbindTitle_cueStoreLaw a (cueStoreLaw_of_titles h ?_))
  simp only [State.clearFrame_titles, State.clearCursors_titles, handEdges_titles, unresolveAud_titles]

theorem darken_cueStoreLaw (r : Req) (s : State) (h : CueStoreLaw s) : CueStoreLaw (darken r s).1 := by
  unfold darken
  split
  · exact h
  · split
    · exact h
    · exact darkenTaken_cueStoreLaw _ h

/-! ### Resets (R212, R213) -/

theorem resetAll_cueStoreLaw (s : State) : CueStoreLaw (resetAll s) := cueStoreLaw_of_reset rfl rfl

theorem powerOn_cueStoreLaw (s : State) : CueStoreLaw (powerOn s) := cueStoreLaw_of_reset rfl rfl

theorem resetRequest_cueStoreLaw (r : Req) {s : State} (h : CueStoreLaw s) : CueStoreLaw (resetRequest r s) := by
  unfold resetRequest
  split
  · unfold resetTaken
    split
    · exact cueStoreLaw_of_titles h rfl
    · exact cueStoreLaw_of_titles (resetAll_cueStoreLaw s) rfl
  · exact request_cueStoreLaw (fun _ h => h) _ _ h

theorem resetTakesEffect_cueStoreLaw {s : State} (h : CueStoreLaw s) : CueStoreLaw (resetTakesEffect s) := by
  unfold resetTakesEffect
  split
  · exact cueStoreLaw_of_titles (resetAll_cueStoreLaw _) rfl
  · exact h

theorem programCompletion_cueStoreLaw {s : State} (h : CueStoreLaw s) : CueStoreLaw (programCompletion s) := by
  unfold programCompletion
  split
  · split
    · exact resetTakesEffect_cueStoreLaw h
    · exact cueStoreLaw_of_titles h rfl
  · exact h

theorem eraseCompletion_cueStoreLaw {s : State} (h : CueStoreLaw s) : CueStoreLaw (eraseCompletion s) := by
  unfold eraseCompletion
  split
  · split
    · exact resetTakesEffect_cueStoreLaw h
    · exact cueStoreLaw_of_titles h rfl
  · exact h

/-! ### The step -/

theorem exec_cueStoreLaw (i : Instr) {s : State} (h : CueStoreLaw s) : ∃ t, exec i s = .next t ∧ CueStoreLaw t := by
  by_cases hi : keepsTitles i = true
  · obtain ⟨t, hexec, ht⟩ := exec_keepsTitles hi s
    exact ⟨t, hexec, cueStoreLaw_of_titles h ht⟩
  cases i with
  | powerOn => exact ⟨_, rfl, powerOn_cueStoreLaw s⟩
  | reset r => exact ⟨_, rfl, resetRequest_cueStoreLaw r h⟩
  | resetTakesEffect => exact ⟨_, rfl, resetTakesEffect_cueStoreLaw h⟩
  | programCompletion => exact ⟨_, rfl, programCompletion_cueStoreLaw h⟩
  | eraseCompletion => exact ⟨_, rfl, eraseCompletion_cueStoreLaw h⟩
  | loadIdleTimeout t => exact ⟨_, rfl, loadIdleTimeout_cueStoreLaw t h⟩
  | loadOpen r => exact ⟨_, rfl, request_cueStoreLaw (loadOpen_cueStoreLaw r) _ _ h⟩
  | loadData r => exact ⟨_, rfl, request_cueStoreLaw (loadData_cueStoreLaw r) _ _ h⟩
  | loadFinish r => exact ⟨_, rfl, request_cueStoreLaw (loadFinish_cueStoreLaw r) _ _ h⟩
  | finishingCompletion t => exact ⟨_, rfl, finishingCompletion_cueStoreLaw t h⟩
  | clipListOverflow t => exact ⟨_, rfl, clipListOverflow_cueStoreLaw t h⟩
  | loadAbort r => exact ⟨_, rfl, request_cueStoreLaw (loadAbort_cueStoreLaw r) _ _ h⟩
  | unload r => exact ⟨_, rfl, request_cueStoreLaw (unload_cueStoreLaw r) _ _ h⟩
  | arm r => exact ⟨_, rfl, request_cueStoreLaw (arm_cueStoreLaw r) _ _ h⟩
  | darken r => exact ⟨_, rfl, request_cueStoreLaw (darken_cueStoreLaw r) _ _ h⟩
  | _ => exact absurd rfl hi

/-- Settles O54: an idle step changes nothing, and the command at the front of the queue either leaves the title block
alone or hands slots between one record and the free-extent list, or is a reset. -/
theorem everyStepKeepsTheCueStore : Obligations.EveryStepKeepsTheCueStore := by
  intro s t h hstep
  unfold step at hstep
  cases hq : s.pending with
  | nil =>
    rw [hq] at hstep
    cases hstep
    exact h
  | cons i rest =>
    rw [hq] at hstep
    obtain ⟨u, hexec, hu⟩ := exec_cueStoreLaw i (s := { s with pending := rest }) (cueStoreLaw_of_titles h rfl)
    cases hexec.symm.trans hstep
    exact hu

end Sys2Proof.Machine
end

/-! What leaves the auditoriums as they are: which commands change no context (chapter 3) and no show clock (chapter 4),
from the operations they are made of up to the dispatch. -/
section
namespace Sys2Proof.Machine

/-! ### The relation -/

/-- `t` has the contexts and the clocks of `s`; they may differ in every other block. -/
structure SameShows (s t : State) : Prop where
  shows : t.shows = s.shows
  clock : t.clock = s.clock

theorem SameShows.rfl' {s : State} : SameShows s s := ⟨rfl, rfl⟩

theorem SameShows.trans' {s t u : State} (h : SameShows s t) (h' : SameShows t u) : SameShows s u :=
  ⟨h'.shows.trans h.shows, h'.clock.trans h.clock⟩

theorem SameShows.foldl {α : Type} {f : State → α → State} (h : ∀ s x, SameShows s (f s x)) (l : List α) (s : State) :
    SameShows s (l.foldl f s) :=
  List.foldlRecOn l f (motive := SameShows s) .rfl' fun u hu x _ => hu.trans' (h u x)

/-- Lookups, fills, grants and releases of streams change no auditorium. -/
theorem StreamFrame.sameShows {s t : State} (h : StreamFrame s t) : SameShows s t := ⟨h.shows, h.clock⟩

theorem SameShows.suspendTest {s t : State} (h : SameShows s t) : SameShows s (suspendTest t) :=
  h.trans' ⟨suspendTest_shows t, suspendTest_clock t⟩

/-- A request whose effect changes no auditorium (R204, R205). -/
theorem request_sameShows {act : State → State × Reply} (hact : ∀ s, SameShows s (act s).1) (r : Req) (k : Byte)
    (s : State) : SameShows s (request r k act s) :=
  request_keeps (P := SameShows s) (fun _ _ _ h => h.trans' ⟨rfl, rfl⟩) (fun u h => h.trans' (hact u)) .rfl'

theorem linkError_sameShows (s : State) (p : Port) (x : Rx) : SameShows s (s.linkError p x) := ⟨rfl, rfl⟩

theorem owedByte_sameShows (s : State) (p : Port) : SameShows s (s.owedByte p) := ⟨by simp, by simp⟩

/-! ### Titles and their loading (chapters 1 and 2) -/

theorem freeTitle_sameShows (s : State) (t : TitleNo) : SameShows s (s.freeTitle t) := ⟨by simp, by simp⟩

theorem failLoad_sameShows (t : TitleNo) (reason : FailReason) (s : State) : SameShows s (failLoad t reason s) := by
  unfold failLoad
  dsimp only
  split
  · exact (freeTitle_sameShows s t).trans' ⟨rfl, rfl⟩
  · exact freeTitle_sameShows s t

theorem loadOpen_sameShows (r : Req) (s : State) : SameShows s (loadOpen r s).1 := by
  obtain hs | ⟨d, p, t, x, -, -, hs⟩ := loadOpen_cases r s
  · rw [hs]; exact .rfl'
  · rw [hs]; exact ⟨rfl, rfl⟩

theorem appendEntry_sameShows {t : TitleNo} {tn : Nat} {e : RawEntry} {s : State} {r : State × Bool}
    (h : appendEntry t tn e s = .ok r) : SameShows s r.1 := by
  unfold appendEntry at h
  dsimp only at h
  repeat' split at h
  all_goals cases h
  all_goals exact ⟨rfl, rfl⟩

theorem appendEntries_sameShows (t : TitleNo) (tn : Nat) (es : List RawEntry) (cut : Bool) (s : State) :
    SameShows s (appendEntries t tn es cut s).1 := by
  induction es generalizing cut s with
  | nil => exact .rfl'
  | cons e es ih =>
    unfold appendEntries
    split
    · exact failLoad_sameShows _ _ _
    · next r hr => exact (appendEntry_sameShows hr).trans' (ih _ _)

theorem loadData_sameShows (r : Req) (s : State) : SameShows s (loadData r s).1 := by
  unfold loadData
  dsimp only
  split
  · exact .rfl'
  · next t _ =>
    refine SameShows.trans' (t := touchTitle t s) ⟨rfl, rfl⟩ ?_
    split
    · exact failLoad_sameShows _ _ _
    · split
      · exact .rfl'
      · exact appendEntries_sameShows _ _ _ _ _

theorem loadFinish_sameShows (r : Req) (s : State) : SameShows s (loadFinish r s).1 := by
  unfold loadFinish
  split
  · exact .rfl'
  · dsimp only
    split <;> exact ⟨rfl, rfl⟩

theorem finishingCompletion_sameShows (t : TitleNo) (s : State) : SameShows s (finishingCompletion t s) := by
  unfold finishingCompletion
  dsimp only
  split
  · split <;> exact ⟨by simp, by simp⟩
  · exact .rfl'

theorem clipListOverflow_sameShows (t : TitleNo) (s : State) : SameShows s (clipListOverflow t s) := by
  unfold clipListOverflow
  dsimp only
  split
  · exact failLoad_sameShows _ _ _
  · exact .rfl'

theorem loadAbort_sameShows (r : Req) (s : State) : SameShows s (loadAbort r s).1 := by
  unfold loadAbort
  split
  · exact .rfl'
  · exact freeTitle_sameShows _ _

theorem loadIdleTimeout_sameShows (t : TitleNo) (s : State) : SameShows s (loadIdleTimeout t s) := by
  unfold loadIdleTimeout
  split
  · exact failLoad_sameShows _ _ _
  · exact .rfl'

theorem unload_sameShows (r : Req) (s : State) : SameShows s (unload r s).1 := by
  obtain hs | ⟨t, -, -, hs⟩ := unload_cases r s
  · rw [hs]; exact .rfl'
  · rw [hs]; exact (freeTitle_sameShows s t).trans' ⟨rfl, rfl⟩

/-! ### Receivers (chapter 6) -/

theorem reresolveAud_sameShows (a : Aud) (s : State) : SameShows s (reresolveAud a s) := by
  refine .foldl (fun u i => ?_) _ _
  unfold reresolve
  dsimp only
  split <;> exact ⟨rfl, rfl⟩

theorem unresolveAud_sameShows (a : Aud) (s : State) : SameShows s (unresolveAud a s) :=
  ⟨by simp only [unresolveAud], by simp only [unresolveAud]⟩

theorem changeRec_sameShows (i : RecNo) (new : Receiver) (s : State) : SameShows s (changeRec i new s) := by
  unfold changeRec
  exact SameShows.trans' ⟨State.putRec_shows s i new, State.putRec_clock s i new⟩ (handEdges_frame _ _).sameShows

theorem itemHello_sameShows (p : Fin 2) (it : Item) (s : State) : SameShows s (itemHello p it s).1 := by
  unfold itemHello
  split
  · exact .rfl'
  · split
    · exact .rfl'
    · split
      · exact .rfl'
      · split
        · exact changeRec_sameShows _ _ _
        · split
          · exact changeRec_sameShows _ _ _
          · exact ⟨rfl, rfl⟩

theorem itemChoose_sameShows (p : Fin 2) (it : Item) (s : State) : SameShows s (itemChoose p it s).1 := by
  unfold itemChoose
  repeat' split
  case h_2 => exact changeRec_sameShows _ _ _
  all_goals exact .rfl'

theorem itemAlive_sameShows (p : Fin 2) (it : Item) (s : State) : SameShows s (itemAlive p it s).1 := by
  unfold itemAlive
  repeat' split
  all_goals exact ⟨rfl, rfl⟩

theorem itemBye_sameShows (p : Fin 2) (it : Item) (s : State) : SameShows s (itemBye p it s).1 := by
  unfold itemBye
  repeat' split
  case h_2 => exact changeRec_sameShows _ _ _
  all_goals exact .rfl'

theorem takeItem_sameShows (p : Fin 2) (it : Item) (s : State) : SameShows s (takeItem p it s).1 := by
  unfold takeItem
  split
  · exact .rfl'
  · exact itemHello_sameShows p it s
  · exact itemChoose_sameShows p it s
  · exact itemAlive_sameShows p it s
  · exact itemBye_sameShows p it s

theorem takeItems_sameShows (p : Fin 2) (its : List Item) (s : State) : SameShows s (takeItems p its s).1 := by
  induction its generalizing s with
  | nil => exact .rfl'
  | cons it rest ih => exact (takeItem_sameShows p it s).trans' (ih _)

theorem report_sameShows (r : Req) (s : State) : SameShows s (report r s).1 := by
  unfold report
  cases r.port with
  | feed _ | m => exact .rfl'
  | air p =>
    dsimp only [reportOn]
    split
    · exact .rfl'
    · split
      · exact .rfl'
      · exact (takeItems_sameShows _ _ _).suspendTest

theorem houseSecondBoundary_sameShows (s : State) : SameShows s (houseSecondBoundary s) := by
  unfold houseSecondBoundary
  split <;> exact ⟨rfl, rfl⟩

theorem expireRec_sameShows (k : Nat) (s : State) (i : RecNo) : SameShows s (expireRec k s i) := by
  unfold expireRec
  dsimp only
  split
  · split <;> exact ⟨rfl, rfl⟩
  · exact .rfl'

theorem keepAliveExpiry_sameShows (s : State) : SameShows s (keepAliveExpiry s) := by
  unfold keepAliveExpiry
  cases s.due.expiry with
  | none => exact .rfl'
  | some k =>
    dsimp only
    refine (SameShows.trans' ?_ (handEdges_frame _ _).sameShows).suspendTest
    refine SameShows.trans' ?_ (.foldl (expireRec_sameShows k) _ _)
    exact ⟨rfl, rfl⟩

/-! ### Payloads (chapter 7) -/

/-- An offer whose placing changes no auditorium (R146). -/
theorem offer_sameShows {placed : State → State} (h : ∀ s, SameShows s (placed s)) (k : PullContext) (x : Section)
    (c : Compose) : SameShows c.state (offer k x placed c).1.state := by
  unfold offer
  split
  · exact h _
  · exact ⟨rfl, rfl⟩

/-- A fold over a composition whose every step changes no auditorium; `get` is the composition within what the fold
carries. -/
theorem compose_foldl_sameShows {α β : Type} (get : β → Compose) {f : β → α → β}
    (h : ∀ b x, SameShows (get b).state (get (f b x)).state) (l : List α) (b : β) :
    SameShows (get b).state (get (l.foldl f b)).state :=
  List.foldlRecOn l f (motive := fun d => SameShows (get b).state (get d).state) .rfl'
    fun d hd x _ => hd.trans' (h d x)

theorem removeLateTrack_sameShows (k : PullContext) (s : State) (t : TrackNo) :
    SameShows s (removeLateTrack k s t) := by
  unfold removeLateTrack
  split
  · unfold removeLate
    dsimp only
    split
    · exact .rfl'
    · exact ((StreamFrame.of_stream s _).trans' (fill_frame _ _)).sameShows
  · exact .rfl'

theorem takePosition_sameShows (k : PullContext) (i : StreamNo) (p : RingPos) (s : State) :
    SameShows s (takePosition k i p s) :=
  ((StreamFrame.of_stream s _).trans' (fill_frame _ _)).sameShows

theorem offerDue_sameShows (k : PullContext) (t : TrackNo) (i : StreamNo) (c : Compose) :
    SameShows c.state (offerDue k t i c).1.state := by
  unfold offerDue
  split
  · exact .rfl'
  · split
    · exact offer_sameShows (takePosition_sameShows _ _ _) _ _ _
    · exact .rfl'

theorem offerFirst_sameShows (k : PullContext) (acc : Compose × List TrackNo) (t : TrackNo) :
    SameShows acc.1.state (offerFirst k acc t).1.state := by
  unfold offerFirst
  split
  · exact offerDue_sameShows _ _ _ _
  · split
    · exact offer_sameShows (fun _ => .rfl') _ _ _
    · exact .rfl'

theorem offerSecond_sameShows (k : PullContext) (c : Compose) (t : TrackNo) :
    SameShows c.state (offerSecond k c t).state := by
  unfold offerSecond
  split
  · exact offerDue_sameShows _ _ _ _
  · exact .rfl'

theorem composeAudio_sameShows (k : PullContext) (tracks : List TrackNo) (c : Compose) :
    SameShows c.state (composeAudio k tracks c).state := by
  have hlate : SameShows c.state (tracks.foldl (removeLateTrack k) c.state) := .foldl (removeLateTrack_sameShows k) _ _
  have hfirst := compose_foldl_sameShows Prod.fst (offerFirst_sameShows k) tracks
    (({ c with state := tracks.foldl (removeLateTrack k) c.state } : Compose), [])
  exact hlate.trans' (hfirst.trans' (compose_foldl_sameShows id (offerSecond_sameShows k) _ _))

theorem markSent_sameShows (k : PullContext) (t : TrackNo) (x : Sent) (s : State) : SameShows s (markSent k t x s) :=
  ⟨rfl, rfl⟩

theorem markRepeat_sameShows (k : PullContext) (t : TrackNo) (s : State) : SameShows s (markRepeat k t s) := ⟨rfl, rfl⟩

theorem offerChanged_sameShows (k : PullContext) (acc : Compose × List CaptionLook) (t : TrackNo) :
    SameShows acc.1.state (offerChanged k acc t).1.state := by
  unfold offerChanged
  dsimp only
  split
  · exact .rfl'
  · dsimp only
    split
    · refine SameShows.trans' ?_ (offer_sameShows (markSent_sameShows k t _) _ _ _)
      exact ⟨rfl, rfl⟩
    · exact ⟨rfl, rfl⟩

theorem offerRepeat_sameShows (k : PullContext) (c : Compose) (l : CaptionLook) :
    SameShows c.state (offerRepeat k c l).state := by
  unfold offerRepeat
  split
  · exact .rfl'
  · exact offer_sameShows (markRepeat_sameShows k _) _ _ _

theorem composeCaptions_sameShows (k : PullContext) (tracks : List TrackNo) (c : Compose) :
    SameShows c.state (composeCaptions k tracks c).state :=
  (compose_foldl_sameShows Prod.fst (offerChanged_sameShows k) tracks (c, [])).trans'
    (compose_foldl_sameShows id (offerRepeat_sameShows k) _ _)

theorem offerLostClear_sameShows (k : PullContext) (c : Compose) (t : TrackNo) :
    SameShows c.state (offerLostClear k c t).state :=
  offer_sameShows (markSent_sameShows k t _) _ _ _

theorem composeSections_sameShows (k : PullContext) (x : ShowState) (audio captions : List TrackNo) (c : Compose) :
    SameShows c.state (composeSections k x audio captions c).state := by
  cases x with
  | dark | armed => exact .rfl'
  | running | freewheel => exact (composeAudio_sameShows _ _ _).trans' (composeCaptions_sameShows _ _ _)
  | held => exact composeCaptions_sameShows _ _ _
  | lost => exact compose_foldl_sameShows id (offerLostClear_sameShows k) _ _

theorem pullTaken_sameShows (p : Fin 2) (a : Aud) (s : State) : SameShows s (pullTaken p a s).1 := by
  refine SameShows.suspendTest (SameShows.trans' ?_ (composeSections_sameShows _ _ _ _ _))
  exact ⟨rfl, rfl⟩

theorem pull_sameShows (r : Req) (s : State) : SameShows s (pull r s).1 := by
  unfold pull
  cases r.port with
  | feed _ | m => exact .rfl'
  | air p =>
    dsimp only [pullOn]
    split
    · exact .rfl'
    · split
      · exact .rfl'
      · split
        · exact .rfl'
        · exact pullTaken_sameShows _ _ _

/-! ### The position cache (chapter 5) and the clip store (chapter 9) -/

theorem cacheProbe_sameShows (r : Req) (s : State) : SameShows s (cacheProbe r s).1 := by
  unfold cacheProbe
  dsimp only
  repeat' split
  all_goals exact .rfl'

theorem cacheFlush_sameShows (r : Req) (s : State) : SameShows s (cacheFlush r s).1 := by
  unfold cacheFlush
  split <;> exact ⟨rfl, rfl⟩

theorem clipDefine_sameShows (r : Req) (s : State) : SameShows s (clipDefine r s).1 := by
  unfold clipDefine
  dsimp only
  repeat' split
  all_goals exact ⟨rfl, rfl⟩

theorem clipDelete_sameShows (r : Req) (s : State) : SameShows s (clipDelete r s).1 := by
  unfold clipDelete
  repeat' split
  all_goals exact ⟨rfl, rfl⟩

theorem clipProtect_sameShows (r : Req) (s : State) : SameShows s (clipProtect r s).1 := by
  unfold clipProtect
  dsimp only
  split <;> exact ⟨rfl, rfl⟩

theorem clipWriteEnable_sameShows (r : Req) (s : State) : SameShows s (clipWriteEnable r s).1 := by
  unfold clipWriteEnable
  split <;> exact ⟨rfl, rfl⟩

theorem clipProgram_sameShows (r : Req) (s : State) : SameShows s (clipProgram r s).1 := by
  unfold clipProgram
  dsimp only
  repeat' split
  all_goals exact ⟨rfl, rfl⟩

theorem clipErase_sameShows (r : Req) (s : State) : SameShows s (clipErase r s).1 := by
  unfold clipErase
  dsimp only
  repeat' split
  all_goals exact ⟨rfl, rfl⟩

theorem clipVerify_sameShows (r : Req) (s : State) : SameShows s (clipVerify r s).1 := by
  unfold clipVerify
  dsimp only
  repeat' split
  all_goals exact ⟨rfl, rfl⟩

theorem startTurn_sameShows (s : State) : SameShows s (startTurn s) := by
  unfold startTurn
  split <;> exact ⟨rfl, rfl⟩

theorem startFetch_sameShows (r : FetchRecord) (s : State) : SameShows s (startFetch r s) := by
  refine SameShows.trans' ?_ (grantRoom_frame 24 _).sameShows
  exact ⟨rfl, rfl⟩

theorem arbiterChoice_sameShows (s : State) : SameShows s (arbiterChoice s) := by
  unfold arbiterChoice
  split
  · split
    · exact startTurn_sameShows s
    · split
      · exact (startFetch_sameShows _ s).suspendTest
      · exact .rfl'
  · exact .rfl'

theorem fetchCompletion_sameShows (s : State) : SameShows s (fetchCompletion s) := by
  unfold fetchCompletion
  split <;> exact ⟨rfl, rfl⟩

theorem verifyTurnCompletion_sameShows (s : State) : SameShows s (verifyTurnCompletion s) := by
  unfold verifyTurnCompletion
  split
  · dsimp only
    split <;> exact ⟨rfl, rfl⟩
  · exact .rfl'

/-! ### Ports and settings (chapter 10) -/

theorem frameCheckFail_sameShows (p : Port) (s : State) : SameShows s (frameCheckFail p s) := by
  unfold frameCheckFail
  split
  · exact owedByte_sameShows _ _
  · exact linkError_sameShows _ _ _

theorem frameLengthDiscard_sameShows (p : Port) (s : State) : SameShows s (frameLengthDiscard p s) := by
  unfold frameLengthDiscard
  split
  · exact owedByte_sameShows _ _
  · exact linkError_sameShows _ _ _

theorem discardPartial_sameShows (p : Port) (s : State) : SameShows s (discardPartial p s) := by
  unfold discardPartial
  split <;> exact ⟨rfl, rfl⟩

theorem unknownRequest_sameShows (p : Port) (kind tag : Byte) (s : State) :
    SameShows s (unknownRequest p kind tag s) := by
  unfold unknownRequest
  split
  · exact owedByte_sameShows _ _
  · split <;> exact ⟨rfl, rfl⟩

theorem responseSent_sameShows (p : Port) (s : State) : SameShows s (responseSent p s) := by
  unfold responseSent
  split <;> exact ⟨rfl, rfl⟩

theorem syncByte_sameShows (p : Port) (s : State) : SameShows s (syncByte p s) := by
  unfold syncByte
  split
  · exact ⟨rfl, rfl⟩
  · exact .rfl'
  · exact owedByte_sameShows _ _

theorem sense_sameShows (r : Req) (s : State) : SameShows s (sense r s).1 := by
  unfold sense
  dsimp only
  repeat' split
  all_goals exact ⟨rfl, rfl⟩

theorem tableRead_sameShows (r : Req) (s : State) : SameShows s (tableRead r s).1 := by
  unfold tableRead
  dsimp only
  split
  · exact .rfl'
  · split
    · exact .rfl'
    · dsimp only
      split <;> exact ⟨rfl, rfl⟩

/-- SET changes nothing where its row is another's, it is refused, or its port is OWED; else what its parameter's store
changes, and what its port owes (R207). -/
theorem setRequest_keeps {P : State → Prop} {store : Nat → Nat → State → Option State}
    (hport : ∀ s p x, P s → P (s.setPort p x)) (hstore : ∀ target v s u, store target v s = some u → P s → P u)
    (param lo hi : Nat) (r : Req) {s : State} (h : P s) : P (setRequest param lo hi store r s) := by
  unfold setRequest
  split
  · refine request_keeps hport (fun u hu => ?_) h
    unfold setParam
    dsimp only
    split
    · exact hu
    · split
      · exact hu
      · split
        · exact hu
        · next hs => exact hstore _ _ _ _ hs hu
  · exact h

/-- A SET whose parameter's store changes no auditorium. -/
theorem setRequest_sameShows {store : Nat → Nat → State → Option State}
    (hstore : ∀ target v s u, store target v s = some u → SameShows s u) (param lo hi : Nat) (r : Req) (s : State) :
    SameShows s (setRequest param lo hi store r s) :=
  setRequest_keeps (P := SameShows s) (fun _ _ _ h => h.trans' ⟨rfl, rfl⟩)
    (fun _ _ _ _ hu h => h.trans' (hstore _ _ _ _ hu)) _ _ _ _ .rfl'

theorem setAirParam_sameShows (f : AirParams → Nat → AirParams) (target v : Nat) (s u : State)
    (h : setAirParam f target v s = some u) : SameShows s u := by
  obtain ⟨p, -, rfl⟩ := Option.map_eq_some_iff.mp h
  exact ⟨rfl, rfl⟩

theorem storeLoadIdleTime_sameShows (target v : Nat) (s u : State) (h : storeLoadIdleTime target v s = some u) :
    SameShows s u := by
  cases h; exact ⟨rfl, rfl⟩

theorem storeKeepAlive_sameShows (target v : Nat) (s u : State) (h : storeKeepAlive target v s = some u) :
    SameShows s u := by
  cases h; exact ⟨rfl, rfl⟩

theorem storeMargin_sameShows (target v : Nat) (s u : State) (h : storeMargin target v s = some u) :
    SameShows s u := by
  cases h
  refine SameShows.suspendTest ?_
  exact ⟨rfl, rfl⟩

theorem storeLead_sameShows (target v : Nat) (s u : State) (h : storeLead target v s = some u) : SameShows s u := by
  obtain ⟨w, hw, rfl⟩ := Option.map_eq_some_iff.mp h
  exact (setAirParam_sameShows _ _ _ _ _ hw).suspendTest

theorem storeBitRate_sameShows (target v : Nat) (s u : State) (h : storeBitRate target v s = some u) :
    SameShows s u := by
  obtain ⟨p, -, rfl⟩ := Option.map_eq_some_iff.mp h
  exact ⟨rfl, rfl⟩

theorem bitRateChangeApplies_sameShows (p : Port) (s : State) : SameShows s (bitRateChangeApplies p s) := by
  unfold bitRateChangeApplies
  dsimp only
  split
  · split <;> exact ⟨rfl, rfl⟩
  · exact .rfl'

/-! ### The dispatch -/

/-- The commands that change no context and no clock: all but the resets (and the completions that a waiting RESET turns
into one, R199), the house tick and the silence boundary, the show requests, the two maps, the three settings of a
clock, and STATS, which clears two statistics of each clock. -/
def keepsShows : Instr → Bool
  | .powerOn | .reset _ | .resetTakesEffect | .programCompletion | .eraseCompletion => false
  | .houseTick | .silenceBoundary _ => false
  | .arm _ | .run _ | .hold _ | .darken _ | .position _ | .assignFeed _ | .assignAir _ => false
  | .setJumpThreshold _ | .setGainExponent _ | .setSilenceInterval _ | .stats _ => false
  | _ => true

theorem exec_keepsShows {i : Instr} (hi : keepsShows i = true) (s : State) :
    ∃ t, exec i s = .next t ∧ SameShows s t := by
  cases i with
  | powerOn | resetTakesEffect | programCompletion | eraseCompletion | houseTick => cases hi
  | reset _ | silenceBoundary _ | arm _ | run _ | hold _ | darken _ | position _ => cases hi
  | assignFeed _ | assignAir _ | setJumpThreshold _ | setGainExponent _ | setSilenceInterval _ | stats _ => cases hi
  | houseSecondBoundary => exact ⟨_, rfl, houseSecondBoundary_sameShows s⟩
  | keepAliveExpiry => exact ⟨_, rfl, keepAliveExpiry_sameShows s⟩
  | loadIdleTimeout t => exact ⟨_, rfl, loadIdleTimeout_sameShows t s⟩
  | loadOpen r => exact ⟨_, rfl, request_sameShows (loadOpen_sameShows r) _ _ _⟩
  | loadData r => exact ⟨_, rfl, request_sameShows (loadData_sameShows r) _ _ _⟩
  | loadFinish r => exact ⟨_, rfl, request_sameShows (loadFinish_sameShows r) _ _ _⟩
  | finishingCompletion t => exact ⟨_, rfl, finishingCompletion_sameShows t s⟩
  | clipListOverflow t => exact ⟨_, rfl, clipListOverflow_sameShows t s⟩
  | loadAbort r => exact ⟨_, rfl, request_sameShows (loadAbort_sameShows r) _ _ _⟩
  | unload r => exact ⟨_, rfl, request_sameShows (unload_sameShows r) _ _ _⟩
  | report r => exact ⟨_, rfl, request_sameShows (report_sameShows r) _ _ _⟩
  | pull r => exact ⟨_, rfl, request_sameShows (pull_sameShows r) _ _ _⟩
  | sense r => exact ⟨_, rfl, request_sameShows (sense_sameShows r) _ _ _⟩
  | setLoadIdleTime r => exact ⟨_, rfl, setRequest_sameShows storeLoadIdleTime_sameShows _ _ _ _ _⟩
  | setKeepAliveTime r => exact ⟨_, rfl, setRequest_sameShows storeKeepAlive_sameShows _ _ _ _ _⟩
  | setUrgencyMargin r => exact ⟨_, rfl, setRequest_sameShows storeMargin_sameShows _ _ _ _ _⟩
  | setLead r => exact ⟨_, rfl, setRequest_sameShows storeLead_sameShows _ _ _ _ _⟩
  | setCapacity r | setRepeatPeriod r | setWindow r =>
    exact ⟨_, rfl, setRequest_sameShows (setAirParam_sameShows _) _ _ _ _ _⟩
  | setBitRate r => exact ⟨_, rfl, setRequest_sameShows storeBitRate_sameShows _ _ _ _ _⟩
  | bitRateChangeApplies p => exact ⟨_, rfl, bitRateChangeApplies_sameShows p s⟩
  | tableRead r => exact ⟨_, rfl, request_sameShows (tableRead_sameShows r) _ _ _⟩
  | cacheProbe r => exact ⟨_, rfl, request_sameShows (cacheProbe_sameShows r) _ _ _⟩
  | cacheFlush r => exact ⟨_, rfl, request_sameShows (cacheFlush_sameShows r) _ _ _⟩
  | clipDefine r => exact ⟨_, rfl, request_sameShows (clipDefine_sameShows r) _ _ _⟩
  | clipDelete r => exact ⟨_, rfl, request_sameShows (clipDelete_sameShows r) _ _ _⟩
  | clipWriteEnable r => exact ⟨_, rfl, request_sameShows (clipWriteEnable_sameShows r) _ _ _⟩
  | clipProgram r => exact ⟨_, rfl, request_sameShows (clipProgram_sameShows r) _ _ _⟩
  | clipErase r => exact ⟨_, rfl, request_sameShows (clipErase_sameShows r) _ _ _⟩
  | clipVerify r => exact ⟨_, rfl, request_sameShows (clipVerify_sameShows r) _ _ _⟩
  | clipProtect r => exact ⟨_, rfl, request_sameShows (clipProtect_sameShows r) _ _ _⟩
  | flashArbiterChoice => exact ⟨_, rfl, arbiterChoice_sameShows s⟩
  | fetchCompletion => exact ⟨_, rfl, fetchCompletion_sameShows s⟩
  | verifyTurnCompletion => exact ⟨_, rfl, verifyTurnCompletion_sameShows s⟩
  | frameCheckFail p => exact ⟨_, rfl, frameCheckFail_sameShows p s⟩
  | frameLengthDiscard p => exact ⟨_, rfl, frameLengthDiscard_sameShows p s⟩
  | frameGapTimeout p | breakCondition p => exact ⟨_, rfl, discardPartial_sameShows p s⟩
  | owedByteDiscard p => exact ⟨_, rfl, owedByte_sameShows s p⟩
  | unknownRequest p kind tag => exact ⟨_, rfl, unknownRequest_sameShows p kind tag s⟩
  | responseSent p => exact ⟨_, rfl, responseSent_sameShows p s⟩
  | syncByte p => exact ⟨_, rfl, syncByte_sameShows p s⟩

end Sys2Proof.Machine
end

/-! The law of the show clock (R79): the clocks in their limits, and what each way of changing one keeps. -/
section
namespace Sys2Proof.Machine

open Sys2Proof.Safety

/-! ### One clock -/

/-- Are the position and the trim of the clock within the limits of R79? -/
def AudClock.InLimits (c : AudClock) : Prop :=
  c.pos ≤ Config.maxPos ∧ -Config.maxTrim ≤ c.trim ∧ c.trim ≤ Config.maxTrim

theorem clockLaw_iff (s : State) : ClockLaw s ↔ ∀ a : Aud, s.clock.auds[a].InLimits := Iff.rfl

theorem AudClock.reset_inLimits : AudClock.reset.InLimits := by simp [AudClock.InLimits, AudClock.reset]

theorem AudClock.fresh_inLimits (c : AudClock) : c.fresh.InLimits := by simp [AudClock.InLimits, AudClock.fresh]

/-- An advance saturates at the greatest position (R69). -/
theorem AudClock.InLimits.advance {c : AudClock} (h : c.InLimits) : { c with pos := advancePos c }.InLimits :=
  ⟨min_le_right _ _, h.2⟩

/-- A show time of 24 bits is a position of 40 bits (R74, R75). -/
theorem showTime_le_maxPos {r : Nat} (hr : r ≤ Config.maxShow) : r * Config.subTicks ≤ Config.maxPos :=
  (Nat.mul_le_mul_right _ hr).trans (by decide)

theorem AudClock.InLimits.place {c : AudClock} (h : c.InLimits) {r : Nat} (hr : r ≤ Config.maxShow) :
    (c.place r).InLimits :=
  ⟨showTime_le_maxPos hr, h.2⟩

/-- A slew by a quarter of the error ends between the position it left and the one reported (R73, R77). -/
theorem slew_pos_le (c : AudClock) (r : Nat) : (c.slew (errorOf c r)).pos ≤ max c.pos (r * Config.subTicks) := by
  simp only [AudClock.slew]
  obtain hneg | hpos : errorOf c r ≤ 0 ∨ 0 ≤ errorOf c r := le_total _ _
  · have hquarter : 0 ≤ (-errorOf c r).tdiv 4 := Int.tdiv_nonneg (by omega) (by decide)
    rw [Int.neg_tdiv] at hquarter
    omega
  · have hquarter : (errorOf c r).tdiv 4 ≤ errorOf c r := Int.tdiv_le_self 4 hpos
    have herror : errorOf c r = (r * Config.subTicks : Nat) - (c.pos : Int) := rfl
    omega

theorem clampTrim_limits (t : Int) : -Config.maxTrim ≤ clampTrim t ∧ clampTrim t ≤ Config.maxTrim :=
  ⟨le_max_left _ _, max_le (by decide) (min_le_right _ _)⟩

theorem AudClock.InLimits.slew {c : AudClock} (h : c.InLimits) {r : Nat} (hr : r ≤ Config.maxShow) :
    (c.slew (errorOf c r)).InLimits :=
  ⟨(slew_pos_le c r).trans (max_le h.1 (showTime_le_maxPos hr)), clampTrim_limits _⟩

/-! ### All clocks -/

theorem SameShows.clockLaw {s u : State} (hu : SameShows s u) (h : ClockLaw s) : ClockLaw u := by
  unfold ClockLaw
  rw [hu.clock]
  exact h

theorem clockLaw_of_reset {s : State} (hs : s.clock = ClockBlock.reset) : ClockLaw s := by
  refine (clockLaw_iff s).mpr fun a => ?_
  simpa [hs, ClockBlock.reset] using AudClock.reset_inLimits

/-- One clock changed within its limits. -/
theorem setClock_clockLaw {s : State} (h : ClockLaw s) {a : Aud} {c : AudClock} (hc : c.InLimits) :
    ClockLaw (s.setClock a c) := by
  refine (clockLaw_iff _).mpr fun b => ?_
  by_cases hb : a = b
  · subst hb
    simpa [State.setClock] using hc
  · have hother : (s.setClock a c).clock.auds[b] = s.clock.auds[b] := setAt_other _ _ hb
    rw [hother]
    exact h b

/-- One clock changed in neither its position nor its trim. -/
theorem setClock_clockLaw_of_same {s : State} (h : ClockLaw s) (a : Aud) {c : AudClock}
    (hpos : c.pos = s.clock.auds[a].pos) (htrim : c.trim = s.clock.auds[a].trim) : ClockLaw (s.setClock a c) := by
  refine setClock_clockLaw h ?_
  unfold AudClock.InLimits
  rw [hpos, htrim]
  exact h a

/-- A request whose effect keeps the law keeps it. -/
theorem request_clockLaw {act : State → State × Reply} (hact : ∀ s, ClockLaw s → ClockLaw (act s).1) (r : Req)
    (k : Byte) {s : State} (h : ClockLaw s) : ClockLaw (request r k act s) :=
  request_keeps (fun _ _ _ h => h) hact h

theorem suspendTest_clockLaw {s : State} (h : ClockLaw s) : ClockLaw (suspendTest s) :=
  SameShows.rfl'.suspendTest.clockLaw h

theorem latchAud_clockLaw {s : State} (h : ClockLaw s) (x : FeedCond) (a : Aud) : ClockLaw (s.latchAud x a) :=
  SameShows.clockLaw ⟨State.latchAud_shows s x a, State.latchAud_clock s x a⟩ h

/-! ### The house tick and the silence monitor (R69, R80, R81) -/

theorem advanceAud_clockLaw {s : State} (h : ClockLaw s) (a : Aud) : ClockLaw (advanceAud s a) := by
  have hadvanced := setClock_clockLaw h (a := a) (AudClock.InLimits.advance (h a))
  unfold advanceAud
  dsimp only
  split
  · split
    · exact latchAud_clockLaw hadvanced _ _
    · exact hadvanced
  · exact h

theorem houseTick_clockLaw {s : State} (h : ClockLaw s) : ClockLaw (houseTick s) := by
  unfold houseTick
  dsimp only
  refine suspendTest_clockLaw (List.foldlRecOn allAuds advanceAud ?_ fun _ hu a _ => advanceAud_clockLaw hu a)
  exact h

theorem silenceReached_clockLaw (a : Aud) (n : Nat) {s : State} (h : ClockLaw s) : ClockLaw (silenceReached a n s) := by
  unfold silenceReached
  split
  · exact latchAud_clockLaw (s := s.setShowState a .freewheel) h _ _
  · split
    · exact (refillAud_frame a _).sameShows.clockLaw (latchAud_clockLaw (s := s.setShowState a .lost) h _ _)
    · exact h

theorem silenceBoundary_clockLaw (a : Aud) {s : State} (h : ClockLaw s) : ClockLaw (silenceBoundary a s) := by
  unfold silenceBoundary
  dsimp only
  split
  · split
    · exact suspendTest_clockLaw (silenceReached_clockLaw a _ (setClock_clockLaw_of_same h a rfl rfl))
    · exact h
  · exact h

/-! ### Position reports (R71 to R77) -/

theorem moveClock_clockLaw (a : Aud) {r : Nat} (hr : r ≤ Config.maxShow) {s : State} (h : ClockLaw s) :
    ClockLaw (moveClock a r s) := by
  have hplaced : ClockLaw (s.setClock a (s.clock.auds[a].place r)) :=
    setClock_clockLaw h (AudClock.InLimits.place (h a) hr)
  unfold moveClock
  refine (refillAud_frame a _).sameShows.clockLaw ?_
  exact hplaced

theorem stepClock_clockLaw (a : Aud) {r : Nat} (hr : r ≤ Config.maxShow) {s : State} (h : ClockLaw s) :
    ClockLaw (stepClock a r s) := by
  have hflagged : ClockLaw ((moveClock a r s).flagStep a) := by
    refine SameShows.clockLaw ?_ (moveClock_clockLaw a hr h)
    exact ⟨State.flagStep_shows _ a, State.flagStep_clock _ a⟩
  unfold stepClock
  dsimp only
  generalize (moveClock a r s).flagStep a = flagged at hflagged
  refine latchAud_clockLaw (setClock_clockLaw_of_same hflagged a ?_ ?_) _ _
  all_goals rfl

theorem handleReport_clockLaw (a : Aud) {r : Nat} (hr : r ≤ Config.maxShow) {s : State} (h : ClockLaw s) :
    ClockLaw (handleReport a r s) := by
  have hrunning : ClockLaw (s.setShowState a .running) := h
  have hslewed : (s.clock.auds[a].slew (errorOf s.clock.auds[a] r)).InLimits := AudClock.InLimits.slew (h a) hr
  unfold handleReport
  dsimp only
  cases s.shows[a].state with
  | dark => exact h
  | armed => exact moveClock_clockLaw a hr h
  | held => exact stepClock_clockLaw a hr h
  | lost => exact stepClock_clockLaw a hr hrunning
  | running =>
    dsimp only
    split
    · exact stepClock_clockLaw a hr h
    · exact setClock_clockLaw h hslewed
  | freewheel =>
    dsimp only
    split
    · exact stepClock_clockLaw a hr hrunning
    · exact setClock_clockLaw hrunning hslewed

theorem clampReel_clockLaw (a : Aud) {s : State} (h : ClockLaw s) : ClockLaw (clampReel a s) := by
  refine latchAud_clockLaw (setClock_clockLaw_of_same h a ?_ ?_) _ _
  all_goals rfl

theorem positionTaken_clockLaw (a : Aud) {r : Nat} (hr : r ≤ Config.maxShow) (clamped : Bool) {s : State}
    (h : ClockLaw s) : ClockLaw (positionTaken a r clamped s) := by
  have hclamped : ClockLaw (if clamped then clampReel a s else s) := by
    split
    · exact clampReel_clockLaw a h
    · exact h
  exact suspendTest_clockLaw (setClock_clockLaw_of_same (handleReport_clockLaw a hr hclamped) a rfl rfl)

/-- A reel ends no later than its table (R4). -/
theorem reelStart_add_le (reels : List Nat) (r : Nat) : reelStart reels r + reels.getD r 0 ≤ reels.sum := by
  unfold reelStart
  induction reels generalizing r with
  | nil => simp
  | cons x xs ih =>
    cases r with
    | zero => simp
    | succ r => simpa [Nat.add_assoc] using ih r

/-- A reported show time lies within its reel (R72). -/
theorem reported_le (reels : List Nat) (p : Report) : (reported reels p).1 ≤ reels.sum := by
  have hreel := reelStart_add_le reels p.reel
  unfold reported
  dsimp only
  split
  · dsimp only; omega
  · dsimp only; omega

/-- An admitted report is measured by the reel table of the title its auditorium holds (R71). -/
theorem admitPosition_reels {r : Req} {s : State} {x : Aud × List Nat × Report} (h : admitPosition r s = .ok x) :
    x.2.1 = ((titleOf s x.1).map (·.reels)).getD [] := by
  unfold admitPosition at h
  dsimp only at h
  repeat' split at h
  all_goals cases h
  rfl

theorem titleOf_reels_le {s : State} (hreels : ReelLaw s) (a : Aud) :
    (((titleOf s a).map (·.reels)).getD []).sum ≤ Config.maxShow := by
  unfold titleOf
  cases s.shows[a].title with
  | none => simp
  | some t => exact hreels t

theorem position_clockLaw (r : Req) {s : State} (h : ClockLaw s) (hreels : ReelLaw s) : ClockLaw (position r s).1 := by
  unfold position
  split
  · exact h
  · next x hx =>
    have htable : x.2.1.sum ≤ Config.maxShow := by
      rw [admitPosition_reels hx]
      exact titleOf_reels_le hreels x.1
    exact positionTaken_clockLaw x.1 ((reported_le x.2.1 x.2.2).trans htable) _ h

/-! ### Shows (R49, R50, R57, R59 to R61) -/

theorem armTaken_clockLaw (a : Aud) (t : TitleNo) {s : State} (h : ClockLaw s) : ClockLaw (armTaken a t s) := by
  have hbound : ClockLaw (bindTitle a t s) := h
  have hfresh := setClock_clockLaw hbound (a := a) (AudClock.fresh_inLimits (bindTitle a t s).clock.auds[a])
  unfold armTaken
  dsimp only
  refine suspendTest_clockLaw ((handEdges_frame _ _).sameShows.clockLaw ((reresolveAud_sameShows a _).clockLaw ?_))
  exact hfresh

theorem arm_clockLaw (r : Req) (s : State) (h : ClockLaw s) : ClockLaw (arm r s).1 := by
  obtain hs | ⟨a, t, -, -, hs⟩ := arm_cases r s
  · rw [hs]; exact h
  · rw [hs]; exact armTaken_clockLaw a t h

theorem startClock_clockLaw (a : Aud) {s : State} (h : ClockLaw s) : ClockLaw (startClock a s) :=
  setClock_clockLaw_of_same (s := s.setShow a { s.shows[a] with state := .running }) h a rfl rfl

theorem run_clockLaw (r : Req) (s : State) (h : ClockLaw s) : ClockLaw (run r s).1 := by
  unfold run
  split
  · exact h
  · next a _ =>
    cases s.shows[a].state with
    | armed | held | lost => exact startClock_clockLaw a h
    | running | freewheel | dark => exact h

theorem hold_clockLaw (r : Req) (s : State) (h : ClockLaw s) : ClockLaw (hold r s).1 := by
  unfold hold
  split
  · exact h
  · split <;> exact h

theorem unbindTitle_clockLaw (a : Aud) {s : State} (h : ClockLaw s) : ClockLaw (unbindTitle a s) := by
  unfold unbindTitle
  cases s.shows[a].title with
  | none => exact h
  | some t => exact h

theorem darken_clockLaw (r : Req) (s : State) (h : ClockLaw s) : ClockLaw (darken r s).1 := by
  unfold darken
  split
  · exact h
  · next a _ =>
    split
    · exact h
    · have hunresolved := (unresolveAud_sameShows a s).trans' (handEdges_frame s.rcv.counts _).sameShows
      exact suspendTest_clockLaw (unbindTitle_clockLaw a (hunresolved.clockLaw h))

theorem assignFeed_clockLaw (r : Req) (s : State) (h : ClockLaw s) : ClockLaw (assignFeed r s).1 := by
  unfold assignFeed
  repeat' split
  all_goals exact h

theorem assignAir_clockLaw (r : Req) (s : State) (h : ClockLaw s) : ClockLaw (assignAir r s).1 := by
  unfold assignAir
  split
  · exact h
  · split
    · next a port _ _ =>
      split
      · exact h
      · exact suspendTest_clockLaw (s := (s.setShow a { s.shows[a] with airPort := port }).clearFrame a) h
    · exact h

/-! ### Settings and statistics (R86, R208) -/

/-- A setting of a clock that is neither its position nor its trim. -/
theorem setClockParam_clockLaw {f : AudClock → Nat → AudClock} (hpos : ∀ c v, (f c v).pos = c.pos)
    (htrim : ∀ c v, (f c v).trim = c.trim)
    (param lo hi : Nat) (r : Req) {s : State} (h : ClockLaw s) :
    ClockLaw (setRequest param lo hi (setClockParam f) r s) := by
  refine setRequest_keeps (fun _ _ _ h => h) (fun target v s u hu h => ?_) _ _ _ _ h
  obtain ⟨a, -, rfl⟩ := Option.map_eq_some_iff.mp hu
  exact setClock_clockLaw_of_same h a (hpos _ _) (htrim _ _)

theorem clearStats_clockLaw {s : State} (h : ClockLaw s) : ClockLaw (clearStats s) := by
  refine (clockLaw_iff _).mpr fun a => ?_
  simpa [clearStats, AudClock.InLimits] using h a

theorem stats_clockLaw (r : Req) (s : State) (h : ClockLaw s) : ClockLaw (stats r s).1 := by
  unfold stats
  dsimp only
  split
  · exact h
  · split
    · exact h
    · split
      · exact clearStats_clockLaw h
      · exact h

/-! ### Resets (R199, R212, R213)

A property that reads neither the Link Interface nor the Clip Storage Controller, and that every block's reset values
have, is kept by each command that may reset the part. -/

section

variable {P : State → Prop} (hlink : ∀ s l, P s → P { s with link := l })
  (hstore : ∀ s b, P s → P { s with store := b }) (hreset : ∀ s, P (resetAll s))

include hlink hreset

theorem resetRequest_keeps (r : Req) {s : State} (h : P s) : P (resetRequest r s) := by
  unfold resetRequest
  split
  · unfold resetTaken
    split
    · exact hlink s _ h
    · exact hlink _ _ (hreset s)
  · exact request_keeps (fun _ _ _ => hlink _ _) (fun _ h => h) h

theorem resetTakesEffect_keeps {s : State} (h : P s) : P (resetTakesEffect s) := by
  unfold resetTakesEffect
  split
  · exact hlink _ _ (hreset _)
  · exact h

include hstore

theorem programCompletion_keeps {s : State} (h : P s) : P (programCompletion s) := by
  unfold programCompletion
  split
  · split
    · exact resetTakesEffect_keeps hlink hreset h
    · exact hstore _ _ (hlink _ _ h)
  · exact h

theorem eraseCompletion_keeps {s : State} (h : P s) : P (eraseCompletion s) := by
  unfold eraseCompletion
  split
  · split
    · exact resetTakesEffect_keeps hlink hreset h
    · exact hstore _ _ (hlink _ _ h)
  · exact h

end

theorem resetAll_clockLaw (s : State) : ClockLaw (resetAll s) := clockLaw_of_reset rfl

theorem powerOn_clockLaw (s : State) : ClockLaw (powerOn s) := clockLaw_of_reset rfl

end Sys2Proof.Machine
end

/-! The law of the reel tables (R4), which bounds a reported show time: a table comes with a declaration in range, goes
when its title becomes FREE, and does not change between. -/
section
namespace Sys2Proof.Machine

open Sys2Proof.Safety

/-! ### What the law reads -/

/-- The law reads the title block alone. -/
theorem reelLaw_of_titles {s u : State} (h : ReelLaw s) (hu : u.titles = s.titles) : ReelLaw u := by
  intro t
  unfold State.title
  rw [hu]
  exact h t

/-- A record replaced by one whose table keeps to the limit. -/
theorem reelLaw_of_setAt {s u : State} {t : TitleNo} {x : Title} (h : ReelLaw s)
    (hrecs : u.titles.recs = setAt s.titles.recs t x) (hx : x.reels.sum ≤ Config.maxShow) : ReelLaw u := by
  intro v
  rw [title_of_setAt hrecs]
  split
  · exact hx
  · exact h v

theorem reelLaw_of_reset {s : State} (hrecs : s.titles.recs = TitleBlock.reset.recs) : ReelLaw s := by
  intro t
  have htitle : s.title t = Title.free := by simp [State.title, hrecs, TitleBlock.reset]
  simp [htitle, Title.free]

theorem request_reelLaw {act : State → State × Reply} (hact : ∀ s, ReelLaw s → ReelLaw (act s).1) (r : Req)
    (k : Byte) {s : State} (h : ReelLaw s) : ReelLaw (request r k act s) :=
  request_keeps (fun _ _ _ h => h) hact h

/-! ### Loads (chapter 2) and UNLOAD (R22) -/

theorem freeTitle_reelLaw {s : State} (h : ReelLaw s) (t : TitleNo) : ReelLaw (s.freeTitle t) := by
  intro u
  rw [freeTitle_title]
  split
  · simp [Title.free]
  · exact h u

theorem failLoad_reelLaw {s : State} (h : ReelLaw s) (t : TitleNo) (reason : FailReason) :
    ReelLaw (failLoad t reason s) := by
  unfold failLoad
  dsimp only
  split <;> exact freeTitle_reelLaw h t

theorem Decl.inRange_reels {d : Decl} (h : d.inRange = true) : d.reels.sum ≤ Config.maxShow := by
  simp only [Decl.inRange, Bool.and_eq_true, decide_eq_true_eq] at h
  obtain ⟨⟨⟨-, hsum⟩, -⟩, -⟩ := h
  exact hsum

/-- LOAD.OPEN changes nothing, or opens a declaration that is in range (R28). -/
theorem loadOpen_inRange (r : Req) (s : State) : (loadOpen r s).1 = s ∨
    ∃ d p t base free, d.inRange = true ∧ (loadOpen r s).1 = openTitle d p t base free s := by
  unfold loadOpen
  split
  · next p _ =>
    unfold loadOpenOn
    split
    · exact .inl rfl
    · next d _ =>
      repeat' split
      case h_2 hrange _ t _ _ x _ =>
        exact .inr ⟨d, p, t, x.1, x.2, by simpa using hrange, rfl⟩
      all_goals exact .inl rfl
  · exact .inl rfl

theorem loadOpen_reelLaw (r : Req) (s : State) (h : ReelLaw s) : ReelLaw (loadOpen r s).1 := by
  obtain hs | ⟨d, p, t, base, free, hrange, hs⟩ := loadOpen_inRange r s
  · rw [hs]; exact h
  · rw [hs]; exact reelLaw_of_setAt h rfl (Decl.inRange_reels hrange)

theorem touchTitle_reelLaw {s : State} (h : ReelLaw s) (t : TitleNo) : ReelLaw (touchTitle t s) :=
  reelLaw_of_setAt h rfl (h t)

/-- An entry that a LOAD.DATA stores leaves its title's reel table alone (R32). -/
theorem appendEntry_reelLaw {t : TitleNo} {tn : Nat} {e : RawEntry} {s : State} {r : State × Bool} (h : ReelLaw s)
    (hr : appendEntry t tn e s = .ok r) : ReelLaw r.1 := by
  unfold appendEntry at hr
  dsimp only at hr
  repeat' split at hr
  all_goals cases hr
  all_goals exact reelLaw_of_setAt h rfl (h t)

theorem appendEntries_reelLaw (t : TitleNo) (tn : Nat) (es : List RawEntry) (cut : Bool) {s : State} (h : ReelLaw s) :
    ReelLaw (appendEntries t tn es cut s).1 := by
  induction es generalizing cut s with
  | nil => exact h
  | cons e es ih =>
    unfold appendEntries
    split
    · exact failLoad_reelLaw h t _
    · next r hr => exact ih _ (appendEntry_reelLaw h hr)

theorem loadData_reelLaw (r : Req) (s : State) (h : ReelLaw s) : ReelLaw (loadData r s).1 := by
  unfold loadData
  dsimp only
  split
  · exact h
  · next t _ =>
    have htouched := touchTitle_reelLaw h t
    split
    · exact failLoad_reelLaw htouched t _
    · split
      · exact htouched
      · exact appendEntries_reelLaw t _ _ _ htouched

theorem loadFinish_reelLaw (r : Req) (s : State) (h : ReelLaw s) : ReelLaw (loadFinish r s).1 := by
  unfold loadFinish
  split
  · exact h
  · next t _ =>
    have htouched := touchTitle_reelLaw h t
    dsimp only
    split <;> exact reelLaw_of_setAt htouched rfl (htouched t)

theorem finishingCompletion_reelLaw (t : TitleNo) {s : State} (h : ReelLaw s) :
    ReelLaw (finishingCompletion t s) := by
  unfold finishingCompletion
  dsimp only
  split
  · split <;> exact reelLaw_of_setAt (t := t) (x := (s.title t).complete (clipList s.titles.cue (s.title t))) h
      (by rw [State.closeLoad_titles]) (h t)
  · exact h

theorem clipListOverflow_reelLaw (t : TitleNo) {s : State} (h : ReelLaw s) : ReelLaw (clipListOverflow t s) := by
  unfold clipListOverflow
  dsimp only
  split
  · exact failLoad_reelLaw h t _
  · exact h

theorem loadAbort_reelLaw (r : Req) (s : State) (h : ReelLaw s) : ReelLaw (loadAbort r s).1 := by
  unfold loadAbort
  split
  · exact h
  · exact freeTitle_reelLaw h _

theorem loadIdleTimeout_reelLaw (t : TitleNo) {s : State} (h : ReelLaw s) : ReelLaw (loadIdleTimeout t s) := by
  unfold loadIdleTimeout
  split
  · exact failLoad_reelLaw h t _
  · exact h

theorem unload_reelLaw (r : Req) (s : State) (h : ReelLaw s) : ReelLaw (unload r s).1 := by
  obtain hs | ⟨t, -, -, hs⟩ := unload_cases r s
  · rw [hs]; exact h
  · rw [hs]; exact freeTitle_reelLaw h t

/-! ### References (R56, R61) -/

theorem arm_reelLaw (r : Req) (s : State) (h : ReelLaw s) : ReelLaw (arm r s).1 := by
  obtain hs | ⟨a, t, -, -, hs⟩ := arm_cases r s
  · rw [hs]; exact h
  · have hbound : ReelLaw (bindTitle a t s) := reelLaw_of_setAt h rfl (h t)
    rw [hs]; exact reelLaw_of_titles hbound (armTaken_titles a t s)

theorem unbindTitle_reelLaw (a : Aud) {s : State} (h : ReelLaw s) : ReelLaw (unbindTitle a s) := by
  unfold unbindTitle
  cases s.shows[a].title with
  | none => exact h
  | some t => exact reelLaw_of_setAt h rfl (h t)

theorem darken_reelLaw (r : Req) (s : State) (h : ReelLaw s) : ReelLaw (darken r s).1 := by
  unfold darken
  split
  · exact h
  · next a _ =>
    split
    · exact h
    · refine reelLaw_of_titles (unbindTitle_reelLaw a (reelLaw_of_titles h ?_)) (suspendTest_titles _)
      simp only [State.clearFrame_titles, State.clearCursors_titles, handEdges_titles, unresolveAud_titles]

theorem resetAll_reelLaw (s : State) : ReelLaw (resetAll s) := reelLaw_of_reset rfl

theorem powerOn_reelLaw (s : State) : ReelLaw (powerOn s) := reelLaw_of_reset rfl

end Sys2Proof.Machine
end

/-! Every step keeps the law of the show clock and the law of the reel tables that it rests on: command by command, and
the step (O53). -/
section
namespace Sys2Proof.Machine

open Sys2Proof.Safety

theorem exec_clockLaw (i : Instr) {s : State} (h : ClockLaw s) (hreels : ReelLaw s) :
    ∃ t, exec i s = .next t ∧ ClockLaw t := by
  by_cases hi : keepsShows i = true
  · obtain ⟨t, hexec, ht⟩ := exec_keepsShows hi s
    exact ⟨t, hexec, ht.clockLaw h⟩
  have hlink : ∀ s l, ClockLaw s → ClockLaw { s with link := l } := fun _ _ h => h
  have hstore : ∀ s b, ClockLaw s → ClockLaw { s with store := b } := fun _ _ h => h
  cases i with
  | powerOn => exact ⟨_, rfl, powerOn_clockLaw s⟩
  | reset r => exact ⟨_, rfl, resetRequest_keeps hlink resetAll_clockLaw r h⟩
  | resetTakesEffect => exact ⟨_, rfl, resetTakesEffect_keeps hlink resetAll_clockLaw h⟩
  | programCompletion => exact ⟨_, rfl, programCompletion_keeps hlink hstore resetAll_clockLaw h⟩
  | eraseCompletion => exact ⟨_, rfl, eraseCompletion_keeps hlink hstore resetAll_clockLaw h⟩
  | houseTick => exact ⟨_, rfl, houseTick_clockLaw h⟩
  | silenceBoundary a => exact ⟨_, rfl, silenceBoundary_clockLaw a h⟩
  | arm r => exact ⟨_, rfl, request_clockLaw (arm_clockLaw r) _ _ h⟩
  | run r => exact ⟨_, rfl, request_clockLaw (run_clockLaw r) _ _ h⟩
  | hold r => exact ⟨_, rfl, request_clockLaw (hold_clockLaw r) _ _ h⟩
  | darken r => exact ⟨_, rfl, request_clockLaw (darken_clockLaw r) _ _ h⟩
  | position r =>
    have hboth : ClockLaw (request r kindPosition (position r) s) ∧ ReelLaw (request r kindPosition (position r) s) :=
      request_keeps (P := fun u => ClockLaw u ∧ ReelLaw u) (fun _ _ _ h => h)
        (fun u ⟨hc, hr⟩ => ⟨position_clockLaw r hc hr, reelLaw_of_titles hr (position_titles r u)⟩) ⟨h, hreels⟩
    exact ⟨_, rfl, hboth.1⟩
  | assignFeed r => exact ⟨_, rfl, request_clockLaw (assignFeed_clockLaw r) _ _ h⟩
  | assignAir r => exact ⟨_, rfl, request_clockLaw (assignAir_clockLaw r) _ _ h⟩
  | setJumpThreshold r | setGainExponent r | setSilenceInterval r =>
    refine ⟨_, rfl, setClockParam_clockLaw ?_ ?_ _ _ _ _ h⟩ <;> exact fun _ _ => rfl
  | stats r => exact ⟨_, rfl, request_clockLaw (stats_clockLaw r) _ _ h⟩
  | _ => exact absurd rfl hi

theorem exec_reelLaw (i : Instr) {s : State} (h : ReelLaw s) : ∃ t, exec i s = .next t ∧ ReelLaw t := by
  by_cases hi : keepsTitles i = true
  · obtain ⟨t, hexec, ht⟩ := exec_keepsTitles hi s
    exact ⟨t, hexec, reelLaw_of_titles h ht⟩
  have hlink : ∀ s l, ReelLaw s → ReelLaw { s with link := l } := fun _ _ h => h
  have hstore : ∀ s b, ReelLaw s → ReelLaw { s with store := b } := fun _ _ h => h
  cases i with
  | powerOn => exact ⟨_, rfl, powerOn_reelLaw s⟩
  | reset r => exact ⟨_, rfl, resetRequest_keeps hlink resetAll_reelLaw r h⟩
  | resetTakesEffect => exact ⟨_, rfl, resetTakesEffect_keeps hlink resetAll_reelLaw h⟩
  | programCompletion => exact ⟨_, rfl, programCompletion_keeps hlink hstore resetAll_reelLaw h⟩
  | eraseCompletion => exact ⟨_, rfl, eraseCompletion_keeps hlink hstore resetAll_reelLaw h⟩
  | loadIdleTimeout t => exact ⟨_, rfl, loadIdleTimeout_reelLaw t h⟩
  | loadOpen r => exact ⟨_, rfl, request_reelLaw (loadOpen_reelLaw r) _ _ h⟩
  | loadData r => exact ⟨_, rfl, request_reelLaw (loadData_reelLaw r) _ _ h⟩
  | loadFinish r => exact ⟨_, rfl, request_reelLaw (loadFinish_reelLaw r) _ _ h⟩
  | finishingCompletion t => exact ⟨_, rfl, finishingCompletion_reelLaw t h⟩
  | clipListOverflow t => exact ⟨_, rfl, clipListOverflow_reelLaw t h⟩
  | loadAbort r => exact ⟨_, rfl, request_reelLaw (loadAbort_reelLaw r) _ _ h⟩
  | unload r => exact ⟨_, rfl, request_reelLaw (unload_reelLaw r) _ _ h⟩
  | arm r => exact ⟨_, rfl, request_reelLaw (arm_reelLaw r) _ _ h⟩
  | darken r => exact ⟨_, rfl, request_reelLaw (darken_reelLaw r) _ _ h⟩
  | _ => exact absurd rfl hi

/-- Settles O53: an idle step changes nothing, and the command at the front of the queue leaves the clocks alone or
moves them within their limits, a report by the reel table of a title that the second law bounds. -/
theorem everyStepKeepsTheClocks : Obligations.EveryStepKeepsTheClocks := by
  intro s t hclock hreel hstep
  unfold step at hstep
  cases hq : s.pending with
  | nil =>
    rw [hq] at hstep
    cases hstep
    exact ⟨hclock, hreel⟩
  | cons i rest =>
    rw [hq] at hstep
    obtain ⟨u, hu, huclock⟩ := exec_clockLaw i (s := { s with pending := rest }) hclock hreel
    obtain ⟨v, hv, hvreel⟩ := exec_reelLaw i (s := { s with pending := rest }) hreel
    cases hu.symm.trans hstep
    cases hv.symm.trans hstep
    exact ⟨huclock, hvreel⟩

end Sys2Proof.Machine
end

/-! What lookups rest on (R96, R100, R108): the ways the Cue Locator is changed while titles and contexts stand, and the
laws of the position cache and of sound cursors and ways through each. -/
section
namespace Sys2Proof.Machine

open Sys2Proof.Safety

/-! ### Contexts and the titles they hold -/

/-- The track of a context is a track of the title it holds. -/
theorem trackOf_some {s : State} {a : Aud} {v : TrackNo} {x : TitleTrack} (h : trackOf s a v = some x) :
    ∃ t tr, s.shows[a].title = some t ∧ (s.title t).tracks[v.val]? = some tr ∧ x = ⟨s.title t, tr⟩ := by
  unfold trackOf titleOf at h
  cases ht : s.shows[a].title with
  | none => rw [ht] at h; cases h
  | some t =>
    rw [ht] at h
    obtain ⟨tr, htr, rfl⟩ := Option.map_eq_some_iff.mp h
    exact ⟨t, tr, rfl, htr, rfl⟩

/-- A context that holds no title has no track. -/
theorem trackOf_none {s : State} {a : Aud} (h : s.shows[a].title = none) (v : TrackNo) : trackOf s a v = none := by
  unfold trackOf titleOf
  rw [h]
  rfl

/-- The tracks of a context are those of the title it holds, in any state with that title. -/
theorem trackOf_congr {s u : State} {a : Aud} (hs : u.shows[a].title = s.shows[a].title)
    (ht : ∀ t, s.shows[a].title = some t → u.title t = s.title t) (v : TrackNo) : trackOf u a v = trackOf s a v := by
  unfold trackOf titleOf
  rw [hs]
  cases h : s.shows[a].title with
  | none => rfl
  | some t => simp [ht t h]

/-- The title block alone decides what a title record is. -/
theorem title_congr {s u : State} (h : u.titles = s.titles) (t : TitleNo) : u.title t = s.title t := by
  unfold State.title
  rw [h]

theorem mem_allAuds (a : Aud) : a ∈ allAuds := by revert a; decide

theorem allAuds_nodup : allAuds.Nodup := by decide

/-- A title that a context holds has a holder that is not DARK (R46). -/
theorem holders_pos {s : State} (h : ShowLaw s) {a : Aud} {t : TitleNo} (ht : s.shows[a].title = some t) :
    0 < holders s t := by
  obtain ⟨-, hdark, -⟩ := h
  have hlit : s.shows[a].state ≠ .dark := fun e => by rw [(hdark a).mp e] at ht; cases ht
  exact List.countP_pos_iff.mpr ⟨a, mem_allAuds a, by rw [ht, bne_iff_ne.mpr hlit]; simp⟩

/-- A title that a context holds is READY (R20, R46). -/
theorem ready_of_held {s : State} (h : ShowLaw s) {a : Aud} {t : TitleNo} (ht : s.shows[a].title = some t) :
    (s.title t).state = .ready := by
  have hheld := holders_pos h ht
  obtain ⟨hrefs, hready⟩ := h.1 t
  exact hready (by omega)

/-- The tracks of a READY title are sound (R7, R11, R13). -/
theorem trackSound_of_ready {s : State} (h : EntryLaw s) {t : TitleNo} (ht : (s.title t).state = .ready) {i : Nat}
    {tr : Track} (htr : (s.title t).tracks[i]? = some tr) : TrackSound s.titles.cue ⟨s.title t, tr⟩ :=
  (h t i tr (by simp [ht]) htr).2 ht

/-! ### The laws of the Cue Locator, clause by clause -/

/-- Does a set hold no key in two valid ways (R108)? -/
def CacheSet.Distinct (c : CacheSet) : Prop :=
  ∀ w w' : Fin 4, c.ways[w].valid → c.ways[w'].valid → c.ways[w].handle = c.ways[w'].handle →
    c.ways[w].track = c.ways[w'].track → c.ways[w].bucket = c.ways[w'].bucket → w = w'

/-- Does the way name a READY title (R108)? -/
def Way.NamesReady (s : State) (y : Way) : Prop :=
  ∃ t : TitleNo, Machine.handle t = y.handle ∧ (s.title t).state = .ready

/-- Does the way hold the bucket index of its key (R100)? -/
def Way.Sound (s : State) (y : Way) : Prop :=
  ∀ (t : TitleNo) (tr : Track), y.handle = Machine.handle t → (s.title t).tracks[y.track]? = some tr →
    isLowestAfter s.titles.cue ⟨s.title t, tr⟩ (2048 * y.bucket) y.index

/-- Has every entry below the cursor's index ended by its placed-at, the index being at most n (R96)? -/
def Cursor.Sound (m : List Host.Cell) (x : TitleTrack) (y : Cursor) : Prop :=
  y.index ≤ x.track.n ∧ ∀ j, j < y.index → entryEnd m x.title x.track j ≤ y.placedAt

/-- The law of the position cache for a Cue Locator beside the titles of `s`. -/
def CueBlock.Keyed (s : State) (c : CueBlock) : Prop :=
  (∀ i : Fin 16, c.sets[i].Distinct) ∧
    ∀ (i : Fin 16) (w : Fin 4), c.sets[i].ways[w].valid = true → c.sets[i].ways[w].NamesReady s

/-- Sound cursors and ways in a Cue Locator beside the titles and contexts of `s`. -/
def CueBlock.Sound (s : State) (c : CueBlock) : Prop :=
  (∀ a v x, trackOf s a v = some x → (c.cursor a v).valid = true → (c.cursor a v).Sound s.titles.cue x) ∧
    ∀ (i : Fin 16) (w : Fin 4), c.sets[i].ways[w].valid = true → c.sets[i].ways[w].Sound s

theorem cacheLaw_iff (s : State) : CacheLaw s ↔ s.cues.Keyed s := forall_and

theorem locateLaw_iff (s : State) : LocateLaw s ↔ s.cues.Sound s :=
  and_congr_right fun _ => ⟨fun h i w hv t tr => h i w t tr hv, fun h i w t tr hv => h i w hv t tr⟩

/-! ### One change of the Cue Locator -/

/-- The ways the Cue Locator changes while the titles and contexts of `s` stand: a lookup on a track of a context, an
auditorium's cursors cleared, the position cache flushed, and new counts of hits and misses (R95, R97, R111, R208). -/
inductive CueMove (s : State) : CueBlock → CueBlock → Prop
  | look (c : CueBlock) {a : Aud} {v : TrackNo} {t : TitleNo} {x : TitleTrack} (sair : Nat)
      (ht : s.shows[a].title = some t) (hx : trackOf s a v = some x) :
      CueMove s c (lookupTrack s.titles.cue x t a v sair c).2
  | clear (c : CueBlock) (a : Aud) : CueMove s c { c with cursors := setAt c.cursors a (fillTable 8 Cursor.clear) }
  | flush (c : CueBlock) : CueMove s c { c with sets := fillTable 16 CacheSet.clear }
  | counts (c : CueBlock) (hits misses : Stat) : CueMove s c { c with hits := hits, misses := misses }

/-- Any number of such changes. -/
abbrev CueMoves (s : State) : CueBlock → CueBlock → Prop := Relation.ReflTransGen (CueMove s)

/-- They read the titles, and of each context the title it holds. -/
theorem CueMove.congr {s u : State} (ht : u.titles = s.titles) (hs : ∀ a : Aud, u.shows[a].title = s.shows[a].title)
    {c c' : CueBlock} (h : CueMove u c c') : CueMove s c c' := by
  cases h with
  | look sair hu hx =>
    rw [ht]
    rw [trackOf_congr (hs _) (fun t _ => title_congr ht t)] at hx
    exact .look c sair ((hs _).symm.trans hu) hx
  | clear a => exact .clear c a
  | flush => exact .flush c
  | counts hits misses => exact .counts c hits misses

/-- A lookup is such a change, or none where its title has no such track (R92). -/
theorem lookup_moves (s : State) (a : Aud) (v : TrackNo) (sair : Nat) : CueMoves s s.cues (lookup s a v sair).2 := by
  unfold lookup
  split
  · exact .refl
  · next t ht =>
    split
    · exact .refl
    · next x hx => exact .single (.look _ sair ht hx)

/-- The cursors after a lookup: the looked-up one placed at the instant, the others as they were (R95). -/
theorem lookupTrack_cursor (m : List Host.Cell) (x : TitleTrack) (t : TitleNo) (a : Aud) (v : TrackNo) (sair : Nat)
    (c : CueBlock) (b : Aud) (w : TrackNo) : (lookupTrack m x t a v sair c).2.cursor b w =
      if a = b ∧ v = w then ⟨true, (lookupTrack m x t a v sair c).1.index, sair⟩ else c.cursor b w := by
  have hcursors : (lookupTrack m x t a v sair c).2.cursors =
      modAt c.cursors a fun r => setAt r v ⟨true, (lookupTrack m x t a v sair c).1.index, sair⟩ := by
    unfold lookupTrack
    dsimp only [CueBlock.setCursor]
    split
    · rw [relocate_cursors]
    · rfl
  unfold CueBlock.cursor
  rw [hcursors, modAt]
  by_cases ha : a = b
  · subst ha
    rw [setAt_self]
    by_cases hv : v = w
    · subst hv; rw [setAt_self, if_pos ⟨rfl, rfl⟩]
    · rw [setAt_other _ _ hv, if_neg fun h => hv h.2]
  · rw [setAt_other _ _ ha, if_neg fun h => ha h.1]

/-- A lookup leaves the sets alone, or relocates (R95). -/
theorem lookupTrack_sets (m : List Host.Cell) (x : TitleTrack) (t : TitleNo) (a : Aud) (v : TrackNo) (sair : Nat)
    (c : CueBlock) : (lookupTrack m x t a v sair c).2.sets = c.sets ∨
      (lookupTrack m x t a v sair c).2.sets = (relocate m x (handle t) v.val sair c).2.sets := by
  unfold lookupTrack
  dsimp only [CueBlock.setCursor]
  split
  · exact .inr rfl
  · exact .inl rfl

/-- What holds of every valid way, and of the way a miss places, holds of every valid way after a lookup (R100,
R102). -/
theorem lookupTrack_ways {P : Way → Prop} {m : List Host.Cell} {x : TitleTrack} {t : TitleNo} {a : Aud} {v : TrackNo}
    {sair : Nat} {c : CueBlock}
    (hold : ∀ (i : Fin 16) (w : Fin 4), c.sets[i].ways[w].valid = true → P c.sets[i].ways[w])
    (hnew : P ⟨true, handle t, v.val, sair / Config.bucketTicks,
      bucketIndex m x (Config.bucketTicks * (sair / Config.bucketTicks))⟩)
    (i : Fin 16) (w : Fin 4) (hv : (lookupTrack m x t a v sair c).2.sets[i].ways[w].valid = true) :
    P (lookupTrack m x t a v sair c).2.sets[i].ways[w] := by
  obtain hsets | hsets := lookupTrack_sets m x t a v sair c
  · rw [hsets] at hv ⊢; exact hold i w hv
  · rw [hsets] at hv ⊢; exact relocate_ways hold hnew i w hv

/-- The cursors of an auditorium cleared, cursor by cursor (R97). -/
theorem clear_cursor (c : CueBlock) (a b : Aud) (v : TrackNo) :
    CueBlock.cursor { c with cursors := setAt c.cursors a (fillTable 8 Cursor.clear) } b v =
      if a = b then Cursor.clear else c.cursor b v := by
  unfold CueBlock.cursor
  by_cases h : a = b
  · subst h; rw [if_pos rfl, setAt_self]; simp
  · rw [if_neg h, setAt_other _ _ h]

/-- An empty position cache has no valid way (R104). -/
theorem clear_sets_invalid (i : Fin 16) (w : Fin 4) : (fillTable 16 CacheSet.clear)[i].ways[w].valid = false := by
  simp [CacheSet.clear, Way.clear]

/-! ### The law of the position cache (R108) -/

theorem CacheSet.Distinct.touch {c : CacheSet} (hc : c.Distinct) (w : Fin 4) : (c.touch w).Distinct := by
  unfold CacheSet.Distinct
  rw [CacheSet.touch_ways]
  exact hc

/-- A key that the set does not hold can be placed: the set stays without a double key (R102). -/
theorem CacheSet.Distinct.place {c : CacheSet} (hc : c.Distinct) {h t b : Nat} (hfind : c.find h t b = none) (i : Nat) :
    (c.place h t b i).Distinct := by
  have habsent : ∀ w : Fin 4, c.ways[w].valid = true → c.ways[w].handle = h → c.ways[w].track = t →
      c.ways[w].bucket ≠ b := by
    intro w hv h1 h2 h3
    have hmiss := findWay_none.mp hfind w
    unfold Way.holds at hmiss
    rw [hv, h1, h2, h3] at hmiss
    simp at hmiss
  intro w w'
  rw [CacheSet.place_ways]
  by_cases e : c.target = w
  · by_cases e' : c.target = w'
    · intros; exact e.symm.trans e'
    · rw [e, setAt_self, setAt_other _ _ (e ▸ e')]
      intro _ hv h1 h2 h3
      exact absurd h3.symm (habsent w' hv h1.symm h2.symm)
  · rw [setAt_other _ _ e]
    by_cases e' : c.target = w'
    · rw [e', setAt_self]
      intro hv _ h1 h2 h3
      exact absurd h3 (habsent w hv h1 h2)
    · rw [setAt_other _ _ e']
      exact hc w w'

theorem setAt_distinct {v : Vector CacheSet 16} (hv : ∀ i : Fin 16, v[i].Distinct) (j : Fin 16) {c : CacheSet}
    (hc : c.Distinct) (i : Fin 16) : (setAt v j c)[i].Distinct := by
  by_cases e : j = i
  · subst e; rw [setAt_self]; exact hc
  · rw [setAt_other _ _ e]; exact hv i

/-- A relocation gives no set a double key (R99 to R102). -/
theorem relocate_distinct (m : List Host.Cell) (x : TitleTrack) (h t sair : Nat) {c : CueBlock}
    (hc : ∀ i : Fin 16, c.sets[i].Distinct) (i : Fin 16) : (relocate m x h t sair c).2.sets[i].Distinct := by
  cases hf : (c.sets[cacheSet h t (sair / Config.bucketTicks)]).find h t (sair / Config.bucketTicks) with
  | some w =>
    rw [relocate_hit hf]
    exact setAt_distinct hc _ ((hc _).touch w) i
  | none =>
    rw [relocate_miss hf]
    exact setAt_distinct hc _ ((hc _).place hf _) i

theorem lookupTrack_distinct (m : List Host.Cell) (x : TitleTrack) (t : TitleNo) (a : Aud) (v : TrackNo) (sair : Nat)
    {c : CueBlock} (hc : ∀ i : Fin 16, c.sets[i].Distinct) (i : Fin 16) :
    (lookupTrack m x t a v sair c).2.sets[i].Distinct := by
  obtain hsets | hsets := lookupTrack_sets m x t a v sair c
  · rw [hsets]; exact hc i
  · rw [hsets]; exact relocate_distinct _ _ _ _ _ hc i

theorem CueMove.keyed {s : State} (hs : ShowLaw s) {c c' : CueBlock} (hm : CueMove s c c') (h : c.Keyed s) :
    c'.Keyed s := by
  obtain ⟨hdistinct, hready⟩ := h
  cases hm with
  | @look a v t x sair ht hx =>
    exact ⟨lookupTrack_distinct _ _ _ _ _ _ hdistinct,
      lookupTrack_ways (P := Way.NamesReady s) hready ⟨t, rfl, ready_of_held hs ht⟩⟩
  | clear a => exact ⟨hdistinct, hready⟩
  | flush =>
    refine ⟨fun i w w' hv => ?_, fun i w hv => ?_⟩
    all_goals
      rw [clear_sets_invalid] at hv
      cases hv
  | counts hits misses => exact ⟨hdistinct, hready⟩

/-! ### Sound cursors and ways (R96, R100) -/

/-- On a sound track a lookup from sound ways and a sound cursor finds the lowest entry that has not ended (R93). -/
theorem lookupTrack_lowest {s : State} {c : CueBlock} {a : Aud} {v : TrackNo} {t : TitleNo} {tr : Track}
    (sair : Nat) (h : c.Sound s) (hx : trackOf s a v = some ⟨s.title t, tr⟩)
    (htr : (s.title t).tracks[v.val]? = some tr) (hsound : TrackSound s.titles.cue ⟨s.title t, tr⟩) :
    isLowestAfter s.titles.cue ⟨s.title t, tr⟩ sair
      (lookupTrack s.titles.cue ⟨s.title t, tr⟩ t a v sair c).1.index := by
  obtain ⟨hcursors, hways⟩ := h
  unfold lookupTrack
  dsimp only
  split
  · have hlow := relocate_lowest hsound (handle t) v.val sair c fun i w hw => by
      simp only [Way.holds, Bool.and_eq_true, beq_iff_eq] at hw
      obtain ⟨⟨⟨hv, hhandle⟩, htrack⟩, hbucket⟩ := hw
      have hway := hways i w hv t tr hhandle (by rw [htrack]; exact htr)
      rwa [hbucket] at hway
    obtain ⟨hn, hbelow, -⟩ := hlow
    exact walkTrack_lowest hn fun j hj => (hbelow j hj).trans (Nat.mul_div_le sair 2048)
  · next hvalid =>
    simp only [Bool.or_eq_true, Bool.not_eq_true', decide_eq_true_eq, not_or, Bool.not_eq_false, not_lt] at hvalid
    obtain ⟨hv, hplaced⟩ := hvalid
    obtain ⟨hn, hbelow⟩ := hcursors a v _ hx hv
    exact walkTrack_lowest hn fun j hj => (hbelow j hj).trans hplaced

theorem CueMove.sound {s : State} (hs : ShowLaw s) (hentry : EntryLaw s) {c c' : CueBlock} (hm : CueMove s c c')
    (h : c.Sound s) : c'.Sound s := by
  obtain ⟨hcursors, hways⟩ := h
  cases hm with
  | @look a v t x sair ht hx =>
    obtain ⟨t', tr, ht', htr, rfl⟩ := trackOf_some hx
    cases ht.symm.trans ht'
    have hsound := trackSound_of_ready hentry (ready_of_held hs ht) htr
    refine ⟨fun b w y hy => ?_, ?_⟩
    · rw [lookupTrack_cursor]
      split
      · next hbw =>
        obtain ⟨rfl, rfl⟩ := hbw
        cases hx.symm.trans hy
        obtain ⟨hn, hbelow, -⟩ := lookupTrack_lowest sair ⟨hcursors, hways⟩ hx htr hsound
        exact fun _ => ⟨hn, hbelow⟩
      · exact hcursors b w y hy
    · refine lookupTrack_ways (P := Way.Sound s) hways fun t' tr' hhandle htr' => ?_
      cases handle_inj.mp hhandle
      cases htr.symm.trans htr'
      exact bucketIndex_lowest hsound _
  | clear a =>
    refine ⟨fun b v y hy hv => ?_, hways⟩
    rw [clear_cursor] at hv ⊢
    by_cases e : a = b
    · rw [if_pos e] at hv; cases hv
    · rw [if_neg e] at hv ⊢; exact hcursors b v y hy hv
  | flush =>
    refine ⟨hcursors, fun i w hv => ?_⟩
    rw [clear_sets_invalid] at hv
    cases hv
  | counts hits misses => exact ⟨hcursors, hways⟩

/-! ### Any number of changes -/

theorem CueMoves.keyed {s : State} (hs : ShowLaw s) {c : CueBlock} (hm : CueMoves s s.cues c) : c.Keyed s := by
  induction hm with
  | refl => exact (cacheLaw_iff s).mp hs.2.2
  | tail _ hm ih => exact hm.keyed hs ih

theorem CueMoves.sound {s : State} (hs : ShowLaw s) (hentry : EntryLaw s) (h : LocateLaw s) {c : CueBlock}
    (hm : CueMoves s s.cues c) : c.Sound s := by
  induction hm with
  | refl => exact (locateLaw_iff s).mp h
  | tail _ hm ih => exact hm.sound hs hentry ih

end Sys2Proof.Machine
end

/-! What most commands do to the titles, the contexts, the Cue Locator and the records: they leave every title, and
which title each context holds, as they are, move the Cue Locator, and keep the records resolved. One relation for it,
from the operations they are made of up to the dispatch. -/
section
namespace Sys2Proof.Machine

open Sys2Proof.Safety

/-! ### The relations -/

/-- `t` has the titles of `s`; each context holds the title it held and is DARK where it was; the Cue Locator has
moved. -/
structure CueFrame (s t : State) : Prop where
  titles : t.titles = s.titles
  dark : ∀ a : Aud, t.shows[a].state = .dark ↔ s.shows[a].state = .dark
  held : ∀ a : Aud, t.shows[a].title = s.shows[a].title
  cues : CueMoves s s.cues t.cues

theorem CueFrame.trans' {s t u : State} (h : CueFrame s t) (h' : CueFrame t u) : CueFrame s u where
  titles := h'.titles.trans h.titles
  dark a := (h'.dark a).trans (h.dark a)
  held a := (h'.held a).trans (h.held a)
  cues := h.cues.trans (Relation.ReflTransGen.mono (fun _ _ => CueMove.congr h.titles h.held) _ _ h'.cues)

/-- A change that leaves titles, contexts and Cue Locator alone. -/
theorem CueFrame.of_eq {s t : State} (ht : t.titles = s.titles) (hs : t.shows = s.shows) (hc : t.cues = s.cues) :
    CueFrame s t :=
  ⟨ht, fun _ => by rw [hs], fun _ => by rw [hs], by rw [hc]⟩

theorem CueFrame.trackOf {s t : State} (h : CueFrame s t) (a : Aud) (v : TrackNo) :
    Machine.trackOf t a v = Machine.trackOf s a v :=
  trackOf_congr (h.held a) (fun x _ => title_congr h.titles x) v

/-- A preference reads of each track its kind and its language alone (R127). -/
theorem resolveTrack_eq_find (s : State) (a : Aud) (k : TrackKind) (l : Lang) : resolveTrack s a k (some l) =
    if s.shows[a].state = .dark then none
    else allTracks.find? fun v => ((trackOf s a v).map (·.track)).any fun tr => tr.kind == k && tr.lang == l := by
  unfold resolveTrack
  dsimp only
  congr 2
  funext v
  cases trackOf s a v <;> rfl

/-- What a resolution reads: whether the context is DARK, and its tracks (R127). -/
theorem resolve_congr {s t : State} {r : Receiver} (hd : t.shows[r.aud].state = .dark ↔ s.shows[r.aud].state = .dark)
    (hx : ∀ v, (trackOf t r.aud v).map (·.track) = (trackOf s r.aud v).map (·.track)) : resolve t r = resolve s r := by
  have htrack : ∀ k pref, resolveTrack t r.aud k pref = resolveTrack s r.aud k pref := by
    intro k pref
    cases pref with
    | none => rfl
    | some l => simp only [resolveTrack_eq_find, hd, hx]
  simp only [resolve, htrack]

theorem CueFrame.resolve {s t : State} (h : CueFrame s t) (r : Receiver) : Machine.resolve t r = Machine.resolve s r :=
  resolve_congr (h.dark r.aud) fun v => by rw [h.trackOf]

/-- Such a change that keeps the records resolved. -/
structure ShowFrame (s t : State) : Prop extends CueFrame s t where
  resolved : ResolveLaw s → ResolveLaw t

theorem ShowFrame.trans' {s t u : State} (h : ShowFrame s t) (h' : ShowFrame t u) : ShowFrame s u :=
  ⟨h.toCueFrame.trans' h'.toCueFrame, h'.resolved ∘ h.resolved⟩

/-- A change of the Cue Locator that leaves the records alone keeps them resolved. -/
theorem CueFrame.showFrame {s t : State} (h : CueFrame s t) (hr : t.rcv.recs = s.rcv.recs) : ShowFrame s t := by
  refine ⟨h, fun hs i hi => ?_⟩
  rw [h.resolve]
  rw [hr] at hi ⊢
  exact hs i hi

/-- A change that leaves titles, contexts, Cue Locator and records alone. -/
theorem ShowFrame.of_eq {s t : State} (ht : t.titles = s.titles) (hs : t.shows = s.shows) (hc : t.cues = s.cues)
    (hr : t.rcv.recs = s.rcv.recs) : ShowFrame s t :=
  (CueFrame.of_eq ht hs hc).showFrame hr

theorem ShowFrame.rfl' {s : State} : ShowFrame s s := .of_eq rfl rfl rfl rfl

/-- A change of the Cue Locator alone. -/
theorem ShowFrame.of_cues {s : State} {c : CueBlock} (h : CueMoves s s.cues c) : ShowFrame s { s with cues := c } :=
  CueFrame.showFrame ⟨rfl, fun _ => Iff.rfl, fun _ => rfl, h⟩ rfl

theorem ShowFrame.foldl {α : Type} {f : State → α → State} (h : ∀ s x, ShowFrame s (f s x)) (l : List α) (s : State) :
    ShowFrame s (l.foldl f s) :=
  List.foldlRecOn l f (motive := ShowFrame s) .rfl' fun u hu x _ => hu.trans' (h u x)

/-! ### What the relations keep -/

/-- Titles and contexts as they were keep the counts of references (R20). -/
theorem CueFrame.holders {s t : State} (h : CueFrame s t) (v : TitleNo) : Safety.holders t v = Safety.holders s v := by
  unfold Safety.holders
  congr 1
  funext a
  rw [h.held a]
  congr 1
  rw [Bool.eq_iff_iff, bne_iff_ne, bne_iff_ne]
  exact not_congr (h.dark a)

theorem CueFrame.showLaw {s t : State} (h : CueFrame s t) (hs : ShowLaw s) : ShowLaw t := by
  have hkeyed := h.cues.keyed hs
  obtain ⟨htitle, hdark, -⟩ := hs
  have hsame := title_congr h.titles
  refine ⟨fun v => ?_, fun a => ?_, (cacheLaw_iff t).mpr ⟨hkeyed.1, fun i w hv => ?_⟩⟩
  · rw [hsame, h.holders]; exact htitle v
  · rw [h.dark, h.held]; exact hdark a
  · obtain ⟨v, hv, hready⟩ := hkeyed.2 i w hv
    exact ⟨v, hv, by rw [hsame]; exact hready⟩

/-- The law of the entries reads the titles and the cue store alone. -/
theorem CueFrame.entryLaw {s t : State} (h : CueFrame s t) (hs : EntryLaw s) : EntryLaw t := by
  intro v i tr
  rw [title_congr h.titles, h.titles]
  exact hs v i tr

theorem CueFrame.locateLaw {s t : State} (h : CueFrame s t) (hs : ShowLaw s) (hentry : EntryLaw s) (hl : LocateLaw s) :
    LocateLaw t := by
  obtain ⟨hcursors, hways⟩ := h.cues.sound hs hentry hl
  refine (locateLaw_iff t).mpr ⟨fun a v x hx hv => ?_, fun i w hv v tr hhandle htr => ?_⟩
  · rw [h.trackOf] at hx
    rw [h.titles]
    exact hcursors a v x hx hv
  · rw [title_congr h.titles] at htr ⊢
    rw [h.titles]
    exact hways i w hv v tr hhandle htr

/-! ### Shared operations -/

theorem ShowFrame.suspendTest {s t : State} (h : ShowFrame s t) : ShowFrame s (suspendTest t) :=
  h.trans' (.of_eq (suspendTest_titles t) (suspendTest_shows t) (suspendTest_cues t) (by rw [suspendTest_rcv]))

/-- A request does nothing, changes the link state of a port, or is carried out whole and then does so (R204, R205). -/
theorem request_cases (r : Req) (k : Byte) (act : State → State × Reply) (s : State) : request r k act s = s ∨
    (∃ p x, request r k act s = s.setPort p x) ∨ ∃ p x, request r k act s = (act s).1.setPort p x := by
  unfold request
  split
  · unfold State.owedByte
    split
    · exact .inr (.inl ⟨_, _, rfl⟩)
    all_goals exact .inl rfl
  · split
    · exact .inr (.inl ⟨_, _, rfl⟩)
    · split
      · exact .inr (.inl ⟨_, _, rfl⟩)
      · exact .inr (.inr ⟨_, _, rfl⟩)

theorem setPort_showFrame (s : State) (p : Port) (x : PortLink) : ShowFrame s (s.setPort p x) := .of_eq rfl rfl rfl rfl

theorem request_showFrame {act : State → State × Reply} (hact : ∀ s, ShowFrame s (act s).1) (r : Req) (k : Byte)
    (s : State) : ShowFrame s (request r k act s) :=
  request_keeps (P := ShowFrame s) (fun _ _ _ h => h.trans' (setPort_showFrame _ _ _))
    (fun u h => h.trans' (hact u)) .rfl'

theorem linkError_showFrame (s : State) (p : Port) (x : Rx) : ShowFrame s (s.linkError p x) := setPort_showFrame _ _ _

theorem owedByte_showFrame (s : State) (p : Port) : ShowFrame s (s.owedByte p) :=
  .of_eq (by simp) (by simp) (by simp) (by simp)

theorem latchAud_showFrame (s : State) (c : FeedCond) (a : Aud) : ShowFrame s (s.latchAud c a) :=
  .of_eq (by simp) (by simp) (by simp) (by simp)

theorem setClock_showFrame (s : State) (a : Aud) (c : AudClock) : ShowFrame s (s.setClock a c) := .of_eq rfl rfl rfl rfl

theorem clearCursors_showFrame (s : State) (a : Aud) : ShowFrame s (s.clearCursors a) :=
  .of_cues (.single (.clear s.cues a))

/-- A context that changes neither its title nor between DARK and not. -/
theorem setShow_showFrame {s : State} {a : Aud} {c : Context} (hd : c.state = .dark ↔ s.shows[a].state = .dark)
    (ht : c.title = s.shows[a].title) : ShowFrame s (s.setShow a c) := by
  have hget : ∀ b : Aud, (s.setShow a c).shows[b] = if a = b then c else s.shows[b] := by
    intro b
    by_cases e : a = b
    · subst e; rw [if_pos rfl]; exact setAt_self _ _ _
    · rw [if_neg e]; exact setAt_other _ _ e
  refine CueFrame.showFrame ⟨rfl, fun b => ?_, fun b => ?_, .refl⟩ rfl
  all_goals
    rw [hget]
    split
    · next e => subst e; assumption
    · rfl

theorem setShowState_showFrame {s : State} {a : Aud} {x : ShowState} (hs : s.shows[a].state ≠ .dark) (hx : x ≠ .dark) :
    ShowFrame s (s.setShowState a x) :=
  setShow_showFrame (iff_of_false hx hs) rfl

/-! ### Streams (chapter 8) -/

/-- Of a stream operation only its lookups are left to say. -/
theorem StreamFrame.showFrame {s t : State} (h : StreamFrame s t) (hc : CueMoves s s.cues t.cues) : ShowFrame s t :=
  CueFrame.showFrame ⟨h.titles, fun _ => by rw [h.shows], fun _ => by rw [h.shows], hc⟩ (by rw [h.rcv])

theorem stream_showFrame (s : State) (b : StreamBlock) : ShowFrame s { s with stream := b } := .of_eq rfl rfl rfl rfl

theorem fill_showFrame (i : StreamNo) (s : State) : ShowFrame s (fill i s) := by
  obtain ⟨b, h⟩ := fill_eq i s
  rw [h]
  exact stream_showFrame s b

theorem startFill_showFrame (i : StreamNo) (s : State) : ShowFrame s (startFill i s) := by
  unfold startFill
  dsimp only
  split
  · exact .rfl'
  · refine ShowFrame.trans' ?_ (fill_showFrame i _)
    exact (ShowFrame.of_cues (lookup_moves s _ _ _)).trans' (stream_showFrame _ _)

theorem refillTrack_showFrame (a : Aud) (s : State) (v : TrackNo) : ShowFrame s (refillTrack a s v) := by
  unfold refillTrack
  split
  · exact (stream_showFrame s _).trans' (startFill_showFrame _ _)
  · exact .rfl'

theorem refillAud_showFrame (a : Aud) (s : State) : ShowFrame s (refillAud a s) := .foldl (refillTrack_showFrame a) _ _

theorem allocateStream_showFrame (i : StreamNo) (a : Aud) (v : TrackNo) (s : State) :
    ShowFrame s (allocateStream i a v s) :=
  (stream_showFrame s _).trans' (startFill_showFrame i _)

theorem requestStream_showFrame (s : State) (p : Aud × TrackNo) : ShowFrame s (requestStream s p) := by
  unfold requestStream
  split
  · exact allocateStream_showFrame _ _ _ _
  · exact .of_eq rfl rfl rfl rfl

theorem handOnEntry_showFrame (i : StreamNo) (s : State) : ShowFrame s (handOnEntry i s) := by
  unfold handOnEntry
  split
  · exact (stream_showFrame s _).trans' (allocateStream_showFrame _ _ _ _)
  · exact .rfl'

theorem releaseStream_showFrame (s : State) (p : Aud × TrackNo) : ShowFrame s (releaseStream s p) := by
  unfold releaseStream
  split
  · exact stream_showFrame s _
  · split
    · exact (stream_showFrame s _).trans' (handOnEntry_showFrame _ _)
    · exact .rfl'

theorem handEdges_showFrame (before : Vector (Vector Nat 8) 16) (s : State) : ShowFrame s (handEdges before s) :=
  (ShowFrame.foldl releaseStream_showFrame _ s).trans' (.foldl requestStream_showFrame _ _)

theorem grantRoom_showFrame (n : Nat) (s : State) : ShowFrame s (grantRoom n s) := by
  induction n generalizing s with
  | zero => exact .rfl'
  | succ n ih =>
    unfold grantRoom
    split
    · exact .rfl'
    · split
      · exact (fill_showFrame _ _).trans' (ih _)
      · exact .rfl'

/-! ### The clocks (chapter 4) -/

theorem advanceAud_showFrame (s : State) (a : Aud) : ShowFrame s (advanceAud s a) := by
  unfold advanceAud
  dsimp only
  split
  · split
    · exact (setClock_showFrame s a _).trans' (latchAud_showFrame _ _ _)
    · exact setClock_showFrame s a _
  · exact .rfl'

theorem due_showFrame (s : State) (c : ClockBlock) (d : Due) : ShowFrame s { s with clock := c, due := d } :=
  .of_eq rfl rfl rfl rfl

theorem houseTick_showFrame (s : State) : ShowFrame s (houseTick s) := by
  unfold houseTick
  exact ((due_showFrame s _ _).trans' (.foldl advanceAud_showFrame _ _)).suspendTest

theorem silenceReached_showFrame (a : Aud) (n : Nat) (s : State) : ShowFrame s (silenceReached a n s) := by
  unfold silenceReached
  split
  · next h =>
    exact (setShowState_showFrame (by rw [h.1]; decide) (by decide)).trans' (latchAud_showFrame _ _ _)
  · split
    · next h =>
      exact ((setShowState_showFrame (by rw [h.1]; decide) (by decide)).trans' (latchAud_showFrame _ _ _)).trans'
        (refillAud_showFrame _ _)
    · exact .rfl'

theorem silenceBoundary_showFrame (a : Aud) (s : State) : ShowFrame s (silenceBoundary a s) := by
  unfold silenceBoundary
  dsimp only
  split
  · split
    · refine ShowFrame.suspendTest (ShowFrame.trans' ?_ (silenceReached_showFrame _ _ _))
      exact .of_eq rfl rfl rfl rfl
    · exact .of_eq rfl rfl rfl rfl
  · exact .rfl'

theorem moveClock_showFrame (a : Aud) (r : Nat) (s : State) : ShowFrame s (moveClock a r s) :=
  ((setClock_showFrame s a _).trans' (clearCursors_showFrame _ a)).trans' (refillAud_showFrame a _)

theorem flagStep_showFrame (s : State) (a : Aud) : ShowFrame s (s.flagStep a) := .of_eq rfl rfl rfl rfl

theorem stepClock_showFrame (a : Aud) (r : Nat) (s : State) : ShowFrame s (stepClock a r s) := by
  unfold stepClock
  exact (((moveClock_showFrame a r s).trans' (flagStep_showFrame _ a)).trans' (setClock_showFrame _ _ _)).trans'
    (latchAud_showFrame _ _ _)

theorem handleReport_showFrame (a : Aud) (r : Nat) (s : State) : ShowFrame s (handleReport a r s) := by
  unfold handleReport
  dsimp only
  cases h : s.shows[a].state with
  | dark => exact .rfl'
  | armed => exact moveClock_showFrame _ _ _
  | held => exact stepClock_showFrame _ _ _
  | lost => exact (setShowState_showFrame (by rw [h]; decide) (by decide)).trans' (stepClock_showFrame _ _ _)
  | running =>
    dsimp only
    split
    · exact stepClock_showFrame _ _ _
    · exact setClock_showFrame _ _ _
  | freewheel =>
    dsimp only
    refine (setShowState_showFrame (a := a) (x := .running) (by rw [h]; decide) (by decide)).trans' ?_
    split
    · exact stepClock_showFrame _ _ _
    · exact setClock_showFrame _ _ _

theorem clampReel_showFrame (a : Aud) (s : State) : ShowFrame s (clampReel a s) :=
  (setClock_showFrame s a _).trans' (latchAud_showFrame _ _ _)

theorem positionTaken_showFrame (a : Aud) (r : Nat) (clamped : Bool) (s : State) :
    ShowFrame s (positionTaken a r clamped s) := by
  refine ShowFrame.suspendTest (ShowFrame.trans' ?_ (setClock_showFrame _ _ _))
  refine ShowFrame.trans' ?_ (handleReport_showFrame _ _ _)
  split
  · exact clampReel_showFrame a s
  · exact .rfl'

theorem position_showFrame (r : Req) (s : State) : ShowFrame s (position r s).1 := by
  unfold position
  split
  · exact .rfl'
  · exact positionTaken_showFrame _ _ _ _

/-! ### Shows (chapter 3) -/

theorem assignFeed_showFrame (r : Req) (s : State) : ShowFrame s (assignFeed r s).1 := by
  unfold assignFeed
  split
  · exact .rfl'
  · split
    · exact setShow_showFrame Iff.rfl rfl
    · exact .rfl'

theorem assignAir_showFrame (r : Req) (s : State) : ShowFrame s (assignAir r s).1 := by
  unfold assignAir
  split
  · exact .rfl'
  · split
    · next a port _ _ =>
      split
      · exact .rfl'
      · have hmap : ShowFrame s (s.setShow a { s.shows[a] with airPort := port }) := setShow_showFrame Iff.rfl rfl
        refine (hmap.trans' ?_).suspendTest
        exact .of_eq rfl rfl rfl rfl
    · exact .rfl'

theorem startClock_showFrame {a : Aud} {s : State} (h : s.shows[a].state ≠ .dark) : ShowFrame s (startClock a s) :=
  (setShowState_showFrame (x := .running) h (by decide)).trans' (setClock_showFrame _ _ _)

theorem run_showFrame (r : Req) (s : State) : ShowFrame s (run r s).1 := by
  unfold run
  split
  · exact .rfl'
  · next a _ =>
    cases h : s.shows[a].state with
    | armed | held | lost => exact startClock_showFrame (by rw [h]; decide)
    | running | freewheel | dark => exact .rfl'

theorem hold_showFrame (r : Req) (s : State) : ShowFrame s (hold r s).1 := by
  unfold hold
  split
  · exact .rfl'
  · next a _ =>
    cases h : s.shows[a].state with
    | running | freewheel | lost => exact setShowState_showFrame (x := .held) (by rw [h]; decide) (by decide)
    | held | armed | dark => exact .rfl'

/-! ### Receivers (chapter 6) -/

/-- A resolved record is resolved (R127). -/
theorem resolve_resolve (s : State) (r : Receiver) : resolve s (resolve s r) = resolve s r := rfl

/-- A record replaced by one that is FREE or resolved. -/
theorem ShowFrame.of_setRec {s t : State} {i : RecNo} {new : Receiver} (ht : t.titles = s.titles)
    (hs : t.shows = s.shows) (hc : t.cues = s.cues) (hr : t.rcv.recs = setAt s.rcv.recs i new)
    (hnew : ResolveLaw s → new.bound = true → resolve s new = new) : ShowFrame s t := by
  have hframe := CueFrame.of_eq ht hs hc
  refine ⟨hframe, fun h j hj => ?_⟩
  rw [hframe.resolve]
  rw [hr] at hj ⊢
  by_cases e : i = j
  · subst e; rw [setAt_self] at hj ⊢; exact hnew h hj
  · rw [setAt_other _ _ e] at hj ⊢; exact h j hj

theorem putRec_showFrame {s : State} (i : RecNo) {new : Receiver}
    (hnew : ResolveLaw s → new.bound = true → resolve s new = new) : ShowFrame s (s.putRec i new) :=
  .of_setRec rfl rfl rfl rfl hnew

theorem changeRec_showFrame {s : State} (i : RecNo) {new : Receiver}
    (hnew : ResolveLaw s → new.bound = true → resolve s new = new) : ShowFrame s (changeRec i new s) :=
  (putRec_showFrame i hnew).trans' (handEdges_showFrame _ _)

theorem itemHello_showFrame (p : Fin 2) (it : Item) (s : State) : ShowFrame s (itemHello p it s).1 := by
  unfold itemHello
  split
  · exact .rfl'
  · split
    · exact .rfl'
    · split
      · exact .rfl'
      · split
        · exact changeRec_showFrame _ fun _ _ => resolve_resolve _ _
        · split
          · exact changeRec_showFrame _ fun _ _ => rfl
          · exact .of_eq rfl rfl rfl rfl

theorem itemChoose_showFrame (p : Fin 2) (it : Item) (s : State) : ShowFrame s (itemChoose p it s).1 := by
  unfold itemChoose
  repeat' split
  case h_2 => exact changeRec_showFrame _ fun _ _ => resolve_resolve _ _
  all_goals exact .rfl'

theorem itemAlive_showFrame (p : Fin 2) (it : Item) (s : State) : ShowFrame s (itemAlive p it s).1 := by
  unfold itemAlive
  split
  · exact .rfl'
  · split
    · exact .rfl'
    · next i _ =>
      refine ShowFrame.of_setRec (i := i) rfl rfl rfl rfl fun h hbound => ?_
      have hi := h i hbound
      simp only [resolve] at hi ⊢
      rw [← hi]

theorem itemBye_showFrame (p : Fin 2) (it : Item) (s : State) : ShowFrame s (itemBye p it s).1 := by
  unfold itemBye
  repeat' split
  case h_2 => exact changeRec_showFrame _ fun _ hbound => by cases hbound
  all_goals exact .rfl'

theorem takeItem_showFrame (p : Fin 2) (it : Item) (s : State) : ShowFrame s (takeItem p it s).1 := by
  unfold takeItem
  split
  · exact .rfl'
  · exact itemHello_showFrame p it s
  · exact itemChoose_showFrame p it s
  · exact itemAlive_showFrame p it s
  · exact itemBye_showFrame p it s

theorem takeItems_showFrame (p : Fin 2) (its : List Item) (s : State) : ShowFrame s (takeItems p its s).1 := by
  induction its generalizing s with
  | nil => exact .rfl'
  | cons it rest ih => exact (takeItem_showFrame p it s).trans' (ih _)

theorem report_showFrame (r : Req) (s : State) : ShowFrame s (report r s).1 := by
  unfold report
  cases r.port with
  | feed _ | m => exact .rfl'
  | air p =>
    dsimp only [reportOn]
    split
    · exact .rfl'
    · split
      · exact .rfl'
      · exact (takeItems_showFrame _ _ _).suspendTest

theorem houseSecondBoundary_showFrame (s : State) : ShowFrame s (houseSecondBoundary s) := by
  unfold houseSecondBoundary
  split <;> exact .of_eq rfl rfl rfl rfl

theorem expireRec_showFrame (k : Nat) (s : State) (i : RecNo) : ShowFrame s (expireRec k s i) := by
  unfold expireRec
  dsimp only
  split
  · have hfreed := putRec_showFrame (s := s) i (new := Receiver.free) fun _ hbound => by cases hbound
    split
    · exact hfreed.trans' (.of_eq rfl rfl rfl rfl)
    · exact hfreed
  · exact .rfl'

theorem keepAliveExpiry_showFrame (s : State) : ShowFrame s (keepAliveExpiry s) := by
  unfold keepAliveExpiry
  cases s.due.expiry with
  | none => exact .rfl'
  | some k =>
    dsimp only
    refine (ShowFrame.trans' ?_ (handEdges_showFrame _ _)).suspendTest
    refine ShowFrame.trans' ?_ (.foldl (expireRec_showFrame k) _ _)
    exact .of_eq rfl rfl rfl rfl

/-! ### Payloads (chapter 7) -/

theorem offer_showFrame {placed : State → State} (h : ∀ s, ShowFrame s (placed s)) (k : PullContext) (x : Section)
    (c : Compose) : ShowFrame c.state (offer k x placed c).1.state := by
  unfold offer
  split
  · exact h _
  · exact .of_eq rfl rfl rfl rfl

/-- A fold over a composition; `get` is the composition within what the fold carries. -/
theorem compose_foldl_showFrame {α β : Type} (get : β → Compose) {f : β → α → β}
    (h : ∀ b x, ShowFrame (get b).state (get (f b x)).state) (l : List α) (b : β) :
    ShowFrame (get b).state (get (l.foldl f b)).state :=
  List.foldlRecOn l f (motive := fun d => ShowFrame (get b).state (get d).state) .rfl'
    fun d hd x _ => hd.trans' (h d x)

theorem removeLateTrack_showFrame (k : PullContext) (s : State) (v : TrackNo) :
    ShowFrame s (removeLateTrack k s v) := by
  unfold removeLateTrack
  split
  · unfold removeLate
    dsimp only
    split
    · exact .rfl'
    · exact (stream_showFrame s _).trans' (fill_showFrame _ _)
  · exact .rfl'

theorem takePosition_showFrame (k : PullContext) (i : StreamNo) (p : RingPos) (s : State) :
    ShowFrame s (takePosition k i p s) :=
  (stream_showFrame s _).trans' (fill_showFrame _ _)

theorem offerDue_showFrame (k : PullContext) (v : TrackNo) (i : StreamNo) (c : Compose) :
    ShowFrame c.state (offerDue k v i c).1.state := by
  unfold offerDue
  split
  · exact .rfl'
  · split
    · exact offer_showFrame (takePosition_showFrame _ _ _) _ _ _
    · exact .rfl'

theorem offerFirst_showFrame (k : PullContext) (acc : Compose × List TrackNo) (v : TrackNo) :
    ShowFrame acc.1.state (offerFirst k acc v).1.state := by
  unfold offerFirst
  split
  · exact offerDue_showFrame _ _ _ _
  · split
    · exact offer_showFrame (fun _ => .rfl') _ _ _
    · exact .rfl'

theorem offerSecond_showFrame (k : PullContext) (c : Compose) (v : TrackNo) :
    ShowFrame c.state (offerSecond k c v).state := by
  unfold offerSecond
  split
  · exact offerDue_showFrame _ _ _ _
  · exact .rfl'

theorem composeAudio_showFrame (k : PullContext) (tracks : List TrackNo) (c : Compose) :
    ShowFrame c.state (composeAudio k tracks c).state := by
  have hlate : ShowFrame c.state (tracks.foldl (removeLateTrack k) c.state) := .foldl (removeLateTrack_showFrame k) _ _
  have hfirst := compose_foldl_showFrame Prod.fst (offerFirst_showFrame k) tracks
    (({ c with state := tracks.foldl (removeLateTrack k) c.state } : Compose), [])
  exact hlate.trans' (hfirst.trans' (compose_foldl_showFrame id (offerSecond_showFrame k) _ _))

theorem markSent_showFrame (k : PullContext) (v : TrackNo) (x : Sent) (s : State) : ShowFrame s (markSent k v x s) :=
  .of_eq rfl rfl rfl rfl

theorem markRepeat_showFrame (k : PullContext) (v : TrackNo) (s : State) : ShowFrame s (markRepeat k v s) :=
  .of_eq rfl rfl rfl rfl

theorem offerChanged_showFrame (k : PullContext) (acc : Compose × List CaptionLook) (v : TrackNo) :
    ShowFrame acc.1.state (offerChanged k acc v).1.state := by
  unfold offerChanged
  dsimp only
  split
  · exact .rfl'
  · have hlook := ShowFrame.of_cues (lookup_moves acc.1.state k.aud v k.sair)
    dsimp only
    split
    · exact hlook.trans' (offer_showFrame (markSent_showFrame k v _) _ _ ⟨_, _, _⟩)
    · exact hlook

theorem offerRepeat_showFrame (k : PullContext) (c : Compose) (l : CaptionLook) :
    ShowFrame c.state (offerRepeat k c l).state := by
  unfold offerRepeat
  split
  · exact .rfl'
  · exact offer_showFrame (markRepeat_showFrame k _) _ _ _

theorem composeCaptions_showFrame (k : PullContext) (tracks : List TrackNo) (c : Compose) :
    ShowFrame c.state (composeCaptions k tracks c).state :=
  (compose_foldl_showFrame Prod.fst (offerChanged_showFrame k) tracks (c, [])).trans'
    (compose_foldl_showFrame id (offerRepeat_showFrame k) _ _)

theorem offerLostClear_showFrame (k : PullContext) (c : Compose) (v : TrackNo) :
    ShowFrame c.state (offerLostClear k c v).state :=
  offer_showFrame (markSent_showFrame k v _) _ _ _

theorem composeSections_showFrame (k : PullContext) (x : ShowState) (audio captions : List TrackNo) (c : Compose) :
    ShowFrame c.state (composeSections k x audio captions c).state := by
  cases x with
  | dark | armed => exact .rfl'
  | running | freewheel => exact (composeAudio_showFrame _ _ _).trans' (composeCaptions_showFrame _ _ _)
  | held => exact composeCaptions_showFrame _ _ _
  | lost => exact compose_foldl_showFrame id (offerLostClear_showFrame k) _ _

theorem pullTaken_showFrame (p : Fin 2) (a : Aud) (s : State) : ShowFrame s (pullTaken p a s).1 := by
  refine ShowFrame.suspendTest (ShowFrame.trans' ?_ (composeSections_showFrame _ _ _ _ _))
  exact .of_eq rfl rfl rfl rfl

theorem pull_showFrame (r : Req) (s : State) : ShowFrame s (pull r s).1 := by
  unfold pull
  cases r.port with
  | feed _ | m => exact .rfl'
  | air p =>
    dsimp only [pullOn]
    split
    · exact .rfl'
    · split
      · exact .rfl'
      · split
        · exact .rfl'
        · exact pullTaken_showFrame _ _ _

/-! ### The position cache (chapter 5) and the clip store (chapter 9) -/

theorem cacheProbe_showFrame (r : Req) (s : State) : ShowFrame s (cacheProbe r s).1 := by
  unfold cacheProbe
  dsimp only
  repeat' split
  all_goals exact .rfl'

theorem cacheFlush_showFrame (r : Req) (s : State) : ShowFrame s (cacheFlush r s).1 := by
  unfold cacheFlush
  split
  · exact .rfl'
  · exact .of_cues (.single (.flush s.cues))

theorem clipDefine_showFrame (r : Req) (s : State) : ShowFrame s (clipDefine r s).1 := by
  unfold clipDefine
  dsimp only
  repeat' split
  all_goals exact .of_eq rfl rfl rfl rfl

theorem clipDelete_showFrame (r : Req) (s : State) : ShowFrame s (clipDelete r s).1 := by
  unfold clipDelete
  repeat' split
  all_goals exact .of_eq rfl rfl rfl rfl

theorem clipProtect_showFrame (r : Req) (s : State) : ShowFrame s (clipProtect r s).1 := by
  unfold clipProtect
  dsimp only
  split <;> exact .of_eq rfl rfl rfl rfl

theorem clipWriteEnable_showFrame (r : Req) (s : State) : ShowFrame s (clipWriteEnable r s).1 := by
  unfold clipWriteEnable
  split <;> exact .of_eq rfl rfl rfl rfl

theorem clipProgram_showFrame (r : Req) (s : State) : ShowFrame s (clipProgram r s).1 := by
  unfold clipProgram
  dsimp only
  repeat' split
  all_goals exact .of_eq rfl rfl rfl rfl

theorem clipErase_showFrame (r : Req) (s : State) : ShowFrame s (clipErase r s).1 := by
  unfold clipErase
  dsimp only
  repeat' split
  all_goals exact .of_eq rfl rfl rfl rfl

theorem clipVerify_showFrame (r : Req) (s : State) : ShowFrame s (clipVerify r s).1 := by
  unfold clipVerify
  dsimp only
  repeat' split
  all_goals exact .of_eq rfl rfl rfl rfl

theorem startTurn_showFrame (s : State) : ShowFrame s (startTurn s) := by
  unfold startTurn
  split <;> exact .of_eq rfl rfl rfl rfl

theorem startFetch_showFrame (r : FetchRecord) (s : State) : ShowFrame s (startFetch r s) := by
  refine ShowFrame.trans' ?_ (grantRoom_showFrame 24 _)
  exact .of_eq rfl rfl rfl rfl

theorem arbiterChoice_showFrame (s : State) : ShowFrame s (arbiterChoice s) := by
  unfold arbiterChoice
  split
  · split
    · exact startTurn_showFrame s
    · split
      · exact (startFetch_showFrame _ s).suspendTest
      · exact .rfl'
  · exact .rfl'

theorem fetchCompletion_showFrame (s : State) : ShowFrame s (fetchCompletion s) := by
  unfold fetchCompletion
  split <;> exact .of_eq rfl rfl rfl rfl

theorem verifyTurnCompletion_showFrame (s : State) : ShowFrame s (verifyTurnCompletion s) := by
  unfold verifyTurnCompletion
  split
  · dsimp only
    split <;> exact .of_eq rfl rfl rfl rfl
  · exact .rfl'

/-! ### Ports and settings (chapter 10) -/

theorem frameCheckFail_showFrame (p : Port) (s : State) : ShowFrame s (frameCheckFail p s) := by
  unfold frameCheckFail
  split
  · exact owedByte_showFrame _ _
  · exact linkError_showFrame _ _ _

theorem frameLengthDiscard_showFrame (p : Port) (s : State) : ShowFrame s (frameLengthDiscard p s) := by
  unfold frameLengthDiscard
  split
  · exact owedByte_showFrame _ _
  · exact linkError_showFrame _ _ _

theorem discardPartial_showFrame (p : Port) (s : State) : ShowFrame s (discardPartial p s) := by
  unfold discardPartial
  split
  · exact linkError_showFrame _ _ _
  all_goals exact .rfl'

theorem unknownRequest_showFrame (p : Port) (kind tag : Byte) (s : State) :
    ShowFrame s (unknownRequest p kind tag s) := by
  unfold unknownRequest
  split
  · exact owedByte_showFrame _ _
  · split
    · exact .rfl'
    · exact setPort_showFrame _ _ _

theorem responseSent_showFrame (p : Port) (s : State) : ShowFrame s (responseSent p s) := by
  unfold responseSent
  split
  · exact setPort_showFrame _ _ _
  all_goals exact .rfl'

theorem syncByte_showFrame (p : Port) (s : State) : ShowFrame s (syncByte p s) := by
  unfold syncByte
  split
  · exact setPort_showFrame _ _ _
  · exact .rfl'
  · exact owedByte_showFrame _ _

theorem sense_showFrame (r : Req) (s : State) : ShowFrame s (sense r s).1 := by
  unfold sense
  dsimp only
  repeat' split
  all_goals exact .of_eq rfl rfl rfl rfl

/-- A clear of the statistics sets the counts of hits and misses to 0 (R208). -/
theorem clearStats_showFrame (s : State) : ShowFrame s (clearStats s) :=
  CueFrame.showFrame ⟨rfl, fun _ => Iff.rfl, fun _ => rfl, .single (.counts s.cues 0 0)⟩ rfl

theorem stats_showFrame (r : Req) (s : State) : ShowFrame s (stats r s).1 := by
  unfold stats
  dsimp only
  split
  · exact .rfl'
  · split
    · exact .rfl'
    · split
      · exact clearStats_showFrame s
      · exact .rfl'

theorem tableRead_showFrame (r : Req) (s : State) : ShowFrame s (tableRead r s).1 := by
  unfold tableRead
  dsimp only
  split
  · exact .rfl'
  · split
    · exact .rfl'
    · dsimp only
      split <;> exact .of_eq rfl rfl rfl rfl

/-- A SET whose parameter's store is within the frame (R207). -/
theorem setRequest_showFrame {store : Nat → Nat → State → Option State}
    (hstore : ∀ target v s u, store target v s = some u → ShowFrame s u) (param lo hi : Nat) (r : Req) (s : State) :
    ShowFrame s (setRequest param lo hi store r s) :=
  setRequest_keeps (P := ShowFrame s) (fun _ _ _ h => h.trans' (setPort_showFrame _ _ _))
    (fun _ _ _ _ hu h => h.trans' (hstore _ _ _ _ hu)) _ _ _ _ .rfl'

theorem setClockParam_showFrame (f : AudClock → Nat → AudClock) (target v : Nat) (s u : State)
    (h : setClockParam f target v s = some u) : ShowFrame s u := by
  obtain ⟨a, -, rfl⟩ := Option.map_eq_some_iff.mp h
  exact setClock_showFrame s a _

theorem setAirParam_showFrame (f : AirParams → Nat → AirParams) (target v : Nat) (s u : State)
    (h : setAirParam f target v s = some u) : ShowFrame s u := by
  obtain ⟨p, -, rfl⟩ := Option.map_eq_some_iff.mp h
  exact .of_eq rfl rfl rfl rfl

theorem storeLoadIdleTime_showFrame (target v : Nat) (s u : State) (h : storeLoadIdleTime target v s = some u) :
    ShowFrame s u := by
  cases h; exact .of_eq rfl rfl rfl rfl

theorem storeKeepAlive_showFrame (target v : Nat) (s u : State) (h : storeKeepAlive target v s = some u) :
    ShowFrame s u := by
  cases h; exact .of_eq rfl rfl rfl rfl

theorem storeMargin_showFrame (target v : Nat) (s u : State) (h : storeMargin target v s = some u) :
    ShowFrame s u := by
  cases h
  refine ShowFrame.suspendTest ?_
  exact .of_eq rfl rfl rfl rfl

theorem storeLead_showFrame (target v : Nat) (s u : State) (h : storeLead target v s = some u) : ShowFrame s u := by
  obtain ⟨w, hw, rfl⟩ := Option.map_eq_some_iff.mp h
  exact (setAirParam_showFrame _ _ _ _ _ hw).suspendTest

theorem storeBitRate_showFrame (target v : Nat) (s u : State) (h : storeBitRate target v s = some u) :
    ShowFrame s u := by
  obtain ⟨p, -, rfl⟩ := Option.map_eq_some_iff.mp h
  exact setPort_showFrame _ _ _

theorem bitRateChangeApplies_showFrame (p : Port) (s : State) : ShowFrame s (bitRateChangeApplies p s) := by
  unfold bitRateChangeApplies
  dsimp only
  split
  · split
    · exact setPort_showFrame _ _ _
    · exact .rfl'
  · exact .rfl'

/-! ### The dispatch -/

/-- Every command that changes no title is within the frame. -/
theorem exec_showFrame {i : Instr} (hi : keepsTitles i = true) (s : State) :
    ∃ t, exec i s = .next t ∧ ShowFrame s t := by
  cases i with
  | powerOn | resetTakesEffect | programCompletion | eraseCompletion => cases hi
  | reset _ | loadOpen _ | loadData _ | loadFinish _ | loadAbort _ | unload _ | arm _ | darken _ => cases hi
  | loadIdleTimeout _ | finishingCompletion _ | clipListOverflow _ => cases hi
  | houseTick => exact ⟨_, rfl, houseTick_showFrame s⟩
  | silenceBoundary a => exact ⟨_, rfl, silenceBoundary_showFrame a s⟩
  | houseSecondBoundary => exact ⟨_, rfl, houseSecondBoundary_showFrame s⟩
  | keepAliveExpiry => exact ⟨_, rfl, keepAliveExpiry_showFrame s⟩
  | run r => exact ⟨_, rfl, request_showFrame (run_showFrame r) _ _ _⟩
  | hold r => exact ⟨_, rfl, request_showFrame (hold_showFrame r) _ _ _⟩
  | position r => exact ⟨_, rfl, request_showFrame (position_showFrame r) _ _ _⟩
  | assignFeed r => exact ⟨_, rfl, request_showFrame (assignFeed_showFrame r) _ _ _⟩
  | assignAir r => exact ⟨_, rfl, request_showFrame (assignAir_showFrame r) _ _ _⟩
  | report r => exact ⟨_, rfl, request_showFrame (report_showFrame r) _ _ _⟩
  | pull r => exact ⟨_, rfl, request_showFrame (pull_showFrame r) _ _ _⟩
  | sense r => exact ⟨_, rfl, request_showFrame (sense_showFrame r) _ _ _⟩
  | setLoadIdleTime r => exact ⟨_, rfl, setRequest_showFrame storeLoadIdleTime_showFrame _ _ _ _ _⟩
  | setKeepAliveTime r => exact ⟨_, rfl, setRequest_showFrame storeKeepAlive_showFrame _ _ _ _ _⟩
  | setUrgencyMargin r => exact ⟨_, rfl, setRequest_showFrame storeMargin_showFrame _ _ _ _ _⟩
  | setJumpThreshold r | setGainExponent r | setSilenceInterval r =>
    exact ⟨_, rfl, setRequest_showFrame (setClockParam_showFrame _) _ _ _ _ _⟩
  | setLead r => exact ⟨_, rfl, setRequest_showFrame storeLead_showFrame _ _ _ _ _⟩
  | setCapacity r | setRepeatPeriod r | setWindow r =>
    exact ⟨_, rfl, setRequest_showFrame (setAirParam_showFrame _) _ _ _ _ _⟩
  | setBitRate r => exact ⟨_, rfl, setRequest_showFrame storeBitRate_showFrame _ _ _ _ _⟩
  | bitRateChangeApplies p => exact ⟨_, rfl, bitRateChangeApplies_showFrame p s⟩
  | stats r => exact ⟨_, rfl, request_showFrame (stats_showFrame r) _ _ _⟩
  | tableRead r => exact ⟨_, rfl, request_showFrame (tableRead_showFrame r) _ _ _⟩
  | cacheProbe r => exact ⟨_, rfl, request_showFrame (cacheProbe_showFrame r) _ _ _⟩
  | cacheFlush r => exact ⟨_, rfl, request_showFrame (cacheFlush_showFrame r) _ _ _⟩
  | clipDefine r => exact ⟨_, rfl, request_showFrame (clipDefine_showFrame r) _ _ _⟩
  | clipDelete r => exact ⟨_, rfl, request_showFrame (clipDelete_showFrame r) _ _ _⟩
  | clipWriteEnable r => exact ⟨_, rfl, request_showFrame (clipWriteEnable_showFrame r) _ _ _⟩
  | clipProgram r => exact ⟨_, rfl, request_showFrame (clipProgram_showFrame r) _ _ _⟩
  | clipErase r => exact ⟨_, rfl, request_showFrame (clipErase_showFrame r) _ _ _⟩
  | clipVerify r => exact ⟨_, rfl, request_showFrame (clipVerify_showFrame r) _ _ _⟩
  | clipProtect r => exact ⟨_, rfl, request_showFrame (clipProtect_showFrame r) _ _ _⟩
  | flashArbiterChoice => exact ⟨_, rfl, arbiterChoice_showFrame s⟩
  | fetchCompletion => exact ⟨_, rfl, fetchCompletion_showFrame s⟩
  | verifyTurnCompletion => exact ⟨_, rfl, verifyTurnCompletion_showFrame s⟩
  | frameCheckFail p => exact ⟨_, rfl, frameCheckFail_showFrame p s⟩
  | frameLengthDiscard p => exact ⟨_, rfl, frameLengthDiscard_showFrame p s⟩
  | frameGapTimeout p | breakCondition p => exact ⟨_, rfl, discardPartial_showFrame p s⟩
  | owedByteDiscard p => exact ⟨_, rfl, owedByte_showFrame s p⟩
  | unknownRequest p kind tag => exact ⟨_, rfl, unknownRequest_showFrame p kind tag s⟩
  | responseSent p => exact ⟨_, rfl, responseSent_showFrame p s⟩
  | syncByte p => exact ⟨_, rfl, syncByte_showFrame p s⟩

end Sys2Proof.Machine
end

/-! Changes of one title record that no context holds and no way names: what they leave of the laws, and the region of
the cue store that a load writes in (R10, R15, R19). -/
section
namespace Sys2Proof.Machine

open Sys2Proof.Safety

/-! ### What a step keeps -/

/-- What a step from `s` keeps, while the laws of titles, contexts and position cache hold in `s`. -/
structure KeepsTitleLaws (s t : State) : Prop where
  shows : ShowLaw t
  resolved : ResolveLaw s → ResolveLaw t
  located : CueStoreLaw s → LayoutLaw s → EntryLaw s → LocateLaw s → LocateLaw t

theorem ShowFrame.keepsTitleLaws {s t : State} (h : ShowFrame s t) (hs : ShowLaw s) : KeepsTitleLaws s t :=
  ⟨h.showLaw hs, h.resolved, fun _ _ hentry hl => h.locateLaw hs hentry hl⟩

theorem KeepsTitleLaws.rfl' {s : State} (hs : ShowLaw s) : KeepsTitleLaws s s := ⟨hs, id, fun _ _ _ => id⟩

/-- What comes after and is within the frame keeps as much, where the entries still lie in order. -/
theorem KeepsTitleLaws.showFrame {s t u : State} (h : KeepsTitleLaws s t) (hentry : EntryLaw s → EntryLaw t)
    (h' : ShowFrame t u) : KeepsTitleLaws s u :=
  ⟨h'.showLaw h.shows, h'.resolved ∘ h.resolved,
    fun hcue hlay he hl => h'.locateLaw h.shows (hentry he) (h.located hcue hlay he hl)⟩

/-- The link state of a port is none of what the laws read. -/
theorem KeepsTitleLaws.setPort {s t : State} (h : KeepsTitleLaws s t) (p : Port) (x : PortLink) :
    KeepsTitleLaws s (t.setPort p x) :=
  ⟨h.shows, h.resolved, h.located⟩

/-- A request keeps what its effect keeps. -/
theorem request_keepsTitleLaws {act : State → State × Reply} {s : State} (hs : ShowLaw s)
    (hact : KeepsTitleLaws s (act s).1) (r : Req) (k : Byte) : KeepsTitleLaws s (request r k act s) := by
  obtain h | ⟨p, x, h⟩ | ⟨p, x, h⟩ := request_cases r k act s
  · rw [h]; exact .rfl' hs
  · rw [h]; exact (KeepsTitleLaws.rfl' hs).setPort p x
  · rw [h]; exact hact.setPort p x

/-! ### A record that nothing names -/

/-- Does no context hold the title, and no valid way name it? -/
def Unnamed (s : State) (t : TitleNo) : Prop :=
  (∀ a : Aud, s.shows[a].title ≠ some t) ∧
    ∀ (i : Fin 16) (w : Fin 4), s.cues.sets[i].ways[w].valid = true → s.cues.sets[i].ways[w].handle ≠ handle t

/-- Contexts and ways name READY titles alone (R20, R108). -/
theorem unnamed_of_not_ready {s : State} (hs : ShowLaw s) {t : TitleNo} (ht : (s.title t).state ≠ .ready) :
    Unnamed s t := by
  refine ⟨fun a ha => ht (ready_of_held hs ha), fun i w hv hhandle => ?_⟩
  obtain ⟨t', ht', hready⟩ := ((cacheLaw_iff s).mp hs.2.2).2 i w hv
  rw [hhandle, handle_inj] at ht'
  exact ht (ht' ▸ hready)

/-- An unnamed title has no reference (R20). -/
theorem Unnamed.refs {s : State} {t : TitleNo} (h : Unnamed s t) (hs : ShowLaw s) : (s.title t).refs = 0 := by
  rw [(hs.1 t).1]
  refine List.countP_eq_zero.mpr fun a _ => ?_
  rw [Bool.and_eq_true, beq_iff_eq]
  exact fun ha => h.1 a ha.2

/-- `u` has the contexts, the Cue Locator and the records of `s`, and its titles but for record `t`, whose references
have not grown. -/
structure RecordFrame (t : TitleNo) (s u : State) : Prop where
  shows : u.shows = s.shows
  cues : u.cues = s.cues
  recs : u.rcv.recs = s.rcv.recs
  others : ∀ v, v ≠ t → u.title v = s.title v
  refs : (u.title t).refs ≤ (s.title t).refs

theorem RecordFrame.rfl' {t : TitleNo} {s : State} : RecordFrame t s s := ⟨rfl, rfl, rfl, fun _ _ => rfl, le_rfl⟩

theorem RecordFrame.trans' {t : TitleNo} {s u v : State} (h : RecordFrame t s u) (h' : RecordFrame t u v) :
    RecordFrame t s v :=
  ⟨h'.shows.trans h.shows, h'.cues.trans h.cues, h'.recs.trans h.recs,
    fun x hx => (h'.others x hx).trans (h.others x hx), h'.refs.trans h.refs⟩

/-- One record replaced, and blocks that the frame does not read. -/
theorem RecordFrame.of_setAt {t : TitleNo} {s u : State} {x : Title} (hs : u.shows = s.shows) (hc : u.cues = s.cues)
    (hr : u.rcv.recs = s.rcv.recs) (ht : u.titles.recs = setAt s.titles.recs t x) (hx : x.refs ≤ (s.title t).refs) :
    RecordFrame t s u :=
  ⟨hs, hc, hr, fun v hv => by rw [title_of_setAt ht, if_neg hv], by rw [title_of_setAt ht, if_pos rfl]; exact hx⟩

section

variable {t : TitleNo} {s u : State}

/-- The contexts hold other titles, so their tracks are as they were. -/
theorem RecordFrame.trackOf (h : RecordFrame t s u) (hn : Unnamed s t) (a : Aud) (v : TrackNo) :
    Machine.trackOf u a v = Machine.trackOf s a v :=
  trackOf_congr (by rw [h.shows]) (fun x hx => h.others x fun e => hn.1 a (e ▸ hx)) v

theorem RecordFrame.showLaw (h : RecordFrame t s u) (hs : ShowLaw s) (hn : Unnamed s t) : ShowLaw u := by
  have hrefs := hn.refs hs
  have hkeyed := (cacheLaw_iff s).mp hs.2.2
  have hholders : ∀ v, holders u v = holders s v := fun v => by unfold holders; rw [h.shows]
  refine ⟨fun v => ?_, fun a => ?_, (cacheLaw_iff u).mpr ?_⟩
  · rw [hholders]
    by_cases e : v = t
    · have hzero : (u.title t).refs = 0 := Nat.le_zero.mp (hrefs ▸ h.refs)
      subst e
      rw [hzero, ← (hs.1 v).1, hrefs]
      exact ⟨rfl, fun hne => absurd rfl hne⟩
    · rw [h.others v e]; exact hs.1 v
  · rw [h.shows]; exact hs.2.1 a
  · rw [h.cues]
    refine ⟨hkeyed.1, fun i w hv => ?_⟩
    obtain ⟨v, hv', hready⟩ := hkeyed.2 i w hv
    exact ⟨v, hv', by rw [h.others v fun e => hn.2 i w hv (e ▸ hv'.symm)]; exact hready⟩

theorem RecordFrame.resolveLaw (h : RecordFrame t s u) (hn : Unnamed s t) (hr : ResolveLaw s) : ResolveLaw u := by
  intro i hi
  rw [h.recs] at hi ⊢
  rw [resolve_congr (s := s) (by rw [h.shows]) fun v => by rw [h.trackOf hn]]
  exact hr i hi

/-- Do the READY titles but `t` read in the cue store of `u` the entries they read in that of `s`? -/
def OthersRead (t : TitleNo) (s u : State) : Prop :=
  ∀ v, v ≠ t → (s.title v).state = .ready → ∀ (i : Nat) (tr : Track), (s.title v).tracks[i]? = some tr →
    ∀ j, j < tr.n → entryEnd u.titles.cue (s.title v) tr j = entryEnd s.titles.cue (s.title v) tr j

theorem RecordFrame.locateLaw (h : RecordFrame t s u) (hs : ShowLaw s) (hn : Unnamed s t) (hread : OthersRead t s u)
    (hl : LocateLaw s) : LocateLaw u := by
  obtain ⟨hcursors, hways⟩ := (locateLaw_iff s).mp hl
  have hkeyed := (cacheLaw_iff s).mp hs.2.2
  refine (locateLaw_iff u).mpr ⟨fun a v x hx hv => ?_, fun i w hv v tr hhandle htr => ?_⟩
  · rw [h.trackOf hn] at hx
    rw [h.cues] at hv ⊢
    obtain ⟨hindex, hended⟩ := hcursors a v x hx hv
    obtain ⟨y, tr, hy, htr, rfl⟩ := trackOf_some hx
    refine ⟨hindex, fun j hj => ?_⟩
    rw [hread y (fun e => hn.1 a (e ▸ hy)) (ready_of_held hs hy) v.val tr htr j (hj.trans_le hindex)]
    exact hended j hj
  · rw [h.cues] at hv hhandle htr ⊢
    obtain ⟨v', hv', hready⟩ := hkeyed.2 i w hv
    cases handle_inj.mp (hhandle.symm.trans hv'.symm)
    have hother : v ≠ t := fun e => hn.2 i w hv (e ▸ hhandle)
    rw [h.others v hother] at htr ⊢
    have hends := hread v hother hready _ tr htr
    obtain ⟨hindex, hended, hlive⟩ := hways i w hv v tr hhandle htr
    refine ⟨hindex, fun j hj => ?_, fun hlt => ?_⟩
    · rw [hends j (by dsimp only at hindex; omega)]; exact hended j hj
    · rw [hends _ hlt]; exact hlive hlt

theorem RecordFrame.keepsTitleLaws (h : RecordFrame t s u) (hs : ShowLaw s) (hn : Unnamed s t)
    (hread : CueStoreLaw s → LayoutLaw s → OthersRead t s u) : KeepsTitleLaws s u :=
  ⟨h.showLaw hs hn, h.resolveLaw hn, fun hcue hlay _ hl => h.locateLaw hs hn (hread hcue hlay) hl⟩

end

/-! ### Writes within a region (R10, R15) -/

/-- Do the two cue stores read alike outside the `c` slots from slot `b`? -/
def WritesWithin (b c : Nat) (m m' : List Host.Cell) : Prop :=
  ∀ a, a < 16 * b ∨ 16 * (b + c) ≤ a → Memory.read cueEmpty m' a = Memory.read cueEmpty m a

theorem WritesWithin.rfl' {b c : Nat} {m : List Host.Cell} : WritesWithin b c m m := fun _ _ => rfl

theorem WritesWithin.trans' {b c : Nat} {m m' m'' : List Host.Cell} (h : WritesWithin b c m m')
    (h' : WritesWithin b c m' m'') : WritesWithin b c m m'' := fun a ha => (h' a ha).trans (h a ha)

theorem WritesWithin.write {b c a : Nat} {m : List Host.Cell} {bs : List Byte} (h1 : 16 * b ≤ a)
    (h2 : a + bs.length ≤ 16 * (b + c)) : WritesWithin b c m (Memory.write cueEmpty m a bs) :=
  fun _ hx => Memory.read_write_outside (by omega)

theorem WritesWithin.clear {b c a n : Nat} {m : List Host.Cell} (h1 : 16 * b ≤ a) (h2 : a + n ≤ 16 * (b + c)) :
    WritesWithin b c m (Memory.clear m a n) :=
  fun _ hx => by rw [Memory.read_clear, if_neg (by omega)]

theorem WritesWithin.foldl {α : Type} {b c : Nat} {f : List Host.Cell → α → List Host.Cell} {l : List α}
    (h : ∀ m, ∀ x ∈ l, WritesWithin b c m (f m x)) (m : List Host.Cell) : WritesWithin b c m (l.foldl f m) :=
  List.foldlRecOn l f (motive := WritesWithin b c m) .rfl' fun m' hm x hx => hm.trans' (h m' x hx)

/-- A slot outside the region reads as it did. -/
theorem WritesWithin.slotAt {b c n : Nat} {m m' : List Host.Cell} (h : WritesWithin b c m m')
    (hn : holdsSlot b c n = false) : Machine.slotAt m' n = Machine.slotAt m n := by
  refine Memory.readRun_congr _ _ fun a h1 h2 => h a ?_
  simp only [holdsSlot, Bool.and_eq_false_iff, decide_eq_false_iff_not, Config.slotBytes] at hn h1 h2
  omega

/-- The parts of the title lie in its region: the entries of each track before the text pool, the anchors after it. -/
structure Title.Fits (x : Title) : Prop where
  pool : x.entries + ceilDiv x.textBytes Config.slotBytes ≤ x.count
  entries : ∀ tr ∈ x.tracks, tr.entryBase + tr.nDecl ≤ x.entries
  received : ∀ tr ∈ x.tracks, tr.n ≤ tr.nDecl
  anchors : ∀ tr ∈ x.tracks, tr.anchorBase + ceilDiv tr.nDecl Config.anchorSpan ≤ x.count

/-- What a list sums to before an element, and the element, are within the sum of the list. -/
theorem sum_take_add_le {α : Type} (f : α → Nat) {l : List α} {i : Nat} {x : α} (h : l[i]? = some x) :
    ((l.take i).map f).sum + f x ≤ (l.map f).sum := by
  have hle := reelStart_add_le (l.map f) i
  rw [List.getD_eq_getElem?_getD, List.getElem?_map, h] at hle
  rwa [List.map_take]

theorem fits_of_laidOut {x : Title} (h : laidOut x) : x.Fits := by
  obtain ⟨hcount, -, -, htracks⟩ := h
  refine ⟨by omega, fun tr htr => ?_, fun tr htr => ?_, fun tr htr => ?_⟩
  all_goals
    obtain ⟨i, hi⟩ := List.getElem?_of_mem htr
    obtain ⟨hentry, hanchor, hn, -⟩ := htracks i tr hi
  · have := sum_take_add_le (·.nDecl) hi
    rw [hentry]
    exact this
  · exact hn
  · have := sum_take_add_le (fun u : Track => ceilDiv u.nDecl Config.anchorSpan) hi
    omega

/-- An entry slot lies in the title's region (R7, R15). -/
theorem Title.Fits.holds_entry {x : Title} (h : x.Fits) {tr : Track} (htr : tr ∈ x.tracks) {j : Nat}
    (hj : j < tr.nDecl) : holdsSlot x.base x.count (entrySlot x tr j) = true := by
  have hpool := h.pool
  have hentry := h.entries tr htr
  rw [holdsSlot_iff]
  unfold entrySlot
  omega

/-- Entries of a title read as they did after writes in a region apart from its own. -/
theorem WritesWithin.entryEnd {b c : Nat} {m m' : List Host.Cell} (h : WritesWithin b c m m') {x : Title} (hx : x.Fits)
    (hapart : ∀ n, holdsSlot x.base x.count n = true → holdsSlot b c n = false) {tr : Track} (htr : tr ∈ x.tracks)
    {j : Nat} (hj : j < tr.n) : Machine.entryEnd m' x tr j = Machine.entryEnd m x tr j := by
  have hslot := h.slotAt (hapart _ (hx.holds_entry htr (hj.trans_le (hx.received tr htr))))
  simp only [Machine.entryEnd, entryStart, entryDur, hslot]

/-- Writes in a region that no READY title but `t` shares leave what the others read. -/
theorem OthersRead.of_writes {t : TitleNo} {s u : State} {b c : Nat} (hlay : LayoutLaw s)
    (hw : WritesWithin b c s.titles.cue u.titles.cue)
    (hapart : ∀ v, v ≠ t → (s.title v).state ≠ .free → ∀ n, (s.title v).owns n = true → holdsSlot b c n = false) :
    OthersRead t s u := by
  intro v hv hready i tr htr j hj
  have hlive : (s.title v).state ≠ .free := by rw [hready]; decide
  refine hw.entryEnd (fits_of_laidOut (hlay v hlive).1) (fun n hn => hapart v hv hlive n ?_)
    (List.mem_of_getElem? htr) hj
  rw [Title.owns_of_not_free hlive]
  exact hn

/-- Two titles share no slot (R19). -/
theorem region_apart {s : State} (h : CueStoreLaw s) {t v : TitleNo} (hv : v ≠ t) (ht : (s.title t).state ≠ .free)
    {n : Nat} (hn : (s.title v).owns n = true) : holdsSlot (s.title t).base (s.title t).count n = false := by
  have hcover := ((cueStoreLaw_iff s).mp h).1 n
  rw [← Title.owns_of_not_free ht]
  by_contra hboth
  rw [Bool.not_eq_false] at hboth
  have hless := titleOwners_of_setAt (u := s.setTitle t Title.free) (x := Title.free) rfl n
  have hstill : 0 < titleOwners (s.setTitle t Title.free) n :=
    List.countP_pos_iff.mpr ⟨v, mem_all24 v, by rw [title_of_setAt (x := Title.free) rfl, if_neg hv]; exact hn⟩
  rw [hboth] at hless
  simp only [Title.free_owns] at hless
  split at hcover <;> simp at hless <;> omega

/-- A region just allocated has no slot of a title (R17, R19). -/
theorem allocated_apart {s : State} (h : CueStoreLaw s) {c : Nat} {r : Nat × List Extent}
    (hr : allocateRegion c s.titles.free = some r) {v : TitleNo} {n : Nat} (hn : (s.title v).owns n = true) :
    holdsSlot r.1 c n = false := by
  have hcover := ((cueStoreLaw_iff s).mp h).1 n
  have htaken := allocateRegion_covers hr n
  by_contra hboth
  rw [Bool.not_eq_false] at hboth
  have howned : 0 < titleOwners s n := List.countP_pos_iff.mpr ⟨v, mem_all24 v, hn⟩
  rw [hboth, if_pos rfl] at htaken
  split at hcover <;> omega

end Sys2Proof.Machine
end

/-! The load commands and UNLOAD: each changes one title record that no context holds and no way names, and writes the
cue store in its region alone (R15, R19, R22, R29 to R41). -/
section
namespace Sys2Proof.Machine

open Sys2Proof.Safety

/-! ### Loads (chapter 2) -/

/-- A change of record `t` that writes the cue store in the title's region alone. -/
structure LoadFrame (t : TitleNo) (s u : State) : Prop extends RecordFrame t s u where
  cue : (s.title t).Fits → WritesWithin (s.title t).base (s.title t).count s.titles.cue u.titles.cue

theorem LoadFrame.rfl' {t : TitleNo} {s : State} : LoadFrame t s s := ⟨.rfl', fun _ => .rfl'⟩

/-- The record of `u` has the region of that of `s`, and its parts lie in it if they did. -/
structure Title.KeepsRegion (x y : Title) : Prop where
  base : y.base = x.base
  count : y.count = x.count
  fits : x.Fits → y.Fits

theorem LoadFrame.trans' {t : TitleNo} {s u v : State} (h : LoadFrame t s u)
    (hr : (s.title t).KeepsRegion (u.title t)) (h' : LoadFrame t u v) : LoadFrame t s v := by
  refine ⟨h.toRecordFrame.trans' h'.toRecordFrame, fun hfits => (h.cue hfits).trans' ?_⟩
  have hlater := h'.cue (hr.fits hfits)
  rwa [hr.base, hr.count] at hlater

/-- A load of a title that is neither FREE nor READY keeps what the laws of titles say of the others. -/
theorem LoadFrame.keepsTitleLaws {t : TitleNo} {s u : State} (h : LoadFrame t s u) (hs : ShowLaw s)
    (hfree : (s.title t).state ≠ .free) (hready : (s.title t).state ≠ .ready) : KeepsTitleLaws s u :=
  h.toRecordFrame.keepsTitleLaws hs (unnamed_of_not_ready hs hready) fun hcue hlay =>
    .of_writes hlay (h.cue (fits_of_laidOut (hlay t hfree).1)) fun _ hv _ _ hn => region_apart hcue hv hfree hn

/-- One record replaced, the cue store's bytes standing. -/
theorem LoadFrame.of_setAt {t : TitleNo} {s u : State} {x : Title} (hs : u.shows = s.shows) (hc : u.cues = s.cues)
    (hr : u.rcv.recs = s.rcv.recs) (ht : u.titles.recs = setAt s.titles.recs t x) (hx : x.refs ≤ (s.title t).refs)
    (hm : u.titles.cue = s.titles.cue) : LoadFrame t s u :=
  ⟨.of_setAt hs hc hr ht hx, fun _ => by rw [hm]; exact .rfl'⟩

theorem freeTitle_loadFrame (t : TitleNo) (s : State) : LoadFrame t s (s.freeTitle t) := by
  obtain ⟨l, hl⟩ := freeTitle_eq s t
  rw [hl]
  exact .of_setAt rfl rfl rfl rfl (Nat.zero_le _) rfl

theorem failLoad_loadFrame (t : TitleNo) (reason : FailReason) (s : State) : LoadFrame t s (failLoad t reason s) := by
  have hfree := freeTitle_loadFrame t s
  unfold failLoad
  dsimp only
  split
  · exact ⟨⟨hfree.shows, hfree.cues, hfree.recs, hfree.others, hfree.refs⟩, hfree.cue⟩
  · exact hfree

theorem touchTitle_loadFrame (t : TitleNo) (s : State) : LoadFrame t s (touchTitle t s) :=
  .of_setAt rfl rfl rfl rfl le_rfl rfl

theorem touchTitle_title (t : TitleNo) (s : State) :
    (touchTitle t s).title t = { s.title t with lastActivity := s.clock.h } := setAt_self _ _ _

theorem touchTitle_keepsRegion (t : TitleNo) (s : State) : (s.title t).KeepsRegion ((touchTitle t s).title t) := by
  rw [touchTitle_title]
  exact ⟨rfl, rfl, fun ⟨h1, h2, h3, h4⟩ => ⟨h1, h2, h3, h4⟩⟩

@[simp] theorem CaptionEntry.bytes_length (e : CaptionEntry) : e.bytes.length = 16 := by simp [CaptionEntry.bytes]

@[simp] theorem DescEntry.bytes_length (e : DescEntry) : e.bytes.length = 16 := by simp [DescEntry.bytes]

@[simp] theorem anchorBytes_length (start : Nat) : (anchorBytes start).length = 16 := by simp [anchorBytes]

/-- An entry shortened is an entry of the title (R11). -/
theorem shortenLast_writes {x : Title} (hx : x.Fits) {tr : Track} (htr : tr ∈ x.tracks) (m : List Host.Cell)
    (start : Nat) : WritesWithin x.base x.count m (shortenLast m x tr start) := by
  unfold shortenLast
  dsimp only
  split
  · exact .rfl'
  · next hn =>
    have hreceived := hx.received tr htr
    have hslot := holdsSlot_iff.mp (hx.holds_entry htr (j := tr.n - 1) (by omega))
    simp only [Config.slotBytes]
    refine .write (by omega) ?_
    rw [le_length]
    omega

/-- A text placed within the declared text bytes lies in the title's text pool (R10, R33). -/
theorem placeText_writes {x : Title} (hx : x.Fits) {text : List Byte} (htext : x.fill + text.length ≤ x.textBytes)
    (s : State) : WritesWithin x.base x.count s.titles.cue (placeText x text s).titles.cue := by
  have hpool := hx.pool
  simp only [ceilDiv, Config.slotBytes] at hpool
  refine .write ?_ ?_ <;> simp only [poolAddr, Config.slotBytes] <;> omega

/-- An entry stored where the track has room is an entry of the title (R32). -/
theorem storeEntry_writes {x : Title} (hx : x.Fits) {tr : Track} (htr : tr ∈ x.tracks) (hroom : tr.n < tr.nDecl)
    (t : TitleNo) (tn start : Nat) {bytes : List Byte} (hb : bytes.length = 16) (s : State) :
    WritesWithin x.base x.count s.titles.cue (storeEntry t tn x tr start bytes s).titles.cue := by
  have hslot := holdsSlot_iff.mp (hx.holds_entry htr hroom)
  refine (shortenLast_writes hx htr s.titles.cue start).trans' (.write ?_ ?_) <;>
    simp only [Config.slotBytes] <;> omega

/-- The record after an entry is stored: its track has one more received entry (R32). -/
theorem storeEntry_title (t : TitleNo) (tn : Nat) (x : Title) (tr : Track) (start : Nat) (bytes : List Byte)
    (s : State) : (storeEntry t tn x tr start bytes s).title t = x.setTrack tn { tr with n := tr.n + 1 } :=
  setAt_self _ _ _

/-- One more received entry, where the track has room, moves no part of the title (R32). -/
theorem setTrack_keepsRegion {x : Title} {tn : Nat} {tr : Track} (htr : x.tracks[tn]? = some tr)
    (hroom : tr.n < tr.nDecl) (fill : Nat) :
    x.KeepsRegion ({ x with fill := fill }.setTrack tn { tr with n := tr.n + 1 }) := by
  refine ⟨rfl, rfl, fun hx => ?_⟩
  have hdecl : (x.tracks.set tn { tr with n := tr.n + 1 }).map (·.nDecl) = x.tracks.map (·.nDecl) := by
    obtain ⟨hlt, rfl⟩ := List.getElem?_eq_some_iff.mp htr
    conv_rhs => rw [← List.set_getElem_self (as := x.tracks.map (·.nDecl)) (i := tn) (by simpa using hlt)]
    simp
  have hentries : ({ x with fill := fill }.setTrack tn { tr with n := tr.n + 1 }).entries = x.entries := by
    simp only [Title.entries, Title.setTrack, hdecl]
  have hmem := List.mem_of_getElem? htr
  refine ⟨by rw [hentries]; exact hx.pool, fun u hu => ?_, fun u hu => ?_, fun u hu => ?_⟩
  · rw [hentries]
    obtain hu | rfl := List.mem_or_eq_of_mem_set hu
    · exact hx.entries u hu
    · exact hx.entries tr hmem
  · obtain hu | rfl := List.mem_or_eq_of_mem_set hu
    · exact hx.received u hu
    · exact hroom
  · obtain hu | rfl := List.mem_or_eq_of_mem_set hu
    · exact hx.anchors u hu
    · exact hx.anchors tr hmem

/-- An entry that a LOAD.DATA stores is of its title, in the title's region, and raises no reference (R32). -/
theorem appendEntry_loadFrame {t : TitleNo} {tn : Nat} {e : RawEntry} {s : State} {r : State × Bool}
    (h : appendEntry t tn e s = .ok r) : LoadFrame t s r.1 ∧ (s.title t).KeepsRegion (r.1.title t) := by
  unfold appendEntry at h
  dsimp only at h
  cases htr : (s.title t).tracks[tn]? with
  | none => rw [htr] at h; cases h
  | some tr =>
    rw [htr] at h
    have hmem := List.mem_of_getElem? htr
    dsimp only at h
    split at h
    · cases h
    next hroom =>
    rw [not_le] at hroom
    split at h
    · cases h
    split at h
    · cases h
    cases e with
    | caption start dur bits raw =>
      dsimp only at h
      split at h
      · cases h
      next htext =>
      cases h
      rw [not_lt] at htext
      refine ⟨⟨.of_setAt rfl rfl rfl rfl le_rfl, fun hfits => ?_⟩, ?_⟩
      · refine (placeText_writes hfits htext s).trans' ?_
        have hgrown : { s.title t with fill := (s.title t).fill + (prepareText raw).1.length }.Fits :=
          ⟨hfits.pool, hfits.entries, hfits.received, hfits.anchors⟩
        exact storeEntry_writes hgrown hmem hroom t tn start (CaptionEntry.bytes_length _) _
      · rw [storeEntry_title]
        exact setTrack_keepsRegion htr hroom _
    | description start dur clipBlock level =>
      cases h
      refine ⟨⟨.of_setAt rfl rfl rfl rfl le_rfl, fun hfits => ?_⟩, ?_⟩
      · exact storeEntry_writes hfits hmem hroom t tn start (DescEntry.bytes_length _) s
      · rw [storeEntry_title]
        exact setTrack_keepsRegion htr hroom _

theorem appendEntries_loadFrame (t : TitleNo) (tn : Nat) (es : List RawEntry) (cut : Bool) (s : State) :
    LoadFrame t s (appendEntries t tn es cut s).1 := by
  induction es generalizing cut s with
  | nil => exact .rfl'
  | cons e es ih =>
    unfold appendEntries
    split
    · exact failLoad_loadFrame _ _ _
    · next r hr =>
      obtain ⟨hframe, hregion⟩ := appendEntry_loadFrame hr
      exact hframe.trans' hregion (ih _ _)

/-- What the admission of a load request answers with is a title in an admitted state (R26). -/
theorem admitLoad_state {p : Port} {lengthOk : Bool} {n : Nat} {f : TitleState → Bool} {s : State} {t : TitleNo}
    (h : admitLoad p lengthOk n f s = .ok t) : f (s.title t).state = true := by
  unfold admitLoad at h
  dsimp only at h
  repeat' split at h
  all_goals cases h
  simpa using ‹¬(!f (s.title t).state) = true›

/-- An admitted load of a title that is not READY keeps what it keeps within the title. -/
theorem LoadFrame.keepsTitleLaws_admitted {p : Port} {lengthOk : Bool} {n : Nat} {f : TitleState → Bool} {s u : State}
    {t : TitleNo} (h : LoadFrame t s u) (hs : ShowLaw s) (hadmit : admitLoad p lengthOk n f s = .ok t)
    (hf : f .ready = false) : KeepsTitleLaws s u := by
  refine h.keepsTitleLaws hs (admitLoad_ok hadmit) fun hready => ?_
  have hstate := admitLoad_state hadmit
  rw [hready, hf] at hstate
  cases hstate

theorem loadData_keepsTitleLaws (r : Req) {s : State} (hs : ShowLaw s) : KeepsTitleLaws s (loadData r s).1 := by
  unfold loadData
  dsimp only
  split
  · exact .rfl' hs
  · next t hadmit =>
    refine LoadFrame.keepsTitleLaws_admitted (t := t) ?_ hs hadmit rfl
    refine (touchTitle_loadFrame t s).trans' (touchTitle_keepsRegion t s) ?_
    split
    · exact failLoad_loadFrame _ _ _
    · split
      · exact .rfl'
      · exact appendEntries_loadFrame _ _ _ _ _

theorem loadFinish_keepsTitleLaws (r : Req) {s : State} (hs : ShowLaw s) : KeepsTitleLaws s (loadFinish r s).1 := by
  unfold loadFinish
  split
  · exact .rfl' hs
  · next t hadmit =>
    refine LoadFrame.keepsTitleLaws_admitted (t := t) ?_ hs hadmit rfl
    refine (touchTitle_loadFrame t s).trans' (touchTitle_keepsRegion t s) ?_
    dsimp only
    split <;> exact .of_setAt rfl rfl rfl rfl le_rfl rfl

theorem loadAbort_keepsTitleLaws (r : Req) {s : State} (hs : ShowLaw s) : KeepsTitleLaws s (loadAbort r s).1 := by
  unfold loadAbort
  split
  · exact .rfl' hs
  · next t hadmit => exact (freeTitle_loadFrame t s).keepsTitleLaws_admitted hs hadmit rfl

theorem loadIdleTimeout_keepsTitleLaws (t : TitleNo) {s : State} (hs : ShowLaw s) :
    KeepsTitleLaws s (loadIdleTimeout t s) := by
  unfold loadIdleTimeout
  split
  · next hdue =>
    simp only [idleExpired, Bool.and_eq_true, beq_iff_eq] at hdue
    obtain ⟨-, hloading, -⟩ := hdue
    exact (failLoad_loadFrame t _ s).keepsTitleLaws hs (by simp [hloading]) (by simp [hloading])
  · exact .rfl' hs

theorem clipListOverflow_keepsTitleLaws (t : TitleNo) {s : State} (hs : ShowLaw s) :
    KeepsTitleLaws s (clipListOverflow t s) := by
  unfold clipListOverflow
  dsimp only
  split
  · next hf => exact (failLoad_loadFrame t _ s).keepsTitleLaws hs (by simp [hf.1]) (by simp [hf.1])
  · exact .rfl' hs

/-- The anchors of a track are written in the title's region (R13, R36). -/
theorem writeAnchors_writes {x : Title} (hx : x.Fits) {tr : Track} (htr : tr ∈ x.tracks) (m : List Host.Cell) :
    WritesWithin x.base x.count m (writeAnchors x m tr) := by
  refine .foldl (fun m' k hk => ?_) m
  have hreceived := hx.received tr htr
  have hanchors := hx.anchors tr htr
  rw [List.mem_range] at hk
  simp only [ceilDiv, Config.anchorSpan] at hanchors hk
  refine .write ?_ ?_ <;> simp only [anchorBytes_length, Config.slotBytes] <;> omega

theorem finishingCompletion_keepsTitleLaws (t : TitleNo) {s : State} (hs : ShowLaw s) :
    KeepsTitleLaws s (finishingCompletion t s) := by
  unfold finishingCompletion
  dsimp only
  split
  · next hf =>
    refine LoadFrame.keepsTitleLaws (t := t) ?_ hs (by simp [hf.1]) (by simp [hf.1])
    have hwrites : (s.title t).Fits → WritesWithin (s.title t).base (s.title t).count s.titles.cue
        ((s.title t).tracks.foldl (writeAnchors (s.title t)) s.titles.cue) := fun hfits =>
      .foldl (fun m tr htr => writeAnchors_writes hfits htr m) _
    obtain ⟨l, hl⟩ := closeLoad_eq s t
    rw [hl]
    split <;> exact ⟨.of_setAt rfl rfl rfl rfl le_rfl, hwrites⟩
  · exact .rfl' hs

/-! ### LOAD.OPEN (R28, R29) and UNLOAD (R22) -/

/-- The bytes cleared beyond X lie in the declared region (R10). -/
theorem openTitle_writes (d : Decl) (p : LoadPort) (t : TitleNo) (base : Nat) (free : List Extent) (s : State) :
    WritesWithin base d.regionSlots s.titles.cue (openTitle d p t base free s).titles.cue := by
  refine .clear ?_ ?_ <;>
    simp only [Decl.padding, Decl.regionSlots, ceilDiv, Config.slotBytes] <;> omega

theorem loadOpen_keepsTitleLaws (r : Req) {s : State} (hs : ShowLaw s) : KeepsTitleLaws s (loadOpen r s).1 := by
  obtain h | ⟨d, p, t, x, ht, hx, h⟩ := loadOpen_cases r s
  · rw [h]; exact .rfl' hs
  · rw [h]
    have hframe : RecordFrame t s (openTitle d p t x.1 x.2 s) := .of_setAt rfl rfl rfl rfl (Nat.zero_le _)
    refine hframe.keepsTitleLaws hs (unnamed_of_not_ready hs (by simp [ht])) fun hcue hlay => ?_
    exact .of_writes hlay (openTitle_writes d p t x.1 x.2 s) fun _ _ _ _ hn => allocated_apart hcue hx hn

/-- Ways made invalid break no law of titles, contexts, cursors and ways (R107). -/
theorem fewerWays_keepsTitleLaws {s : State} (hs : ShowLaw s) {c : CueBlock} (hcursors : c.cursors = s.cues.cursors)
    (hways : ∀ (i : Fin 16) (w : Fin 4), c.sets[i].ways[w].valid = true → c.sets[i].ways[w] = s.cues.sets[i].ways[w]) :
    KeepsTitleLaws s { s with cues := c } := by
  obtain ⟨htitle, hdark, hcache⟩ := hs
  refine ⟨⟨htitle, hdark, (cacheLaw_iff _).mpr ?_⟩, id, fun _ _ _ hl => (locateLaw_iff _).mpr ?_⟩
  · obtain ⟨hdistinct, hready⟩ := (cacheLaw_iff s).mp hcache
    refine ⟨fun i w w' hv hv' => ?_, fun i w hv => ?_⟩
    · have hw := hways i w hv
      have hw' := hways i w' hv'
      rw [hw] at hv ⊢
      rw [hw'] at hv' ⊢
      exact hdistinct i w w' hv hv'
    · have hw := hways i w hv
      dsimp only at hv ⊢
      rw [hw] at hv ⊢
      exact hready i w hv
  · obtain ⟨hplaced, hindex⟩ := (locateLaw_iff s).mp hl
    refine ⟨fun a v x hx => ?_, fun i w hv => ?_⟩
    · unfold CueBlock.cursor
      dsimp only
      rw [hcursors]
      exact hplaced a v x hx
    · have hw := hways i w hv
      dsimp only at hv ⊢
      rw [hw] at hv ⊢
      exact hindex i w hv

/-- A title freed that no context holds, the ways that name it made invalid (R2, R22, R107). -/
theorem freeTitle_keepsTitleLaws {s : State} (hs : ShowLaw s) {t : TitleNo} (ht : (s.title t).refs = 0) {c : CueBlock}
    (hcursors : c.cursors = s.cues.cursors)
    (hways : ∀ (i : Fin 16) (w : Fin 4), c.sets[i].ways[w].valid = true →
      c.sets[i].ways[w] = s.cues.sets[i].ways[w] ∧ c.sets[i].ways[w].handle ≠ handle t) :
    KeepsTitleLaws s { s.freeTitle t with cues := c } := by
  have hfewer := fewerWays_keepsTitleLaws hs hcursors fun i w hv => (hways i w hv).1
  have hfree := freeTitle_loadFrame t s
  have hframe : RecordFrame t { s with cues := c } { s.freeTitle t with cues := c } :=
    ⟨hfree.shows, rfl, hfree.recs, hfree.others, hfree.refs⟩
  have hunnamed : Unnamed { s with cues := c } t := by
    refine ⟨fun a ha => ?_, fun i w hv => (hways i w hv).2⟩
    have hheld := holders_pos hs ha
    rw [← (hs.1 t).1, ht] at hheld
    exact absurd hheld (lt_irrefl 0)
  have hkeeps := hframe.keepsTitleLaws hfewer.shows hunnamed fun _ _ _ _ _ _ _ _ _ _ => by
    obtain ⟨l, hl⟩ := freeTitle_eq s t
    rw [hl]
  exact ⟨hkeeps.shows, hkeeps.resolved, fun hcue hlay he hl =>
    hkeeps.located hcue hlay he (hfewer.located hcue hlay he hl)⟩

/-- A valid way of a position cache that has forgotten a handle is one that it held, of another handle (R107). -/
theorem forget_way {c : CueBlock} {n : Nat} {i : Fin 16} {w : Fin 4} (hv : (c.forget n).sets[i].ways[w].valid = true) :
    (c.forget n).sets[i].ways[w] = c.sets[i].ways[w] ∧ (c.forget n).sets[i].ways[w].handle ≠ n := by
  have hway : (c.forget n).sets[i].ways[w] = c.sets[i].ways[w].invalidateFor n := by simp [CueBlock.forget]
  rw [hway] at hv ⊢
  unfold Way.invalidateFor at hv ⊢
  split at hv
  · cases hv
  · next h =>
    rw [if_neg h]
    exact ⟨rfl, fun e => h (by rw [hv, e]; simp)⟩

theorem unload_keepsTitleLaws (r : Req) {s : State} (hs : ShowLaw s) : KeepsTitleLaws s (unload r s).1 := by
  obtain h | ⟨t, -, hrefs, h⟩ := unload_cases r s
  · rw [h]; exact .rfl' hs
  · rw [h, State.freeTitle_cues]
    exact freeTitle_keepsTitleLaws hs hrefs rfl fun _ _ => forget_way

end Sys2Proof.Machine
end

/-! ARM and DARKEN: one context takes up or lets go a title, whose reference count follows; what that leaves of the laws
of titles, contexts, cursors and ways, and of the resolution of records (R56, R57, R61). -/
section
namespace Sys2Proof.Machine

open Sys2Proof.Safety

/-! ### One context and one reference count -/

/-- `u` differs from `s` in context `a`, in the reference count of title `t`, in cursors, and in blocks that no law of
titles and contexts reads. -/
structure ShowChange (a : Aud) (t : TitleNo) (s u : State) : Prop where
  recs : ∃ n, u.titles.recs = setAt s.titles.recs t { s.title t with refs := n }
  cue : u.titles.cue = s.titles.cue
  shows : ∃ c, u.shows = setAt s.shows a c
  sets : u.cues.sets = s.cues.sets

section

variable {a : Aud} {t : TitleNo} {s u : State}

theorem ShowChange.title (h : ShowChange a t s u) (v : TitleNo) : ∃ n, u.title v = { s.title v with refs := n } := by
  obtain ⟨n, hrecs⟩ := h.recs
  rw [title_of_setAt hrecs]
  split
  · next e => subst e; exact ⟨n, rfl⟩
  · exact ⟨(s.title v).refs, rfl⟩

theorem ShowChange.show_other (h : ShowChange a t s u) {b : Aud} (hb : b ≠ a) : u.shows[b] = s.shows[b] := by
  obtain ⟨c, hshows⟩ := h.shows
  rw [hshows]
  exact setAt_other _ _ hb.symm

/-- The track that a context has, without its title. -/
theorem trackOf_track (s : State) (b : Aud) (v : TrackNo) :
    (trackOf s b v).map (·.track) = s.shows[b].title.bind fun w => (s.title w).tracks[v.val]? := by
  unfold trackOf titleOf
  cases s.shows[b].title with
  | none => rfl
  | some w => simp [Function.comp_def]

/-- A reference count is no part of what the law of the entries reads. -/
theorem ShowChange.entryLaw (h : ShowChange a t s u) (hs : EntryLaw s) : EntryLaw u := by
  intro v i tr
  obtain ⟨n, hv⟩ := h.title v
  rw [hv, h.cue]
  exact hs v i tr

/-- The track of another context, its title's reference count aside. -/
theorem ShowChange.trackOf_other (h : ShowChange a t s u) {b : Aud} (hb : b ≠ a) {v : TrackNo} {x : TitleTrack}
    (hx : trackOf u b v = some x) : ∃ n y, trackOf s b v = some y ∧ x = ⟨{ y.title with refs := n }, y.track⟩ := by
  obtain ⟨w, tr, hw, htr, rfl⟩ := trackOf_some hx
  obtain ⟨n, hn⟩ := h.title w
  rw [h.show_other hb] at hw
  rw [hn] at htr ⊢
  refine ⟨n, ⟨s.title w, tr⟩, ?_, rfl⟩
  unfold trackOf titleOf
  rw [hw]
  simpa using htr

/-- Records of other auditoriums resolve as they did (R127). -/
theorem ShowChange.resolve (h : ShowChange a t s u) {r : Receiver} (hr : r.aud ≠ a) :
    Machine.resolve u r = Machine.resolve s r := by
  refine resolve_congr (by rw [h.show_other hr]) fun v => ?_
  rw [trackOf_track, trackOf_track, h.show_other hr]
  cases s.shows[r.aud].title with
  | none => rfl
  | some w =>
    obtain ⟨n, hn⟩ := h.title w
    dsimp only [Option.bind_some]
    rw [hn]

theorem ShowChange.cacheLaw (h : ShowChange a t s u) (hs : CacheLaw s) : CacheLaw u := by
  obtain ⟨hdistinct, hready⟩ := (cacheLaw_iff s).mp hs
  refine (cacheLaw_iff u).mpr ?_
  unfold CueBlock.Keyed
  rw [h.sets]
  refine ⟨hdistinct, fun i w hv => ?_⟩
  obtain ⟨v, hv', hstate⟩ := hready i w hv
  obtain ⟨n, hn⟩ := h.title v
  exact ⟨v, hv', by rw [hn]; exact hstate⟩

/-- Sound ways stay sound, and sound cursors where the changed context has no valid cursor on a track. -/
theorem ShowChange.locateLaw (h : ShowChange a t s u)
    (hcursor : ∀ b v, b ≠ a → u.cues.cursor b v = s.cues.cursor b v)
    (hclear : ∀ v, trackOf u a v = none ∨ (u.cues.cursor a v).valid = false) (hs : LocateLaw s) : LocateLaw u := by
  obtain ⟨hcursors, hways⟩ := (locateLaw_iff s).mp hs
  refine (locateLaw_iff u).mpr ⟨fun b v x hx hv => ?_, ?_⟩
  · by_cases hb : b = a
    · subst hb
      obtain hnone | hinvalid := hclear v
      · rw [hnone] at hx; cases hx
      · rw [hinvalid] at hv; cases hv
    · obtain ⟨n, y, hy, rfl⟩ := h.trackOf_other hb hx
      rw [hcursor b v hb] at hv ⊢
      rw [h.cue]
      exact hcursors b v y hy hv
  · rw [h.sets]
    intro i w hv v tr hhandle htr
    obtain ⟨n, hn⟩ := h.title v
    rw [hn] at htr ⊢
    rw [h.cue]
    exact hways i w hv v tr hhandle htr

/-- Does the context hold the title, not being DARK (R20)? -/
def Context.holds (c : Context) (v : TitleNo) : Bool := c.state != .dark && c.title == some v

/-- The holders of a title after a change of one context: less the old one, more the new one. -/
theorem ShowChange.holders (h : ShowChange a t s u) (v : TitleNo) :
    Safety.holders u v + (if s.shows[a].holds v then 1 else 0) =
      Safety.holders s v + (if u.shows[a].holds v then 1 else 0) :=
  countP_change allAuds_nodup (fun b => s.shows[b].holds v) (fun b => u.shows[b].holds v) (mem_allAuds a)
    fun b hb => by rw [h.show_other hb]

/-- A change that gives the title as many references as it gains or loses holders keeps the laws of titles, contexts and
position cache (R20, R46). -/
theorem ShowChange.showLaw (h : ShowChange a t s u) (hs : ShowLaw s)
    (hdark : u.shows[a].state = .dark ↔ u.shows[a].title = none)
    (hrefs : ∀ v, (u.title v).refs + (if s.shows[a].holds v then 1 else 0) =
      (s.title v).refs + (if u.shows[a].holds v then 1 else 0))
    (hready : ∀ v, u.shows[a].holds v = true → (s.title v).state = .ready) : ShowLaw u := by
  obtain ⟨htitle, hdark', hcache⟩ := hs
  refine ⟨fun v => ?_, fun b => ?_, h.cacheLaw hcache⟩
  · have hcount := h.holders v
    have hgain := hrefs v
    obtain ⟨hv, hstate⟩ := htitle v
    refine ⟨by omega, fun hne => ?_⟩
    obtain ⟨n, hn⟩ := h.title v
    have hsame : (u.title v).state = (s.title v).state := by rw [hn]
    rw [hsame]
    by_cases hu : u.shows[a].holds v = true
    · exact hready v hu
    · rw [if_neg hu] at hgain
      exact hstate (by omega)
  · by_cases hb : b = a
    · subst hb; exact hdark
    · rw [h.show_other hb]; exact hdark' b

end

/-! ### ARM (R56, R57) -/

/-- The state of a taken ARM before its records are resolved: bound, with a fresh start in every block. -/
def armBound (a : Aud) (t : TitleNo) (s : State) : State :=
  (((bindTitle a t s).setClock a (bindTitle a t s).clock.auds[a].fresh).clearCursors a).clearFrame a

theorem armTaken_eq (a : Aud) (t : TitleNo) (s : State) : armTaken a t s =
    suspendTest (handEdges (armBound a t s).rcv.counts (reresolveAud a (armBound a t s))) := rfl

theorem armBound_showChange (a : Aud) (t : TitleNo) (s : State) : ShowChange a t s (armBound a t s) :=
  ⟨⟨_, rfl⟩, rfl, ⟨_, rfl⟩, rfl⟩

theorem armBound_show (a : Aud) (t : TitleNo) (s : State) :
    (armBound a t s).shows[a] = { s.shows[a] with state := .armed, title := some t } := setAt_self _ _ _

theorem armBound_refs (a : Aud) (t : TitleNo) (s : State) (v : TitleNo) :
    ((armBound a t s).title v).refs = (s.title v).refs + if v = t then 1 else 0 := by
  have hrecs : (armBound a t s).titles.recs =
      setAt s.titles.recs t { s.title t with refs := (s.title t).refs + 1 } := rfl
  rw [title_of_setAt hrecs]
  split
  · next e => subst e; rfl
  · rfl

theorem armBound_showLaw {a : Aud} {t : TitleNo} {s : State} (hs : ShowLaw s) (ha : s.shows[a].state = .dark)
    (ht : (s.title t).state = .ready) : ShowLaw (armBound a t s) := by
  have hidle : ∀ v, s.shows[a].holds v = false := fun v => by unfold Context.holds; rw [ha]; rfl
  have hholds : ∀ v, (armBound a t s).shows[a].holds v = true ↔ t = v := fun v => by
    rw [armBound_show]
    simp [Context.holds]
  refine (armBound_showChange a t s).showLaw hs (by rw [armBound_show]; simp) (fun v => ?_) fun v hv => ?_
  · rw [armBound_refs, hidle, if_neg Bool.false_ne_true]
    by_cases e : v = t
    · rw [if_pos e, if_pos ((hholds v).mpr e.symm)]
    · rw [if_neg e, if_neg fun h => e ((hholds v).mp h).symm]
  · rw [← (hholds v).mp hv]; exact ht

theorem armBound_cursor (a : Aud) (t : TitleNo) (s : State) (b : Aud) (v : TrackNo) :
    (armBound a t s).cues.cursor b v = if a = b then Cursor.clear else s.cues.cursor b v := clear_cursor s.cues a b v

theorem armBound_locateLaw (a : Aud) (t : TitleNo) {s : State} (hs : LocateLaw s) : LocateLaw (armBound a t s) := by
  refine (armBound_showChange a t s).locateLaw (fun b v hb => ?_) (fun v => .inr ?_) hs
  · rw [armBound_cursor, if_neg hb.symm]
  · rw [armBound_cursor, if_pos rfl]; rfl

/-- Re-resolution changes the records and the counts alone. -/
theorem reresolve_cueFrame (a : Aud) (s : State) (i : RecNo) : CueFrame s (reresolve a s i) := by
  unfold reresolve
  dsimp only
  split <;> exact .of_eq rfl rfl rfl

/-- The records after one of them is re-resolved. -/
theorem reresolve_recs (a : Aud) (s : State) (i j : RecNo) : (reresolve a s i).rcv.recs[j] =
    if i = j ∧ s.rcv.recs[i].bound = true ∧ s.rcv.recs[i].aud = a then resolve s s.rcv.recs[i] else s.rcv.recs[j] := by
  unfold reresolve
  dsimp only
  split
  · next h =>
    rw [Bool.and_eq_true, beq_iff_eq] at h
    rw [putRec_recs]
    simp only [h, and_self, and_true]
  · next h =>
    rw [Bool.and_eq_true, beq_iff_eq] at h
    exact (if_neg fun h' => h h'.2).symm

/-- Is record `i` FREE, or resolved against its auditorium's title (R128)? -/
def ResolvedAt (s : State) (i : RecNo) : Prop := s.rcv.recs[i].bound = true → resolve s s.rcv.recs[i] = s.rcv.recs[i]

theorem reresolveAud_cueFrame (a : Aud) (s : State) : CueFrame s (reresolveAud a s) :=
  List.foldlRecOn allRecs (reresolve a) (motive := CueFrame s) (.of_eq rfl rfl rfl)
    fun u hu i _ => hu.trans' (reresolve_cueFrame a u i)

/-- Re-resolving one record resolves it, where those of other auditoriums are, and keeps the resolved ones so (R57). -/
theorem reresolve_resolvedAt {a : Aud} {s : State} (h : ∀ i : RecNo, s.rcv.recs[i].aud ≠ a → ResolvedAt s i)
    {i j : RecNo} (hi : i = j ∨ ResolvedAt s i) : ResolvedAt (reresolve a s j) i := by
  intro hbound
  rw [(reresolve_cueFrame a s j).resolve]
  rw [reresolve_recs] at hbound ⊢
  split
  · exact resolve_resolve _ _
  · next hcase =>
    rw [if_neg hcase] at hbound
    obtain rfl | hi := hi
    · exact h i (fun e => hcase ⟨rfl, hbound, e⟩) hbound
    · exact hi hbound

theorem reresolve_aud (a : Aud) (s : State) (j i : RecNo) :
    (reresolve a s j).rcv.recs[i].aud = s.rcv.recs[i].aud := by
  rw [reresolve_recs]
  split
  · next hcase => rw [← hcase.1]; rfl
  · rfl

theorem foldl_reresolve_resolvedAt {a : Aud} (l : List RecNo) {s : State}
    (h : ∀ i : RecNo, s.rcv.recs[i].aud ≠ a → ResolvedAt s i) {i : RecNo} (hi : i ∈ l ∨ ResolvedAt s i) :
    ResolvedAt (l.foldl (reresolve a) s) i := by
  induction l generalizing s with
  | nil => exact hi.resolve_left (by simp)
  | cons j l ih =>
    refine ih (fun k hk => reresolve_resolvedAt h (.inr (h k (reresolve_aud a s j k ▸ hk)))) ?_
    rcases hi with hi | hi
    · obtain rfl | hi := List.mem_cons.mp hi
      · exact .inr (reresolve_resolvedAt h (.inl rfl))
      · exact .inl hi
    · exact .inr (reresolve_resolvedAt h (.inr hi))

/-- Where the records of other auditoriums are resolved, re-resolution leaves every record so (R57). -/
theorem reresolveAud_resolveLaw {a : Aud} {s : State} (h : ∀ i : RecNo, s.rcv.recs[i].aud ≠ a → ResolvedAt s i) :
    ResolveLaw (reresolveAud a s) := by
  unfold reresolveAud
  exact fun i => foldl_reresolve_resolvedAt allRecs h (.inl (mem_allRecs i))

theorem armTaken_keepsTitleLaws {a : Aud} {t : TitleNo} {s : State} (hs : ShowLaw s) (ha : s.shows[a].state = .dark)
    (ht : (s.title t).state = .ready) : KeepsTitleLaws s (armTaken a t s) := by
  have hchange := armBound_showChange a t s
  have hbound := armBound_showLaw hs ha ht
  have hframe := (reresolveAud_cueFrame a (armBound a t s)).trans'
    (handEdges_showFrame (armBound a t s).rcv.counts _).suspendTest.toCueFrame
  rw [armTaken_eq]
  refine ⟨hframe.showLaw hbound, fun hr => ?_, fun _ _ he hl =>
    hframe.locateLaw hbound (hchange.entryLaw he) (armBound_locateLaw a t hl)⟩
  refine (handEdges_showFrame _ _).suspendTest.resolved (reresolveAud_resolveLaw fun i hi hb => ?_)
  rw [hchange.resolve hi]
  exact hr i hb

theorem arm_keepsTitleLaws (r : Req) {s : State} (hs : ShowLaw s) : KeepsTitleLaws s (arm r s).1 := by
  obtain h | ⟨a, t, ha, ht, h⟩ := arm_cases r s
  · rw [h]; exact .rfl' hs
  · rw [h]; exact armTaken_keepsTitleLaws hs ha ht

/-! ### DARKEN (R61) -/

/-- The state of a taken DARKEN before the title is let go: records unresolved, edges handed on, cursors clear. -/
def darkenReady (a : Aud) (s : State) : State :=
  ((handEdges s.rcv.counts (unresolveAud a s)).clearCursors a).clearFrame a

theorem darkenTaken_eq (a : Aud) (s : State) : darkenTaken a s = suspendTest (unbindTitle a (darkenReady a s)) := rfl

theorem darkenReady_cueFrame (a : Aud) (s : State) : CueFrame s (darkenReady a s) := by
  have hunresolved : CueFrame s (unresolveAud a s) :=
    .of_eq (unresolveAud_titles a s) (unresolveAud_sameShows a s).shows (by simp only [unresolveAud])
  have hcleared := (handEdges_showFrame s.rcv.counts (unresolveAud a s)).trans' (clearCursors_showFrame _ a)
  refine hunresolved.trans' (hcleared.toCueFrame.trans' ?_)
  exact .of_eq rfl rfl rfl

/-- The records then: those of the auditorium unresolved, the others as they were. -/
theorem darkenReady_recs (a : Aud) (s : State) (i : RecNo) : (darkenReady a s).rcv.recs[i] =
    if s.rcv.recs[i].bound = true ∧ s.rcv.recs[i].aud = a then s.rcv.recs[i].unresolve else s.rcv.recs[i] := by
  have hrcv : (darkenReady a s).rcv = (unresolveAud a s).rcv := (handEdges_frame s.rcv.counts (unresolveAud a s)).rcv
  rw [hrcv]
  simp [unresolveAud]

/-- A title let go: its references fall by one, and the context is DARK and holds none (R61). -/
theorem unbindTitle_held {a : Aud} {t : TitleNo} {s : State} (h : s.shows[a].title = some t) :
    (unbindTitle a s).titles.recs = setAt s.titles.recs t { s.title t with refs := (s.title t).refs - 1 } ∧
      (unbindTitle a s).titles.cue = s.titles.cue ∧
      (unbindTitle a s).shows = setAt s.shows a { s.shows[a] with state := .dark, title := none } ∧
      (unbindTitle a s).cues = s.cues ∧ (unbindTitle a s).rcv = s.rcv := by
  unfold unbindTitle
  rw [h]
  exact ⟨rfl, rfl, rfl, rfl, rfl⟩

theorem unbindTitle_showChange {a : Aud} {t : TitleNo} {s : State} (h : s.shows[a].title = some t) :
    ShowChange a t s (unbindTitle a s) := by
  obtain ⟨hrecs, hcue, hshows, hcues, -⟩ := unbindTitle_held h
  exact ⟨⟨_, hrecs⟩, hcue, ⟨_, hshows⟩, by rw [hcues]⟩

theorem unbindTitle_show {a : Aud} {t : TitleNo} {s : State} (h : s.shows[a].title = some t) :
    (unbindTitle a s).shows[a] = { s.shows[a] with state := .dark, title := none } := by
  obtain ⟨-, -, hshows, -⟩ := unbindTitle_held h
  rw [hshows]
  exact setAt_self _ _ _

theorem unbindTitle_showLaw {a : Aud} {t : TitleNo} {s : State} (hs : ShowLaw s) (h : s.shows[a].title = some t) :
    ShowLaw (unbindTitle a s) := by
  obtain ⟨hrecs, -⟩ := unbindTitle_held h
  have hidle : ∀ v, (unbindTitle a s).shows[a].holds v = false := fun v => by rw [unbindTitle_show h]; rfl
  have hlit : s.shows[a].state ≠ .dark := fun e => by rw [(hs.2.1 a).mp e] at h; cases h
  have hholds : ∀ v, s.shows[a].holds v = true ↔ t = v := fun v => by
    unfold Context.holds
    rw [h, bne_iff_ne.mpr hlit]
    simp
  refine (unbindTitle_showChange h).showLaw hs (by rw [unbindTitle_show h]; simp) (fun v => ?_) fun v hv => ?_
  · rw [hidle, if_neg Bool.false_ne_true, title_of_setAt hrecs]
    by_cases e : v = t
    · have hheld := holders_pos hs h
      rw [← (hs.1 t).1] at hheld
      rw [if_pos e, if_pos ((hholds v).mpr e.symm), e]
      dsimp only
      omega
    · rw [if_neg e, if_neg fun h => e ((hholds v).mp h).symm]
  · rw [hidle] at hv; cases hv

theorem unbindTitle_locateLaw {a : Aud} {t : TitleNo} {s : State} (h : s.shows[a].title = some t) (hs : LocateLaw s) :
    LocateLaw (unbindTitle a s) := by
  obtain ⟨-, -, -, hcues, -⟩ := unbindTitle_held h
  refine (unbindTitle_showChange h).locateLaw (fun b v _ => by rw [hcues]) (fun v => .inl (trackOf_none ?_ v)) hs
  rw [unbindTitle_show h]

/-- In DARK an unresolved record is resolved (R127). -/
theorem resolve_unresolve {a : Aud} {s : State} {r : Receiver} (ha : r.aud = a) (h : s.shows[a].state = .dark) :
    resolve s r.unresolve = r.unresolve := by
  subst ha
  have htrack : ∀ k pref, resolveTrack s r.unresolve.aud k pref = none := fun k pref => resolveTrack_dark k pref h
  simp only [resolve, htrack]
  rfl

theorem darkenTaken_keepsTitleLaws {a : Aud} {s : State} (hs : ShowLaw s) (ha : s.shows[a].state ≠ .dark) :
    KeepsTitleLaws s (darkenTaken a s) := by
  have hready := darkenReady_cueFrame a s
  obtain ⟨t, ht⟩ := Option.ne_none_iff_exists'.mp (mt (hs.2.1 a).mpr ha)
  rw [← hready.held a] at ht
  have hchange := unbindTitle_showChange ht
  have hkeeps : KeepsTitleLaws s (unbindTitle a (darkenReady a s)) := by
    refine ⟨unbindTitle_showLaw (hready.showLaw hs) ht, fun hr i hi => ?_, fun _ _ he hl =>
      unbindTitle_locateLaw ht (hready.locateLaw hs he hl)⟩
    obtain ⟨-, -, -, -, hrcv⟩ := unbindTitle_held ht
    rw [hrcv, darkenReady_recs] at hi ⊢
    by_cases hcase : s.rcv.recs[i].bound = true ∧ s.rcv.recs[i].aud = a
    · rw [if_pos hcase]
      exact resolve_unresolve hcase.2 (by rw [unbindTitle_show ht])
    · rw [if_neg hcase] at hi ⊢
      rw [hchange.resolve fun e => hcase ⟨hi, e⟩, hready.resolve]
      exact hr i hi
  rw [darkenTaken_eq]
  exact hkeeps.showFrame (fun he => hchange.entryLaw (hready.entryLaw he)) ShowFrame.rfl'.suspendTest

theorem darken_keepsTitleLaws (r : Req) {s : State} (hs : ShowLaw s) : KeepsTitleLaws s (darken r s).1 := by
  unfold darken
  split
  · exact .rfl' hs
  · split
    · exact .rfl' hs
    · next ha => exact darkenTaken_keepsTitleLaws hs ha

end Sys2Proof.Machine
end

/-! The laws of titles, contexts, cursors, ways and resolved records through every command and every step: a reset gives
values that satisfy them, and every other command is within a frame above (R20, R46, R96, R100, R108, R128). -/
section
namespace Sys2Proof.Machine

open Sys2Proof.Safety

/-! ### Resets (R199, R212, R213) -/

/-- Every record FREE, every context DARK, no record BOUND, and no valid cursor or way (R24, R46, R66, R114, R138). -/
structure TitlesReset (s : State) : Prop where
  titles : s.titles.recs = TitleBlock.reset.recs
  shows : s.shows = fillTable 16 Context.reset
  cues : s.cues = CueBlock.reset
  rcv : s.rcv = ReceiverBlock.reset

theorem resetAll_titlesReset (s : State) : TitlesReset (resetAll s) := ⟨rfl, rfl, rfl, rfl⟩

theorem powerOn_titlesReset (s : State) : TitlesReset (powerOn s) := ⟨rfl, rfl, rfl, rfl⟩

section

variable {s : State}

theorem TitlesReset.title (h : TitlesReset s) (t : TitleNo) : s.title t = Title.free := by
  simp [State.title, h.titles, TitleBlock.reset]

theorem TitlesReset.context (h : TitlesReset s) (a : Aud) : s.shows[a] = Context.reset := by
  simp [h.shows]

theorem TitlesReset.way (h : TitlesReset s) (i : Fin 16) (w : Fin 4) : s.cues.sets[i].ways[w].valid = false := by
  simp [h.cues, CueBlock.reset, CacheSet.clear, Way.clear]

theorem TitlesReset.showLaw (h : TitlesReset s) : ShowLaw s := by
  refine ⟨fun t => ?_, fun a => ?_, (cacheLaw_iff s).mpr ⟨fun i w _ hw => ?_, fun i w hw => ?_⟩⟩
  · have hnone : holders s t = 0 := List.countP_eq_zero.mpr fun a _ => by simp [h.context a, Context.reset]
    rw [h.title t, hnone]
    exact ⟨rfl, fun hrefs => absurd rfl hrefs⟩
  · rw [h.context a]
    exact iff_of_true rfl rfl
  · rw [h.way i w] at hw; cases hw
  · rw [h.way i w] at hw; cases hw

theorem TitlesReset.resolveLaw (h : TitlesReset s) : ResolveLaw s := by
  intro i hi
  simp [h.rcv, ReceiverBlock.reset, Receiver.free] at hi

theorem TitlesReset.locateLaw (h : TitlesReset s) : LocateLaw s := by
  refine (locateLaw_iff s).mpr ⟨fun a v x hx _ => ?_, fun i w hw => ?_⟩
  · rw [trackOf_none (by rw [h.context a]; rfl)] at hx; cases hx
  · rw [h.way i w] at hw; cases hw

theorem TitlesReset.keepsTitleLaws (h : TitlesReset s) (u : State) : KeepsTitleLaws u s :=
  ⟨h.showLaw, fun _ => h.resolveLaw, fun _ _ _ _ => h.locateLaw⟩

end

/-! ### The step -/

theorem exec_keepsTitleLaws (i : Instr) {s : State} (hs : ShowLaw s) :
    ∃ t, exec i s = .next t ∧ KeepsTitleLaws s t := by
  by_cases hi : keepsTitles i = true
  · obtain ⟨t, hexec, ht⟩ := exec_showFrame hi s
    exact ⟨t, hexec, ht.keepsTitleLaws hs⟩
  have hlink : ∀ t l, KeepsTitleLaws s t → KeepsTitleLaws s { t with link := l } :=
    fun _ _ h => ⟨h.shows, h.resolved, h.located⟩
  have hstore : ∀ t b, KeepsTitleLaws s t → KeepsTitleLaws s { t with store := b } :=
    fun _ _ h => ⟨h.shows, h.resolved, h.located⟩
  have hreset : ∀ t, KeepsTitleLaws s (resetAll t) := fun t => (resetAll_titlesReset t).keepsTitleLaws s
  have hsame : KeepsTitleLaws s s := .rfl' hs
  cases i with
  | powerOn => exact ⟨_, rfl, (powerOn_titlesReset s).keepsTitleLaws s⟩
  | reset r => exact ⟨_, rfl, resetRequest_keeps hlink hreset r hsame⟩
  | resetTakesEffect => exact ⟨_, rfl, resetTakesEffect_keeps hlink hreset hsame⟩
  | programCompletion => exact ⟨_, rfl, programCompletion_keeps hlink hstore hreset hsame⟩
  | eraseCompletion => exact ⟨_, rfl, eraseCompletion_keeps hlink hstore hreset hsame⟩
  | loadIdleTimeout t => exact ⟨_, rfl, loadIdleTimeout_keepsTitleLaws t hs⟩
  | loadOpen r => exact ⟨_, rfl, request_keepsTitleLaws hs (loadOpen_keepsTitleLaws r hs) _ _⟩
  | loadData r => exact ⟨_, rfl, request_keepsTitleLaws hs (loadData_keepsTitleLaws r hs) _ _⟩
  | loadFinish r => exact ⟨_, rfl, request_keepsTitleLaws hs (loadFinish_keepsTitleLaws r hs) _ _⟩
  | finishingCompletion t => exact ⟨_, rfl, finishingCompletion_keepsTitleLaws t hs⟩
  | clipListOverflow t => exact ⟨_, rfl, clipListOverflow_keepsTitleLaws t hs⟩
  | loadAbort r => exact ⟨_, rfl, request_keepsTitleLaws hs (loadAbort_keepsTitleLaws r hs) _ _⟩
  | unload r => exact ⟨_, rfl, request_keepsTitleLaws hs (unload_keepsTitleLaws r hs) _ _⟩
  | arm r => exact ⟨_, rfl, request_keepsTitleLaws hs (arm_keepsTitleLaws r hs) _ _⟩
  | darken r => exact ⟨_, rfl, request_keepsTitleLaws hs (darken_keepsTitleLaws r hs) _ _⟩
  | _ => exact absurd rfl hi

/-- Settles O55: an idle step changes nothing, and the command at the front of the queue leaves the titles and contexts
as they are, changes one title that nothing names, binds or unbinds one context and its title, or is a reset. -/
theorem everyStepKeepsTheTitles : Obligations.EveryStepKeepsTheTitles := by
  intro s t hs hstep
  unfold step at hstep
  cases hq : s.pending with
  | nil =>
    rw [hq] at hstep
    cases hstep
    exact ⟨hs, id, fun _ _ _ => id⟩
  | cons i rest =>
    rw [hq] at hstep
    obtain ⟨u, hexec, hu⟩ := exec_keepsTitleLaws i (s := { s with pending := rest }) hs
    cases hexec.symm.trans hstep
    exact ⟨hu.shows, hu.resolved, hu.located⟩

end Sys2Proof.Machine
end

/-! The laws that read one block of the state, and what each shared operation keeps of them: every command that is no
reset keeps them all, block by block. -/
section
namespace Sys2Proof.Machine

open Sys2Proof.Safety

/-! ### The laws, block by block -/

/-- The bit rates of a port lie in their range (R202). -/
def PortLink.RatesIn (x : PortLink) : Prop :=
  (9600 ≤ x.bitRate ∧ x.bitRate ≤ 12000000) ∧ ∀ v, x.newRate = some v → 9600 ≤ v ∧ v ≤ 12000000

/-- The settings of a clock lie in their ranges (R86). -/
def AudClock.SettingsIn (c : AudClock) : Prop :=
  (1 ≤ c.jump ∧ c.jump ≤ 65535) ∧ (12 ≤ c.gain ∧ c.gain ≤ 20) ∧ 120 ≤ c.interval ∧ c.interval ≤ 12000

/-- The settings of an air port lie in their ranges (R159). -/
def AirParams.SettingsIn (x : AirParams) : Prop :=
  x.lead ≤ 2400 ∧ (512 ≤ x.capacity ∧ x.capacity ≤ 4096) ∧ (1 ≤ x.repeatPeriod ∧ x.repeatPeriod ≤ 64) ∧ x.window ≤ 1200

/-- Every bit rate lies in its range (R202). -/
def LinkBlock.RatesIn (l : LinkBlock) : Prop := ∀ p : Port, l.ports[portIx p].RatesIn

/-- Rings and pool are within their sizes (R163, R189). -/
def StreamBlock.Bounded (b : StreamBlock) : Prop :=
  (∀ i : StreamNo, b.entries[i].ring.length ≤ Config.ringSize) ∧ b.pool.length ≤ Config.poolSize

/-- No two BOUND records hold one id (R121). -/
def ReceiverBlock.UniqueIds (b : ReceiverBlock) : Prop :=
  ∀ i j : RecNo, b.recs[i].bound → b.recs[j].bound → b.recs[i].id = b.recs[j].id → i = j

/-- Each subscriber count is the number of records that contribute to it (R129). -/
def ReceiverBlock.Counted (b : ReceiverBlock) : Prop :=
  ∀ (a : Aud) (t : TrackNo), b.counts[a][t] = allRecs.countP fun i => b.recs[i].wants a t

/-- The law of the interlock on the Clip Storage Controller alone (R55, R187, R188). -/
def StoreBlock.Interlocked (b : StoreBlock) : Prop :=
  ∀ sector, b.op.targetSector = some sector → ∀ c : ClipNo, b.inUse[c] ≠ 0 → b.directory[c].inSector sector = false

/-- The clip directory is sound (R183). -/
def StoreBlock.Ordered (b : StoreBlock) : Prop :=
  (∀ c : ClipNo, if b.directory[c].defined = true then
      1 ≤ b.directory[c].length ∧ b.directory[c].length ≤ 4096 ∧ b.directory[c].first + b.directory[c].length ≤ 65536
    else b.directory[c] = ⟨false, 0, 0⟩) ∧
  ∀ (c d : ClipNo) (n : Nat), inExtent b.directory[c] n → inExtent b.directory[d] n → c = d

/-- A pending program holds 512 data bytes (R191). -/
def StoreBlock.HoldsPage (b : StoreBlock) : Prop :=
  ∀ st block data check, b.op = .program st block data check → data.length = 512

/-- What holds the flash agrees with the operation (R173, R189). -/
def StoreBlock.Agrees (b : StoreBlock) : Prop :=
  match b.use with
  | .idle => b.op = .none ∨ b.op.waiting
  | .fetch _ => b.op = .none ∨ b.op.waiting
  | .program => ∃ block data check, b.op = .program .inFlight block data check
  | .erase => ∃ sector, b.op = .erase .inFlight sector
  | .verify => ∃ clip first length read failed, b.op = .verify .inFlight clip first length read failed

theorem streamLaw_iff (s : State) : StreamLaw s ↔ s.stream.Bounded := Iff.rfl
theorem receiverLaw_iff (s : State) : ReceiverLaw s ↔ s.rcv.UniqueIds := Iff.rfl
theorem countLaw_iff (s : State) : CountLaw s ↔ s.rcv.Counted := Iff.rfl
theorem interlockLaw_iff (s : State) : InterlockLaw s ↔ s.store.Interlocked := Iff.rfl
theorem directoryLaw_iff (s : State) : DirectoryLaw s ↔ s.store.Ordered := Iff.rfl
theorem programLaw_iff (s : State) : ProgramLaw s ↔ s.store.HoldsPage := Iff.rfl
theorem flashLaw_iff (s : State) : FlashLaw s ↔ s.store.Agrees := Iff.rfl
theorem settingsLaw_iff (s : State) : SettingsLaw s ↔
    (5 ≤ s.loader.idleTime ∧ s.loader.idleTime ≤ 120) ∧ (10 ≤ s.rcv.keepAlive ∧ s.rcv.keepAlive ≤ 600) ∧
      (60 ≤ s.store.margin ∧ s.store.margin ≤ 2400) ∧ (∀ a : Aud, s.clock.auds[a].SettingsIn) ∧
      (∀ p : Fin 2, s.frame.air[p].SettingsIn) ∧ s.link.RatesIn := Iff.rfl

/-- An open load context's phase and port are those of the title it names (R25). -/
theorem loadLaw_iff (s : State) : LoadLaw s ↔ ∀ (p : LoadPort) (t : TitleNo),
    (s.loader.ctx[p] = .loading t → (s.title t).state = .loading ∧ (s.title t).loader = some p) ∧
      (s.loader.ctx[p] = .finishing t → (s.title t).state = .finishing ∧ (s.title t).loader = some p) := by
  refine ⟨fun h p t => ⟨fun hc => ?_, fun hc => ?_⟩, fun h p => ?_⟩
  · have hp := h p
    rw [hc] at hp
    exact hp
  · have hp := h p
    rw [hc] at hp
    exact hp
  · split
    · trivial
    · rename_i t hc
      exact (h p t).1 hc
    · rename_i t hc
      exact (h p t).2 hc

/-- Titles that keep their states and loader ports keep the law of load contexts. -/
theorem loadLaw_congr {s u : State} (hc : u.loader.ctx = s.loader.ctx)
    (ht : ∀ t, (u.title t).state = (s.title t).state ∧ (u.title t).loader = (s.title t).loader) (h : LoadLaw s) :
    LoadLaw u := by
  refine (loadLaw_iff u).mpr fun p t => ?_
  rw [hc, (ht t).1, (ht t).2]
  exact (loadLaw_iff s).mp h p t

/-! ### What a change keeps of each block -/

/-- A change of the Link Interface that keeps its laws. -/
structure LinkBlock.Keeps (l l' : LinkBlock) : Prop where
  attends : l.attends → l'.attends
  rates : l.RatesIn → l'.RatesIn

/-- A change of the Receiver Table that keeps its laws and leaves K in its range. -/
structure ReceiverBlock.Keeps (b b' : ReceiverBlock) : Prop where
  ids : b.UniqueIds → b'.UniqueIds
  counts : b.Counted → b'.Counted
  keepAlive : 10 ≤ b.keepAlive ∧ b.keepAlive ≤ 600 → 10 ≤ b'.keepAlive ∧ b'.keepAlive ≤ 600

/-- A change of the Clip Storage Controller that keeps its laws and writes nothing in the clip store. -/
structure StoreBlock.Keeps (b b' : StoreBlock) : Prop where
  flash : b'.flash = b.flash
  margin : 60 ≤ b.margin ∧ b.margin ≤ 2400 → 60 ≤ b'.margin ∧ b'.margin ≤ 2400
  interlock : b.Interlocked → b'.Interlocked
  directory : b.Ordered → b'.Ordered
  page : b.HoldsPage → b'.HoldsPage
  agrees : b.Agrees → b'.Agrees

/-- The laws under which the entries of the titles stay in order (R7, R11, R13, R15, R19). -/
def EntriesSound (s : State) : Prop := CueStoreLaw s ∧ LayoutLaw s ∧ EntryLaw s

/-- What a change that writes nothing in the clip store keeps of the laws that read one block, and of those that the
titles and their loads share; and that it leaves the queue. -/
structure KeepsLaws (s t : State) : Prop where
  link : s.link.Keeps t.link
  rcv : s.rcv.Keeps t.rcv
  clock : ∀ a : Aud, s.clock.auds[a].SettingsIn → t.clock.auds[a].SettingsIn
  air : ∀ p : Fin 2, s.frame.air[p].SettingsIn → t.frame.air[p].SettingsIn
  stream : s.stream.Bounded → t.stream.Bounded
  store : s.store.Keeps t.store
  idle : 5 ≤ s.loader.idleTime ∧ s.loader.idleTime ≤ 120 → 5 ≤ t.loader.idleTime ∧ t.loader.idleTime ≤ 120
  cue : Memory.wf cueEmpty s.titles.cue → Memory.wf cueEmpty t.titles.cue
  loads : LoadLaw s → LoadLaw t
  layout : LayoutLaw s → LayoutLaw t
  entries : EntriesSound s → EntriesSound t
  pending : t.pending = s.pending

/-- The same of a change that moves no port's receiver, as the effects of requests and events do. -/
structure KeepsBlocks (s t : State) : Prop extends KeepsLaws s t where
  rx : ∀ p, (t.port p).rx = (s.port p).rx

theorem LinkBlock.Keeps.rfl' {l : LinkBlock} : l.Keeps l := ⟨id, id⟩

theorem LinkBlock.Keeps.trans' {l l' l'' : LinkBlock} (h : l.Keeps l') (h' : l'.Keeps l'') : l.Keeps l'' :=
  ⟨h'.attends ∘ h.attends, h'.rates ∘ h.rates⟩

theorem ReceiverBlock.Keeps.rfl' {b : ReceiverBlock} : b.Keeps b := ⟨id, id, id⟩

theorem ReceiverBlock.Keeps.trans' {b c d : ReceiverBlock} (h : b.Keeps c) (h' : c.Keeps d) : b.Keeps d :=
  ⟨h'.ids ∘ h.ids, h'.counts ∘ h.counts, h'.keepAlive ∘ h.keepAlive⟩

theorem StoreBlock.Keeps.rfl' {b : StoreBlock} : b.Keeps b := ⟨rfl, id, id, id, id, id⟩

theorem StoreBlock.Keeps.trans' {b c d : StoreBlock} (h : b.Keeps c) (h' : c.Keeps d) : b.Keeps d :=
  ⟨h'.flash.trans h.flash, h'.margin ∘ h.margin, h'.interlock ∘ h.interlock, h'.directory ∘ h.directory,
    h'.page ∘ h.page, h'.agrees ∘ h.agrees⟩

theorem KeepsLaws.rfl' {s : State} : KeepsLaws s s :=
  ⟨.rfl', .rfl', fun _ => id, fun _ => id, id, .rfl', id, id, id, id, id, rfl⟩

theorem KeepsLaws.trans' {s t u : State} (h : KeepsLaws s t) (h' : KeepsLaws t u) : KeepsLaws s u :=
  ⟨h.link.trans' h'.link, h.rcv.trans' h'.rcv, fun a => h'.clock a ∘ h.clock a, fun p => h'.air p ∘ h.air p,
    h'.stream ∘ h.stream, h.store.trans' h'.store, h'.idle ∘ h.idle, h'.cue ∘ h.cue, h'.loads ∘ h.loads,
    h'.layout ∘ h.layout, h'.entries ∘ h.entries, h'.pending.trans h.pending⟩

theorem KeepsBlocks.rfl' {s : State} : KeepsBlocks s s := ⟨.rfl', fun _ => rfl⟩

theorem KeepsBlocks.trans' {s t u : State} (h : KeepsBlocks s t) (h' : KeepsBlocks t u) : KeepsBlocks s u :=
  ⟨h.toKeepsLaws.trans' h'.toKeepsLaws, fun p => (h'.rx p).trans (h.rx p)⟩

/-- The last of two changes first. -/
theorem KeepsBlocks.after {s t u : State} (h' : KeepsBlocks t u) (h : KeepsBlocks s t) : KeepsBlocks s u := h.trans' h'

theorem KeepsBlocks.foldl {α : Type} {f : State → α → State} (h : ∀ s x, KeepsBlocks s (f s x)) (l : List α)
    (s : State) : KeepsBlocks s (l.foldl f s) :=
  List.foldlRecOn l f (motive := KeepsBlocks s) .rfl' fun t ht x _ => ht.trans' (h t x)

/-- The laws of titles and loads read the title block and the loader alone. -/
theorem KeepsBlocks.of_titles {s t : State} (ht : t.titles = s.titles) (hl : t.loader = s.loader)
    (hq : t.pending = s.pending)
    (link : s.link.Keeps t.link) (rcv : s.rcv.Keeps t.rcv)
    (clock : ∀ a : Aud, s.clock.auds[a].SettingsIn → t.clock.auds[a].SettingsIn)
    (air : ∀ p : Fin 2, s.frame.air[p].SettingsIn → t.frame.air[p].SettingsIn)
    (stream : s.stream.Bounded → t.stream.Bounded) (store : s.store.Keeps t.store)
    (rx : ∀ p, (t.port p).rx = (s.port p).rx) : KeepsBlocks s t := by
  obtain ⟨link', titles', loader', shows', clock', cues', rcv', frame', stream', store', due', n', q'⟩ := t
  cases ht
  cases hl
  exact ⟨⟨link, rcv, clock, air, stream, store, id, id, id, id, id, hq⟩, rx⟩

/-! ### One block changed -/

theorem KeepsLaws.of_link {s : State} {l : LinkBlock} (h : s.link.Keeps l) : KeepsLaws s { s with link := l } :=
  { KeepsLaws.rfl' (s := s) with link := h }

/-- A latch changes flags and lines alone. -/
theorem LinkBlock.keeps_of_ports {l l' : LinkBlock} (hp : l'.ports = l.ports) (h : l.attends → l'.attends) : l.Keeps l' :=
  ⟨h, fun hl p => by rw [hp]; exact hl p⟩

theorem KeepsBlocks.of_flags {s : State} {l : LinkBlock} (hp : l.ports = s.link.ports) (h : s.link.attends → l.attends) :
    KeepsBlocks s { s with link := l } :=
  ⟨.of_link (LinkBlock.keeps_of_ports hp h), fun p => by unfold State.port; rw [hp]⟩

theorem KeepsBlocks.of_rcv {s : State} {b : ReceiverBlock} (h : s.rcv.Keeps b) : KeepsBlocks s { s with rcv := b } :=
  { KeepsBlocks.rfl' (s := s) with rcv := h }

theorem KeepsBlocks.of_stream {s : State} {b : StreamBlock} (h : s.stream.Bounded → b.Bounded) :
    KeepsBlocks s { s with stream := b } :=
  { KeepsBlocks.rfl' (s := s) with stream := h }

theorem KeepsBlocks.of_store {s : State} {b : StoreBlock} (h : s.store.Keeps b) : KeepsBlocks s { s with store := b } :=
  { KeepsBlocks.rfl' (s := s) with store := h }

theorem KeepsBlocks.of_frame {s : State} {b : FrameBlock}
    (h : ∀ p : Fin 2, s.frame.air[p].SettingsIn → b.air[p].SettingsIn) : KeepsBlocks s { s with frame := b } :=
  { KeepsBlocks.rfl' (s := s) with air := h }

theorem KeepsBlocks.of_cues (s : State) (c : CueBlock) : KeepsBlocks s { s with cues := c } :=
  { KeepsBlocks.rfl' (s := s) with }

theorem KeepsBlocks.of_shows (s : State) (v : Vector Context 16) : KeepsBlocks s { s with shows := v } :=
  { KeepsBlocks.rfl' (s := s) with }

theorem KeepsBlocks.of_due (s : State) (d : Due) : KeepsBlocks s { s with due := d } :=
  { KeepsBlocks.rfl' (s := s) with }

theorem setClock_keepsBlocks {s : State} {a : Aud} {c : AudClock} (h : s.clock.auds[a].SettingsIn → c.SettingsIn) :
    KeepsBlocks s (s.setClock a c) := by
  refine { KeepsBlocks.rfl' (s := s) with clock := fun b hb => ?_ }
  by_cases e : a = b
  · subst e
    simpa [State.setClock] using h hb
  · simpa [State.setClock, Fin.val_ne_of_ne e] using hb

/-- A clock that moves keeps its settings. -/
theorem setClock_keepsBlocks_of_same {s : State} {a : Aud} {c : AudClock}
    (hjump : c.jump = s.clock.auds[a].jump := by dsimp only) (hgain : c.gain = s.clock.auds[a].gain := by dsimp only)
    (hinterval : c.interval = s.clock.auds[a].interval := by dsimp only) :
    KeepsBlocks s (s.setClock a c) :=
  setClock_keepsBlocks fun h => by
    unfold AudClock.SettingsIn
    rw [hjump, hgain, hinterval]
    exact h

theorem setPort_keepsLaws {s : State} {p : Port} {x : PortLink} (h : (s.port p).RatesIn → x.RatesIn) :
    KeepsLaws s (s.setPort p x) := by
  refine .of_link ⟨(LinkBlock.attends_congr rfl rfl rfl rfl rfl).mpr, fun hl q => ?_⟩
  change ((s.setPort p x).port q).RatesIn
  rw [State.setPort_port]
  split
  · rename_i e
    exact h (e ▸ hl q)
  · exact hl q

theorem setPort_keepsBlocks {s : State} {p : Port} {x : PortLink} (h : (s.port p).RatesIn → x.RatesIn)
    (hrx : x.rx = (s.port p).rx) : KeepsBlocks s (s.setPort p x) := by
  refine ⟨setPort_keepsLaws h, fun q => ?_⟩
  rw [State.setPort_port]
  split
  · rename_i e
    rw [← e]
    exact hrx
  · rfl

theorem setRx_keepsLaws (s : State) (p : Port) (x : Rx) : KeepsLaws s (s.setRx p x) := setPort_keepsLaws id
theorem owe_keepsLaws (s : State) (p : Port) (x : Response) : KeepsLaws s (s.owe p x) := setRx_keepsLaws s p _
theorem linkError_keepsLaws (s : State) (p : Port) (x : Rx) : KeepsLaws s (s.linkError p x) := setPort_keepsLaws id

theorem owedByte_keepsLaws (s : State) (p : Port) : KeepsLaws s (s.owedByte p) := by
  unfold State.owedByte
  split
  · exact linkError_keepsLaws _ _ _
  all_goals exact .rfl'

theorem latchAud_keepsBlocks (s : State) (c : FeedCond) (a : Aud) : KeepsBlocks s (s.latchAud c a) := by
  unfold State.latchAud
  split
  · exact .of_flags rfl fun h => LinkBlock.latchFeed_attends h _ _ _
  · exact .rfl'

/-- A request keeps what its effect keeps. -/
theorem request_keepsLaws {act : State → State × Reply} {s : State} (hact : KeepsBlocks s (act s).1) (r : Req)
    (k : Byte) : KeepsLaws s (request r k act s) := by
  unfold request
  split
  · exact owedByte_keepsLaws _ _
  · split
    · exact linkError_keepsLaws _ _ _
    · split
      · exact owe_keepsLaws _ _ _
      · exact hact.toKeepsLaws.trans' (owe_keepsLaws _ _ _)

/-- A SET keeps what its storing keeps, whatever the value within the limits. -/
theorem setParam_keepsBlocks {store : Nat → Nat → State → Option State} {lo hi : Nat} (hlo : lo ≤ hi)
    (hstore : ∀ target v s u, lo ≤ v → v ≤ hi → store target v s = some u → KeepsBlocks s u) (r : Req) (s : State) :
    KeepsBlocks s (setParam lo hi store r s).1 := by
  unfold setParam
  dsimp only
  split
  · exact .rfl'
  · split
    · exact .rfl'
    · split
      · exact .rfl'
      · rename_i u hu
        exact hstore _ _ s u (Nat.le_max_left _ _) (Nat.max_le.mpr ⟨hlo, Nat.min_le_right _ _⟩) hu

/-! ### The suspension test (R193) -/

/-- A SUSPENDED erase is still pending on its sector, and leaves the flash idle. -/
theorem suspendTest_store_keeps (s : State) : s.store.Keeps (suspendTest s).store := by
  by_cases h : ∃ sector, s.store.op = .erase .inFlight sector ∧ urgent s = true ∧ s.link.resetTag = none
  · obtain ⟨sector, hop, hu, hr⟩ := h
    rw [suspendTest_suspends hop hu hr]
    refine ⟨rfl, id, fun hi n hn => hi n ?_, id, fun _ _ _ _ _ e => ?_, fun _ => Or.inr rfl⟩
    · rw [hop]
      exact hn
    · exact Maintenance.noConfusion e
  · rw [suspendTest_none]
    · exact .rfl'
    · by_contra hne
      simp only [not_or, not_forall, not_not, Bool.not_eq_false] at hne
      obtain ⟨⟨sector, hop⟩, hu, hr⟩ := hne
      exact h ⟨sector, hop, hu, hr⟩

theorem suspendTest_keepsBlocks (s : State) : KeepsBlocks s (suspendTest s) := by
  obtain ⟨b, h⟩ := suspendTest_eq s
  have hkeeps := suspendTest_store_keeps s
  rw [h] at hkeeps ⊢
  exact .of_store hkeeps

theorem KeepsBlocks.suspendTest {s t : State} (h : KeepsBlocks s t) : KeepsBlocks s (suspendTest t) :=
  h.trans' (suspendTest_keepsBlocks t)

/-! ### Streams (chapter 8) -/

theorem LinkBlock.DeniedFrom.linkKeeps {l l' : LinkBlock} (h : l.DeniedFrom l') : l.Keeps l' := by
  obtain ⟨hports, -, -, -, -, -, -, -, hattends⟩ := h.keeps
  exact LinkBlock.keeps_of_ports hports hattends

/-- A change of streams alone keeps the laws where it keeps rings and pool within their sizes. -/
theorem StreamFrame.keepsBlocks {s t : State} (h : StreamFrame s t) (hb : s.stream.Bounded → t.stream.Bounded) :
    KeepsBlocks s t :=
  .of_titles h.titles h.loader h.pending h.link.linkKeeps (h.rcv ▸ .rfl') (fun a => by rw [h.clock]; exact id)
    (fun p => by rw [h.frame]; exact id) hb (h.store ▸ .rfl') fun p => by unfold State.port; rw [h.link.keeps.1]

/-- One stream entry replaced by one whose ring has room. -/
theorem StreamBlock.Bounded.setEntry {b : StreamBlock} (h : b.Bounded) {i : StreamNo} {x : Stream}
    (hx : x.ring.length ≤ Config.ringSize) : (b.setEntry i x).Bounded := by
  refine ⟨fun j => ?_, h.2⟩
  by_cases e : i = j
  · subst e
    simpa [StreamBlock.setEntry] using hx
  · simpa [StreamBlock.setEntry, Fin.val_ne_of_ne e] using h.1 j

theorem fill_bounded (i : StreamNo) {s : State} (h : s.stream.Bounded) : (fill i s).stream.Bounded := by
  obtain ⟨b, hfill, hb⟩ := fill_spec i s
  rw [hfill]
  refine ⟨fun j => ?_, hb.poolSize h.2⟩
  by_cases e : j = i
  · exact e ▸ hb.ringSize (h.1 i)
  · rw [show b.entries[j] = s.stream.entries[j] from hb.others j e]
    exact h.1 j

theorem fill_keepsBlocks (i : StreamNo) (s : State) : KeepsBlocks s (fill i s) :=
  (fill_frame i s).keepsBlocks (fill_bounded i)

theorem startFill_keepsBlocks (i : StreamNo) (s : State) : KeepsBlocks s (startFill i s) := by
  refine (startFill_frame i s).keepsBlocks fun h => ?_
  unfold startFill
  dsimp only
  split
  · exact h
  · exact fill_bounded i (h.setEntry (h.1 i))

/-- A stream entry emptied and filled anew. -/
theorem startFill_emptied_keepsBlocks (i : StreamNo) (s : State) {x : Stream} (hx : x.ring = []) :
    KeepsBlocks s (startFill i { s with stream := s.stream.setEntry i x }) :=
  (KeepsBlocks.of_stream fun h => h.setEntry (by simp [hx])).trans' (startFill_keepsBlocks i _)

theorem refillTrack_keepsBlocks (a : Aud) (s : State) (v : TrackNo) : KeepsBlocks s (refillTrack a s v) := by
  unfold refillTrack
  split
  · exact startFill_emptied_keepsBlocks _ s rfl
  · exact .rfl'

theorem refillAud_keepsBlocks (a : Aud) (s : State) : KeepsBlocks s (refillAud a s) :=
  .foldl (refillTrack_keepsBlocks a) _ _

theorem allocateStream_keepsBlocks (i : StreamNo) (a : Aud) (v : TrackNo) (s : State) :
    KeepsBlocks s (allocateStream i a v s) :=
  startFill_emptied_keepsBlocks i s rfl

theorem requestStream_keepsBlocks (s : State) (p : Aud × TrackNo) : KeepsBlocks s (requestStream s p) := by
  unfold requestStream
  split
  · exact allocateStream_keepsBlocks _ _ _ _
  · exact StreamFrame.keepsBlocks ⟨⟨[p.1], rfl⟩, rfl, rfl, rfl, rfl, rfl, rfl, rfl, rfl, rfl, rfl⟩ id

theorem handOnEntry_keepsBlocks (i : StreamNo) (s : State) : KeepsBlocks s (handOnEntry i s) := by
  unfold handOnEntry
  split
  · exact (KeepsBlocks.of_stream (b := s.stream.mark _ _ false) id).trans' (allocateStream_keepsBlocks _ _ _ _)
  · exact .rfl'

theorem releaseStream_keepsBlocks (s : State) (p : Aud × TrackNo) : KeepsBlocks s (releaseStream s p) := by
  unfold releaseStream
  split
  · exact .of_stream id
  · split
    · exact (KeepsBlocks.of_stream fun h => h.setEntry (Nat.zero_le _)).trans' (handOnEntry_keepsBlocks _ _)
    · exact .rfl'

theorem handEdges_keepsBlocks (before : Vector (Vector Nat 8) 16) (s : State) : KeepsBlocks s (handEdges before s) :=
  (KeepsBlocks.foldl releaseStream_keepsBlocks _ s).trans' (.foldl requestStream_keepsBlocks _ _)

theorem grantRoom_keepsBlocks (n : Nat) (s : State) : KeepsBlocks s (grantRoom n s) := by
  induction n generalizing s with
  | zero => exact .rfl'
  | succ n ih =>
    unfold grantRoom
    split
    · exact .rfl'
    · split
      · exact (fill_keepsBlocks _ _).trans' (ih _)
      · exact .rfl'

/-! ### The clocks (chapter 4) -/

theorem clearCursors_keepsBlocks (s : State) (a : Aud) : KeepsBlocks s (s.clearCursors a) := .of_cues s _

theorem setShow_keepsBlocks (s : State) (a : Aud) (c : Context) : KeepsBlocks s (s.setShow a c) := .of_shows s _

theorem advanceAud_keepsBlocks (s : State) (a : Aud) : KeepsBlocks s (advanceAud s a) := by
  have hclock : KeepsBlocks s (s.setClock a { s.clock.auds[a] with pos := advancePos s.clock.auds[a] }) :=
    setClock_keepsBlocks_of_same
  unfold advanceAud
  dsimp only
  split
  · split
    · exact hclock.trans' (latchAud_keepsBlocks _ _ _)
    · exact hclock
  · exact .rfl'

theorem houseTick_keepsBlocks (s : State) : KeepsBlocks s (houseTick s) := by
  unfold houseTick
  refine (KeepsBlocks.after (.foldl advanceAud_keepsBlocks _ _) ?_).suspendTest
  exact { KeepsBlocks.rfl' (s := s) with }

theorem moveClock_keepsBlocks (a : Aud) (r : Nat) (s : State) : KeepsBlocks s (moveClock a r s) := by
  unfold moveClock
  refine (refillAud_keepsBlocks a _).after ?_
  refine (clearCursors_keepsBlocks _ a).after ?_
  exact setClock_keepsBlocks_of_same rfl rfl rfl

theorem modFrame_keepsBlocks (s : State) (a : Aud) (f : FrameAud → FrameAud) : KeepsBlocks s (s.modFrame a f) :=
  .of_frame fun _ => id

theorem stepClock_keepsBlocks (a : Aud) (r : Nat) (s : State) : KeepsBlocks s (stepClock a r s) := by
  unfold stepClock
  refine (latchAud_keepsBlocks _ _ _).after (.after setClock_keepsBlocks_of_same ?_)
  exact (modFrame_keepsBlocks _ a _).after (moveClock_keepsBlocks a r s)

theorem setShowState_keepsBlocks (s : State) (a : Aud) (x : ShowState) : KeepsBlocks s (s.setShowState a x) :=
  setShow_keepsBlocks s a _

theorem handleReport_keepsBlocks (a : Aud) (r : Nat) (s : State) : KeepsBlocks s (handleReport a r s) := by
  unfold handleReport
  dsimp only
  split
  · exact .rfl'
  · exact moveClock_keepsBlocks _ _ _
  · exact stepClock_keepsBlocks _ _ _
  · exact (setShowState_keepsBlocks s a _).trans' (stepClock_keepsBlocks _ _ _)
  · split
    · exact stepClock_keepsBlocks _ _ _
    · exact setClock_keepsBlocks_of_same rfl rfl rfl
  · split
    · exact (setShowState_keepsBlocks s a _).trans' (stepClock_keepsBlocks _ _ _)
    · exact (setShowState_keepsBlocks s a _).trans' (setClock_keepsBlocks_of_same rfl rfl rfl)

theorem clampReel_keepsBlocks (a : Aud) (s : State) : KeepsBlocks s (clampReel a s) := by
  unfold clampReel
  exact (latchAud_keepsBlocks _ _ _).after setClock_keepsBlocks_of_same

theorem positionTaken_keepsBlocks (a : Aud) (r : Nat) (clamped : Bool) (s : State) :
    KeepsBlocks s (positionTaken a r clamped s) := by
  unfold positionTaken clearSilence
  refine (KeepsBlocks.after setClock_keepsBlocks_of_same ?_).suspendTest
  refine (handleReport_keepsBlocks a r _).after ?_
  cases clamped
  · exact .rfl'
  · exact clampReel_keepsBlocks a s

theorem position_keepsBlocks (r : Req) (s : State) : KeepsBlocks s (position r s).1 := by
  unfold position
  split
  · exact .rfl'
  · exact positionTaken_keepsBlocks _ _ _ s

theorem silenceReached_keepsBlocks (a : Aud) (n : Nat) (s : State) : KeepsBlocks s (silenceReached a n s) := by
  have hstate : ∀ x c, KeepsBlocks s ((s.setShowState a x).latchAud c a) := fun x c =>
    (setShowState_keepsBlocks s a x).trans' (latchAud_keepsBlocks _ _ _)
  unfold silenceReached
  split
  · exact hstate _ _
  · split
    · exact (hstate _ _).trans' (refillAud_keepsBlocks a _)
    · exact .rfl'

theorem silenceBoundary_keepsBlocks (a : Aud) (s : State) : KeepsBlocks s (silenceBoundary a s) := by
  unfold silenceBoundary
  dsimp only
  split
  · split
    · refine ((silenceReached_keepsBlocks a _ _).after (.after setClock_keepsBlocks_of_same ?_)).suspendTest
      exact .of_due s _
    · exact .of_due s _
  · exact .rfl'

end Sys2Proof.Machine
end

/-! What a payload's composition can do to the state: any relation that its few steps have, it has (R144, R146). -/
section
namespace Sys2Proof.Machine

open Sys2Proof.Safety

/-- A preorder on states that has every step of a payload's composition: late positions leaving, a block taken, a section
skipped, a caption looked up, sent or repeated. -/
structure ComposeSteps (R : State → State → Prop) : Prop where
  refl : ∀ s, R s s
  trans : ∀ {s t u}, R s t → R t u → R s u
  late : ∀ k s v, R s (removeLateTrack k s v)
  take : ∀ k i p s, s.stream.entries[i].ring.head? = some p → R s (takePosition k i p s)
  skip : ∀ s p, R s (s.countDeferred p)
  look : ∀ s a v sair, R s { s with cues := (lookup s a v sair).2 }
  sent : ∀ k v x s, R s (markSent k v x s)
  again : ∀ k v s, R s (markRepeat k v s)

section

variable {R : State → State → Prop} (hR : ComposeSteps R)
include hR

theorem ComposeSteps.foldl {α β : Type} (get : β → State) {f : β → α → β} (h : ∀ b x, R (get b) (get (f b x)))
    (l : List α) (b : β) : R (get b) (get (l.foldl f b)) :=
  List.foldlRecOn l f (motive := fun d => R (get b) (get d)) (hR.refl _) fun d hd x _ => hR.trans hd (h d x)

theorem ComposeSteps.offer {k : PullContext} {x : Section} {placed : State → State} {c : Compose}
    (h : R c.state (placed c.state)) : R c.state (offer k x placed c).1.state := by
  unfold Machine.offer
  split
  · exact h
  · exact hR.skip _ _

theorem ComposeSteps.offerDue (k : PullContext) (v : TrackNo) (i : StreamNo) (c : Compose) :
    R c.state (offerDue k v i c).1.state := by
  unfold Machine.offerDue
  split
  · exact hR.refl _
  · rename_i p hp
    split
    · exact hR.offer (hR.take k i p _ hp)
    · exact hR.refl _

theorem ComposeSteps.offerFirst (k : PullContext) (acc : Compose × List TrackNo) (v : TrackNo) :
    R acc.1.state (offerFirst k acc v).1.state := by
  unfold Machine.offerFirst
  split
  · exact hR.offerDue _ _ _ _
  · split
    · exact hR.offer (hR.refl _)
    · exact hR.refl _

theorem ComposeSteps.offerSecond (k : PullContext) (c : Compose) (v : TrackNo) :
    R c.state (offerSecond k c v).state := by
  unfold Machine.offerSecond
  split
  · exact hR.offerDue _ _ _ _
  · exact hR.refl _

theorem ComposeSteps.composeAudio (k : PullContext) (tracks : List TrackNo) (c : Compose) :
    R c.state (composeAudio k tracks c).state := by
  have hlate := hR.foldl id (hR.late k) tracks c.state
  have hfirst := hR.foldl (fun q : Compose × List TrackNo => q.1.state) (hR.offerFirst k) tracks
    (({ c with state := tracks.foldl (removeLateTrack k) c.state } : Compose), [])
  exact hR.trans hlate (hR.trans hfirst (hR.foldl Compose.state (hR.offerSecond k) _ _))

theorem ComposeSteps.offerChanged (k : PullContext) (acc : Compose × List CaptionLook) (v : TrackNo) :
    R acc.1.state (offerChanged k acc v).1.state := by
  unfold Machine.offerChanged
  dsimp only
  split
  · exact hR.refl _
  · have hlook := hR.look acc.1.state k.aud v k.sair
    dsimp only
    split
    · refine hR.trans hlook ?_
      exact hR.offer (c := { acc.1 with state := { acc.1.state with cues := _ } }) (hR.sent _ _ _ _)
    · exact hlook

theorem ComposeSteps.offerRepeat (k : PullContext) (c : Compose) (l : CaptionLook) :
    R c.state (offerRepeat k c l).state := by
  unfold Machine.offerRepeat
  split
  · exact hR.refl _
  · exact hR.offer (hR.again _ _ _)

theorem ComposeSteps.composeCaptions (k : PullContext) (tracks : List TrackNo) (c : Compose) :
    R c.state (composeCaptions k tracks c).state :=
  hR.trans (hR.foldl (fun q : Compose × List CaptionLook => q.1.state) (hR.offerChanged k) tracks (c, []))
    (hR.foldl Compose.state (hR.offerRepeat k) _ _)

/-- The composition of a payload has the relation (R144). -/
theorem ComposeSteps.composeSections (k : PullContext) (x : ShowState) (audio captions : List TrackNo) (c : Compose) :
    R c.state (composeSections k x audio captions c).state := by
  cases x with
  | dark | armed => exact hR.refl _
  | running | freewheel => exact hR.trans (hR.composeAudio _ _ _) (hR.composeCaptions _ _ _)
  | held => exact hR.composeCaptions _ _ _
  | lost => exact hR.foldl Compose.state (fun d v => hR.offer (hR.sent _ _ _ _)) captions c

end

end Sys2Proof.Machine
end

/-! What the commands that change no title keep of the laws that read one block: payloads, receivers, shows, the clip
store, ports and settings. -/
section
namespace Sys2Proof.Machine

open Sys2Proof.Safety

/-! ### Payloads (chapter 7) -/

theorem modAir_keepsBlocks {s : State} {p : Fin 2} {f : AirParams → AirParams}
    (h : s.frame.air[p].SettingsIn → (f s.frame.air[p]).SettingsIn) :
    KeepsBlocks s { s with frame := { s.frame with air := modAt s.frame.air p f } } := by
  refine .of_frame fun q hq => ?_
  by_cases e : p = q
  · subst e
    simpa using h hq
  · simpa [Fin.val_ne_of_ne e] using hq

/-- A ring that loses positions stays within its size. -/
theorem fill_shortened_keepsBlocks (i : StreamNo) {s : State} {b : StreamBlock} (h : s.stream.Bounded → b.Bounded) :
    KeepsBlocks s (fill i { s with stream := b }) :=
  (fill_keepsBlocks i _).after (.of_stream h)

theorem keepsBlocks_composeSteps : ComposeSteps KeepsBlocks where
  refl _ := .rfl'
  trans := .trans'
  late k s v := by
    unfold removeLateTrack
    split
    · unfold removeLate
      dsimp only
      split
      · exact .rfl'
      · refine fill_shortened_keepsBlocks _ fun h => ?_
        exact h.setEntry (by simpa using (Nat.sub_le _ _).trans (h.1 _))
    · exact .rfl'
  take k i p s _ := by
    unfold takePosition
    refine fill_shortened_keepsBlocks _ fun h => ?_
    have hpop : (s.stream.pop i).Bounded := h.setEntry (by simpa using (Nat.sub_le _ _).trans (h.1 i))
    split
    · exact hpop
    · exact hpop
  skip _ _ := modAir_keepsBlocks id
  look s _ _ _ := .of_cues s _
  sent _ _ _ s := modFrame_keepsBlocks s _ _
  again _ _ _ := (modAir_keepsBlocks id).after (modFrame_keepsBlocks _ _ _)

theorem pullTaken_keepsBlocks (p : Fin 2) (a : Aud) (s : State) : KeepsBlocks s (pullTaken p a s).1 := by
  unfold pullTaken
  refine KeepsBlocks.suspendTest ?_
  exact (keepsBlocks_composeSteps.composeSections _ _ _ _ _).after (modFrame_keepsBlocks s _ _)

theorem pull_keepsBlocks (r : Req) (s : State) : KeepsBlocks s (pull r s).1 := by
  unfold pull
  cases r.port with
  | feed _ | m => exact .rfl'
  | air p =>
    dsimp only [pullOn]
    split
    · exact .rfl'
    · split
      · exact .rfl'
      · split
        · exact .rfl'
        · exact pullTaken_keepsBlocks _ _ s

/-! ### Receivers (chapter 6) -/

/-- A record is replaced by one whose id no other BOUND record holds. -/
theorem putRec_keepsBlocks {s : State} {i : RecNo} {new : Receiver}
    (h : s.rcv.UniqueIds → new.bound = true → ∀ j, j ≠ i → s.rcv.recs[j].bound = true → s.rcv.recs[j].id ≠ new.id) :
    KeepsBlocks s (s.putRec i new) := by
  refine .of_rcv ⟨fun hids j k hj hk e => ?_, fun hc => putRec_countLaw (s := s) hc i new, id⟩
  have hrec := putRec_recs s i new
  change (s.putRec i new).rcv.recs[j].bound = true at hj
  change (s.putRec i new).rcv.recs[k].bound = true at hk
  change (s.putRec i new).rcv.recs[j].id = (s.putRec i new).rcv.recs[k].id at e
  rw [hrec] at hj hk e
  rw [hrec] at e
  have hother := h hids
  split at hj <;> split at hk
  · rename_i h1 h2; exact h1.symm.trans h2
  · rename_i h1 h2
    rw [if_pos h1, if_neg h2] at e
    exact absurd e.symm (hother hj k (fun x => h2 x.symm) hk)
  · rename_i h1 h2
    rw [if_neg h1, if_pos h2] at e
    exact absurd e (hother hk j (fun x => h1 x.symm) hj)
  · rename_i h1 h2
    rw [if_neg h1, if_neg h2] at e
    exact hids j k hj hk e

/-- A record changed in other fields than its state and id. -/
theorem putRec_keepsBlocks_of_same {s : State} {i : RecNo} {new : Receiver} (hb : new.bound = s.rcv.recs[i].bound)
    (hid : new.id = s.rcv.recs[i].id) : KeepsBlocks s (s.putRec i new) :=
  putRec_keepsBlocks fun hids hnew j hj hjb e => hj (hids j i hjb (hb ▸ hnew) (e.trans hid))

theorem changeRec_keepsBlocks {s : State} {i : RecNo} {new : Receiver} (h : KeepsBlocks s (s.putRec i new)) :
    KeepsBlocks s (changeRec i new s) :=
  (handEdges_keepsBlocks _ _).after h

theorem reresolveAud_keepsBlocks (a : Aud) (s : State) : KeepsBlocks s (reresolveAud a s) := by
  refine .foldl (fun u i => ?_) _ _
  unfold reresolve
  dsimp only
  split
  · exact putRec_keepsBlocks_of_same rfl rfl
  · exact .rfl'

/-- A record of the auditorium made unresolved contributes to no count; the others to the counts they did (R61). -/
theorem unresolve_wants (r : Receiver) (a b : Aud) (v : TrackNo) :
    (if r.bound && r.aud == a then r.unresolve else r).wants b v = (if a = b then false else r.wants b v) := by
  unfold Receiver.wants Receiver.unresolve
  by_cases hr : (r.bound && r.aud == a) = true
  · rw [if_pos hr]
    simp only [Bool.and_eq_true, beq_iff_eq] at hr
    by_cases hb : a = b
    · simp [hb]
    · simp [hr.1, hr.2, hb]
  · rw [if_neg hr]
    by_cases hb : a = b
    · subst hb
      simp only [Bool.not_eq_true] at hr
      simp [hr]
    · simp [hb]

theorem unresolveAud_rec (a : Aud) (s : State) (i : RecNo) : (unresolveAud a s).rcv.recs[i] =
    if s.rcv.recs[i].bound && s.rcv.recs[i].aud == a then s.rcv.recs[i].unresolve else s.rcv.recs[i] := by
  simp [unresolveAud]

theorem unresolveAud_count (a : Aud) (s : State) (b : Aud) (v : TrackNo) :
    (unresolveAud a s).rcv.counts[b][v] = if a = b then 0 else s.rcv.counts[b][v] := by
  by_cases e : a = b
  · subst e
    simp [unresolveAud]
  · simp [unresolveAud, e, Fin.val_ne_of_ne e]

theorem unresolveAud_uniqueIds (a : Aud) {s : State} (h : s.rcv.UniqueIds) : (unresolveAud a s).rcv.UniqueIds := by
  intro i j hi hj e
  rw [unresolveAud_rec] at hi hj e
  rw [unresolveAud_rec] at e
  refine h i j ?_ ?_ ?_
  · split at hi <;> exact hi
  · split at hj <;> exact hj
  · split at e <;> split at e <;> exact e

theorem unresolveAud_counted (a : Aud) {s : State} (h : s.rcv.Counted) : (unresolveAud a s).rcv.Counted := by
  intro b v
  have hwants : ∀ i : RecNo, (unresolveAud a s).rcv.recs[i].wants b v =
      (if a = b then false else s.rcv.recs[i].wants b v) := fun i =>
    (congrArg (·.wants b v) (unresolveAud_rec a s i)).trans (unresolve_wants _ a b v)
  rw [funext hwants, unresolveAud_count]
  by_cases e : a = b
  · simp [e]
  · simpa [e] using h b v

theorem unresolveAud_keepsBlocks (a : Aud) (s : State) : KeepsBlocks s (unresolveAud a s) := by
  have hkeeps : s.rcv.Keeps (unresolveAud a s).rcv :=
    ⟨unresolveAud_uniqueIds a, unresolveAud_counted a, by simp only [unresolveAud]; exact id⟩
  exact .of_rcv hkeeps

theorem itemHello_keepsBlocks (p : Fin 2) (it : Item) (s : State) : KeepsBlocks s (itemHello p it s).1 := by
  unfold itemHello
  split
  · exact .rfl'
  split
  · exact .rfl'
  split
  · exact .rfl'
  split
  · exact changeRec_keepsBlocks (putRec_keepsBlocks_of_same rfl rfl)
  rename_i hnone
  split
  · refine changeRec_keepsBlocks (putRec_keepsBlocks fun _ _ j _ hj => ?_)
    exact findId_none.mp hnone j hj
  · exact { KeepsBlocks.rfl' (s := s) with
      link := LinkBlock.keeps_of_ports rfl fun h => LinkBlock.latchTableFull_attends h _ _
      rcv := ⟨id, id, id⟩ }

theorem itemChoose_keepsBlocks (p : Fin 2) (it : Item) (s : State) : KeepsBlocks s (itemChoose p it s).1 := by
  unfold itemChoose
  split
  · exact .rfl'
  split
  · split
    · exact .rfl'
    · exact changeRec_keepsBlocks (putRec_keepsBlocks_of_same rfl rfl)
  · exact .rfl'

/-- A record heard again keeps what the laws read of it (R125). -/
theorem heard_keepsBlocks (s : State) (i : RecNo) (n : BitVec 32) :
    KeepsBlocks s { s with rcv := { s.rcv with recs := setAt s.rcv.recs i { s.rcv.recs[i] with lastHeard := n } } } := by
  have hrec : ∀ j : RecNo, ∃ m, (setAt s.rcv.recs i { s.rcv.recs[i] with lastHeard := n })[j] =
      { s.rcv.recs[j] with lastHeard := m } := fun j => by
    by_cases e : i = j
    · subst e
      exact ⟨n, setAt_self _ _ _⟩
    · exact ⟨_, setAt_other _ _ e⟩
  refine .of_rcv ⟨fun hids j k hj hk e => ?_, fun hc b v => (hc b v).trans ?_, id⟩
  · obtain ⟨m, hm⟩ := hrec j
    obtain ⟨m', hm'⟩ := hrec k
    dsimp only at hj hk e
    rw [hm] at hj e
    rw [hm'] at hk e
    exact hids j k hj hk e
  · refine List.countP_congr fun j _ => ?_
    obtain ⟨m, hm⟩ := hrec j
    dsimp only
    rw [hm]
    rfl

theorem itemAlive_keepsBlocks (p : Fin 2) (it : Item) (s : State) : KeepsBlocks s (itemAlive p it s).1 := by
  unfold itemAlive
  split
  · exact .rfl'
  split
  · exact .rfl'
  · exact heard_keepsBlocks s _ _

theorem freeRec_keepsBlocks (s : State) (i : RecNo) : KeepsBlocks s (s.putRec i Receiver.free) :=
  putRec_keepsBlocks fun _ hb => Bool.noConfusion hb

theorem itemBye_keepsBlocks (p : Fin 2) (it : Item) (s : State) : KeepsBlocks s (itemBye p it s).1 := by
  unfold itemBye
  split
  · exact .rfl'
  split
  · exact .rfl'
  · exact changeRec_keepsBlocks (freeRec_keepsBlocks s _)

theorem takeItems_keepsBlocks (p : Fin 2) (its : List Item) (s : State) : KeepsBlocks s (takeItems p its s).1 := by
  induction its generalizing s with
  | nil => exact .rfl'
  | cons it rest ih =>
    refine (ih _).after ?_
    unfold takeItem
    split
    · exact .rfl'
    · exact itemHello_keepsBlocks p it s
    · exact itemChoose_keepsBlocks p it s
    · exact itemAlive_keepsBlocks p it s
    · exact itemBye_keepsBlocks p it s

theorem report_keepsBlocks (r : Req) (s : State) : KeepsBlocks s (report r s).1 := by
  unfold report
  cases r.port with
  | feed _ | m => exact .rfl'
  | air p =>
    dsimp only [reportOn]
    split
    · exact .rfl'
    · split
      · exact .rfl'
      · exact (takeItems_keepsBlocks p _ s).suspendTest

theorem houseSecondBoundary_keepsBlocks (s : State) : KeepsBlocks s (houseSecondBoundary s) := by
  unfold houseSecondBoundary
  split
  · exact { KeepsBlocks.rfl' (s := s) with rcv := ⟨id, id, id⟩ }
  · exact .rfl'

theorem expireRec_keepsBlocks (k : Nat) (s : State) (i : RecNo) : KeepsBlocks s (expireRec k s i) := by
  unfold expireRec
  dsimp only
  split
  · split
    · refine KeepsBlocks.after ?_ (freeRec_keepsBlocks s i)
      exact { KeepsBlocks.rfl' (s := s.putRec i Receiver.free) with
        link := LinkBlock.keeps_of_ports rfl fun h => LinkBlock.latchExpired_attends h _ _
        rcv := ⟨id, id, id⟩ }
    · exact freeRec_keepsBlocks s i
  · exact .rfl'

theorem keepAliveExpiry_keepsBlocks (s : State) : KeepsBlocks s (keepAliveExpiry s) := by
  unfold keepAliveExpiry
  split
  · exact .rfl'
  · refine ((handEdges_keepsBlocks _ _).after ?_).suspendTest
    exact (KeepsBlocks.foldl (expireRec_keepsBlocks _) _ _).after (.of_due s _)

end Sys2Proof.Machine
end

/-! What the commands of shows, of the clip store, of the ports and of the settings keep of the laws that read one block. -/
section
namespace Sys2Proof.Machine

open Sys2Proof.Safety

/-! ### In-use counts (R65) -/

/-- The in-use count of a clip is changed once for each time the list names it. -/
theorem countClips_get (f : Nat → Nat) (clips : List Nat) (v : Vector Nat 1024) (c : ClipNo) :
    (countClips f clips v)[c] = f^[clips.count c.val] v[c] := by
  unfold countClips
  induction clips generalizing v with
  | nil => rfl
  | cons d ds ih =>
    rw [List.foldl_cons, ih]
    by_cases hd : d = c.val
    · subst hd
      simp only [c.isLt, dite_true, List.count_cons_self, Function.iterate_succ_apply]
      simp
    · have hne : ds.count c.val = (d :: ds).count c.val := by rw [List.count_cons_of_ne hd]
      rw [← hne]
      congr 1
      split
      · simp [hd]
      · rfl

theorem countClips_succ (clips : List Nat) (v : Vector Nat 1024) (c : ClipNo) :
    (countClips (· + 1) clips v)[c] = v[c] + clips.count c.val := by
  rw [countClips_get]
  exact Nat.succ_iterate _ _

theorem countClips_pred (clips : List Nat) (v : Vector Nat 1024) (c : ClipNo) :
    (countClips (· - 1) clips v)[c] = v[c] - clips.count c.val := by
  rw [countClips_get]
  exact Nat.pred_iterate _ _

/-- In-use counts raised for clips that conflict with nothing keep the interlock (R55). -/
theorem bindClips_keeps {s : State} {clips : List Nat} (h : armConflict s clips = false) :
    s.store.Keeps { s.store with inUse := countClips (· + 1) clips s.store.inUse } := by
  refine ⟨rfl, id, fun hi sector hs c hc => ?_, id, id, id⟩
  dsimp only at hc hs ⊢
  rw [countClips_succ] at hc
  by_cases hold : s.store.inUse[c] = 0
  · have hmem : c.val ∈ clips := List.count_pos_iff.mp (by omega)
    unfold armConflict at h
    rw [hs] at h
    have := List.any_eq_false.mp h c.val hmem
    simpa [clipEntry] using this
  · exact hi sector hs c hold

/-- In-use counts lowered keep the interlock. -/
theorem unbindClips_keeps (b : StoreBlock) (clips : List Nat) :
    b.Keeps { b with inUse := countClips (· - 1) clips b.inUse } := by
  refine ⟨rfl, id, fun hi sector hs c hc => hi sector hs c ?_, id, id, id⟩
  dsimp only at hc
  rw [countClips_pred] at hc
  omega

/-! ### Reference counts (R56, R61) -/

/-- A reference count changed leaves the laws of titles and loads. -/
theorem refs_keepsBlocks (s : State) (t : TitleNo) (n : Nat) :
    KeepsBlocks s (s.setTitle t { s.title t with refs := n }) := by
  have htitle : ∀ v, ∃ m, (s.setTitle t { s.title t with refs := n }).title v = { s.title v with refs := m } := fun v => by
    rw [title_of_setAt rfl]
    split
    · rename_i e; exact ⟨n, by rw [e]⟩
    · exact ⟨_, rfl⟩
  have hlayout : LayoutLaw s → LayoutLaw (s.setTitle t { s.title t with refs := n }) := fun h v hv => by
    obtain ⟨m, hm⟩ := htitle v
    rw [hm] at hv ⊢
    exact h v hv
  refine { KeepsBlocks.rfl' (s := s) with loads := fun h => ?_, layout := hlayout, entries := fun h => ?_ }
  · refine loadLaw_congr (s := s) rfl (fun v => ?_) h
    obtain ⟨m, hm⟩ := htitle v
    rw [hm]
    exact ⟨rfl, rfl⟩
  · obtain ⟨hcue, hlay, hentry⟩ := h
    refine ⟨RetouchesTitle.cueStoreLaw (t := t) ⟨⟨_, rfl, Iff.rfl, rfl, rfl⟩, rfl⟩ hcue, hlayout hlay, ?_⟩
    have hchange : ShowChange 0 t s (s.setTitle t { s.title t with refs := n }) :=
      ⟨⟨n, rfl⟩, rfl, ⟨s.shows[(0 : Aud)], (setAt_same _ _).symm⟩, rfl⟩
    exact hchange.entryLaw hentry

/-! ### Shows (chapter 3) -/

theorem clearFrame_keepsBlocks (s : State) (a : Aud) : KeepsBlocks s (s.clearFrame a) := .of_frame fun _ => id

theorem bindTitle_keepsBlocks {a : Aud} {t : TitleNo} {s : State} (h : armConflict s (s.title t).clips = false) :
    KeepsBlocks s (bindTitle a t s) := by
  have hrefs : KeepsBlocks s
      ((s.setShow a { s.shows[a] with state := .armed, title := some t }).setTitle t
        { s.title t with refs := (s.title t).refs + 1 }) :=
    (refs_keepsBlocks _ t _).after (setShow_keepsBlocks s a _)
  exact hrefs.trans' (.of_store (bindClips_keeps h))

theorem AudClock.fresh_settingsIn {c : AudClock} (h : c.SettingsIn) : c.fresh.SettingsIn := h

theorem freshStart_keepsBlocks (a : Aud) (s : State) :
    KeepsBlocks s (((s.setClock a s.clock.auds[a].fresh).clearCursors a).clearFrame a) :=
  (clearFrame_keepsBlocks _ a).after
    ((clearCursors_keepsBlocks _ a).after (setClock_keepsBlocks AudClock.fresh_settingsIn))

theorem armTaken_keepsBlocks {a : Aud} {t : TitleNo} {s : State} (h : armConflict s (s.title t).clips = false) :
    KeepsBlocks s (armTaken a t s) := by
  have hbound : KeepsBlocks s (armBound a t s) := (freshStart_keepsBlocks a (bindTitle a t s)).after (bindTitle_keepsBlocks h)
  rw [armTaken_eq]
  exact ((handEdges_keepsBlocks _ _).after ((reresolveAud_keepsBlocks a _).after hbound)).suspendTest

theorem arm_keepsBlocks (r : Req) (s : State) : KeepsBlocks s (arm r s).1 := by
  unfold arm
  split
  · exact .rfl'
  split
  · exact .rfl'
  split
  · exact .rfl'
  split
  · exact .rfl'
  split
  · exact .rfl'
  split
  · exact .rfl'
  · rename_i h
    rw [Bool.not_eq_true] at h
    dsimp only
    exact armTaken_keepsBlocks h

theorem run_keepsBlocks (r : Req) (s : State) : KeepsBlocks s (run r s).1 := by
  have hstart : ∀ a, KeepsBlocks s (startClock a s) := fun a => by
    unfold startClock
    exact .after (setClock_keepsBlocks_of_same rfl rfl rfl) (setShow_keepsBlocks s a _)
  unfold run
  split
  · exact .rfl'
  · split
    case h_4 | h_5 | h_6 => exact .rfl'
    all_goals exact hstart _

theorem hold_keepsBlocks (r : Req) (s : State) : KeepsBlocks s (hold r s).1 := by
  unfold hold
  split
  · exact .rfl'
  · split
    case h_4 | h_5 | h_6 => exact .rfl'
    all_goals exact setShow_keepsBlocks s _ _

theorem unbindTitle_keepsBlocks (a : Aud) (s : State) : KeepsBlocks s (unbindTitle a s) := by
  unfold unbindTitle
  refine (setShow_keepsBlocks _ a _).after ?_
  split
  · exact KeepsBlocks.after (.of_store (unbindClips_keeps _ _)) (refs_keepsBlocks s _ _)
  · exact .rfl'

theorem darken_keepsBlocks (r : Req) (s : State) : KeepsBlocks s (darken r s).1 := by
  unfold darken
  split
  · exact .rfl'
  split
  · exact .rfl'
  rename_i a _ _
  unfold darkenTaken
  refine ((unbindTitle_keepsBlocks a _).after ((clearFrame_keepsBlocks _ a).after ?_)).suspendTest
  exact (clearCursors_keepsBlocks _ a).after ((handEdges_keepsBlocks _ _).after (unresolveAud_keepsBlocks a s))

theorem assignFeed_keepsBlocks (r : Req) (s : State) : KeepsBlocks s (assignFeed r s).1 := by
  unfold assignFeed
  split
  · exact .rfl'
  · split
    · exact setShow_keepsBlocks s _ _
    · exact .rfl'

theorem assignAir_keepsBlocks (r : Req) (s : State) : KeepsBlocks s (assignAir r s).1 := by
  unfold assignAir
  split
  · exact .rfl'
  · split
    · split
      · exact .rfl'
      · exact ((clearFrame_keepsBlocks _ _).after (setShow_keepsBlocks s _ _)).suspendTest
    · exact .rfl'

/-! ### The position cache (chapter 5) -/

theorem cacheProbe_keepsBlocks (r : Req) (s : State) : KeepsBlocks s (cacheProbe r s).1 := by
  unfold cacheProbe
  dsimp only
  split
  · exact .rfl'
  · split <;> exact .rfl'

theorem cacheFlush_keepsBlocks (r : Req) (s : State) : KeepsBlocks s (cacheFlush r s).1 := by
  unfold cacheFlush
  split
  · exact .rfl'
  · exact .of_cues s _

/-! ### The clip directory and protection (R183 to R187) -/

/-- A directory entry replaced, of a clip that is not in use, by one that is sound and clear of the others. -/
theorem setClip_keeps {b : StoreBlock} {c : ClipNo} {x : ClipEntry} (huse : b.inUse[c] = 0)
    (hx : if x.defined = true then 1 ≤ x.length ∧ x.length ≤ 4096 ∧ x.first + x.length ≤ 65536 else x = ⟨false, 0, 0⟩)
    (hclear : ∀ d : ClipNo, d ≠ c → ∀ n, inExtent x n → ¬inExtent b.directory[d] n) :
    b.Keeps { b with directory := setAt b.directory c x } := by
  have hother : ∀ d : ClipNo, d ≠ c → (setAt b.directory c x)[d] = b.directory[d] := fun d hd => setAt_other _ _ hd.symm
  refine ⟨rfl, id, fun hi sector hs d hd => ?_, fun hdir => ⟨fun d => ?_, fun d e n hd he => ?_⟩, id, id⟩
  · dsimp only at hd ⊢
    by_cases e : d = c
    · exact absurd (e ▸ huse) hd
    · rw [hother d e]; exact hi sector hs d hd
  · dsimp only
    by_cases e : d = c
    · subst e
      rw [setAt_self]; exact hx
    · rw [hother d e]; exact hdir.1 d
  · dsimp only at hd he
    by_cases h1 : d = c <;> by_cases h2 : e = c
    · exact h1.trans h2.symm
    · subst h1
      rw [setAt_self] at hd
      rw [hother e h2] at he
      exact absurd he (hclear e h2 n hd)
    · subst h2
      rw [setAt_self] at he
      rw [hother d h1] at hd
      exact absurd hd (hclear d h1 n he)
    · rw [hother d h1] at hd
      rw [hother e h2] at he
      exact hdir.2 d e n hd he

@[simp] theorem mem_allClips (c : ClipNo) : c ∈ allClips := List.mem_ofFn.mpr ⟨c, rfl⟩

/-- Extents that share a block overlap (R184). -/
theorem overlaps_of_inExtent {first length n : Nat} {d : ClipEntry} (h1 : first ≤ n) (h2 : n < first + length)
    (hd : inExtent d n) : overlaps first length d = true := by
  obtain ⟨hdef, h3, h4⟩ := hd
  simp only [overlaps, hdef, Bool.true_and, Bool.and_eq_true, decide_eq_true_eq]
  omega

theorem clipDefine_keepsBlocks (r : Req) (s : State) : KeepsBlocks s (clipDefine r s).1 := by
  unfold clipDefine
  dsimp only
  split
  · exact .rfl'
  split
  · exact .rfl'
  split
  · exact .rfl'
  rename_i c _ hrange
  split
  · exact .rfl'
  rename_i huse
  split
  · exact .rfl'
  rename_i hany
  refine .of_store (setClip_keeps (not_not.mp huse) ?_ fun d hd n hn hdn => ?_)
  · simp only [Bool.or_eq_true, decide_eq_true_eq, not_or] at hrange
    rw [if_pos rfl]
    dsimp only
    omega
  · refine hany (List.any_eq_true.mpr ⟨d, mem_allClips d, ?_⟩)
    rw [Bool.and_eq_true, bne_iff_ne]
    exact ⟨hd, overlaps_of_inExtent hn.2.1 hn.2.2 hdn⟩

theorem clipDelete_keepsBlocks (r : Req) (s : State) : KeepsBlocks s (clipDelete r s).1 := by
  unfold clipDelete
  split
  · exact .rfl'
  split
  · exact .rfl'
  split
  · exact .rfl'
  · rename_i huse
    exact .of_store (setClip_keeps (not_not.mp huse) rfl fun _ _ _ hn => Bool.noConfusion hn.1)

theorem clipProtect_keepsBlocks (r : Req) (s : State) : KeepsBlocks s (clipProtect r s).1 := by
  unfold clipProtect
  dsimp only
  split
  · exact .rfl'
  · exact .of_store ⟨rfl, id, id, id, id, id⟩

theorem setLatch_keepsBlocks (s : State) (x : Bool) : KeepsBlocks s (s.setLatch x) :=
  .of_store ⟨rfl, id, id, id, id, id⟩

theorem clipWriteEnable_keepsBlocks (r : Req) (s : State) : KeepsBlocks s (clipWriteEnable r s).1 := by
  unfold clipWriteEnable
  split
  · exact .rfl'
  · exact setLatch_keepsBlocks s true

/-! ### Maintenance (R191 to R196) -/

/-- An operation accepted while none is pending, on a sector that is not protected. -/
theorem setOp_keepsBlocks {s : State} {op : Maintenance} (hnone : s.store.op = .none) (hwaits : op.waiting = true)
    (hsector : ∀ sector, op.targetSector = some sector → isProtected s sector = false)
    (hpage : ∀ st block data check, op = .program st block data check → data.length = 512) :
    KeepsBlocks s (s.setOp op) := by
  refine .of_store ⟨rfl, id, fun _ sector hs c hc => ?_, id, fun _ => hpage, fun h => ?_⟩
  · have hfree := hsector sector hs
    simp only [isProtected, Bool.or_eq_false_iff, List.any_eq_false] at hfree
    have := hfree.2 c (mem_allClips c)
    simp only [bne_iff_ne.mpr hc, Bool.true_and] at this
    simpa using this
  · unfold StoreBlock.Agrees at h ⊢
    rw [hnone] at h
    dsimp only
    split at h
    all_goals simp_all

theorem clipProgram_keepsBlocks (r : Req) (s : State) : KeepsBlocks s (clipProgram r s).1 := by
  have hlatch := setLatch_keepsBlocks s false
  unfold clipProgram
  dsimp only
  split
  · exact hlatch
  rename_i hlen
  split
  · exact hlatch
  split
  · exact hlatch
  rename_i hprot
  split
  · exact hlatch
  rename_i hop
  refine hlatch.trans' (setOp_keepsBlocks (not_not.mp hop) rfl (fun sector hs => ?_) fun st block data check e => ?_)
  · cases hs
    exact Bool.not_eq_true _ ▸ hprot
  · cases e
    rw [List.length_drop, not_not.mp hlen]

theorem clipErase_keepsBlocks (r : Req) (s : State) : KeepsBlocks s (clipErase r s).1 := by
  have hlatch := setLatch_keepsBlocks s false
  unfold clipErase
  dsimp only
  split
  · exact hlatch
  split
  · exact hlatch
  split
  · exact hlatch
  split
  · exact hlatch
  rename_i hprot
  split
  · exact hlatch
  rename_i hop
  refine hlatch.trans' (setOp_keepsBlocks (not_not.mp hop) rfl (fun sector hs => ?_) fun _ _ _ _ e => ?_)
  · cases hs
    exact Bool.not_eq_true _ ▸ hprot
  · exact Maintenance.noConfusion e

theorem clipVerify_keepsBlocks (r : Req) (s : State) : KeepsBlocks s (clipVerify r s).1 := by
  unfold clipVerify
  split
  · exact .rfl'
  split
  · exact .rfl'
  dsimp only
  split
  · exact .rfl'
  split
  · exact .rfl'
  rename_i hop
  exact setOp_keepsBlocks (not_not.mp hop) rfl (fun _ hs => (nomatch hs)) fun _ _ _ _ e => Maintenance.noConfusion e

theorem startTurn_keepsBlocks (s : State) : KeepsBlocks s (startTurn s) := by
  unfold startTurn
  split
  · exact .rfl'
  · rename_i st block data check hop
    refine .of_store ⟨rfl, id, fun hi n hn => hi n ?_, id, fun hp st' b d c e => ?_, fun _ => ⟨_, _, _, rfl⟩⟩
    · rw [hop]; exact hn
    · cases e
      exact hp st block data check hop
  · rename_i st sector hop
    refine .of_store ⟨rfl, id, fun hi n hn => hi n ?_, id, fun _ _ _ _ _ e => Maintenance.noConfusion e,
      fun _ => ⟨_, rfl⟩⟩
    rw [hop]; exact hn
  · exact .of_store ⟨rfl, id, fun _ _ hn => (nomatch hn), id, fun _ _ _ _ _ e => Maintenance.noConfusion e,
      fun _ => ⟨_, _, _, _, _, rfl⟩⟩

/-- A fetch starts at an idle flash (R173, R174). -/
theorem startFetch_keepsBlocks (r : FetchRecord) {s : State} (h : s.store.use = .idle) :
    KeepsBlocks s (startFetch r s) := by
  unfold startFetch
  refine (grantRoom_keepsBlocks 24 _).after ?_
  refine KeepsBlocks.after (.of_stream fun hb => ⟨hb.1, (List.length_erase_le).trans hb.2⟩) ?_
  refine .of_store ⟨rfl, id, id, id, id, fun ha => ?_⟩
  unfold StoreBlock.Agrees at ha
  rw [h] at ha
  exact ha

theorem arbiterChoice_keepsBlocks (s : State) : KeepsBlocks s (arbiterChoice s) := by
  unfold arbiterChoice
  split
  · rename_i hidle
    split
    · exact startTurn_keepsBlocks s
    · split
      · exact (startFetch_keepsBlocks _ hidle).suspendTest
      · exact .rfl'
  · exact .rfl'

theorem fillPosition_length (r : FetchRecord) (x : RingState) (l : List RingPos) : (fillPosition r x l).length = l.length := by
  induction l with
  | nil => rfl
  | cons p ps ih =>
    unfold fillPosition
    split
    · rfl
    · simp [ih]

theorem completeFetch_bounded (r : FetchRecord) {s : State} (h : s.stream.Bounded) : (completeFetch s r).Bounded := by
  have hring := h.1 r.stream
  unfold completeFetch
  dsimp only
  split
  · exact h.setEntry hring
  · split
    · exact h.setEntry (by simpa [fillPosition_length] using hring)
    · exact StreamBlock.Bounded.setEntry h (by simpa [fillPosition_length] using hring)

theorem fetchCompletion_keepsBlocks (s : State) : KeepsBlocks s (fetchCompletion s) := by
  unfold fetchCompletion
  split
  · rename_i r huse
    refine { KeepsBlocks.rfl' (s := s) with
      stream := completeFetch_bounded r
      store := ⟨rfl, id, id, id, id, fun h => ?_⟩ }
    unfold StoreBlock.Agrees at h
    rw [huse] at h
    exact h
  all_goals exact .rfl'

theorem verifyTurnCompletion_keepsBlocks (s : State) : KeepsBlocks s (verifyTurnCompletion s) := by
  unfold verifyTurnCompletion
  split
  · dsimp only
    split
    · exact .of_store ⟨rfl, id, fun _ _ hn => (nomatch hn), id, fun _ _ _ _ _ e => Maintenance.noConfusion e,
        fun _ => Or.inr rfl⟩
    · exact { KeepsBlocks.rfl' (s := s) with
        link := LinkBlock.keeps_of_ports rfl fun h => LinkBlock.latchVerifyDone_attends h _ _
        store := ⟨rfl, id, fun _ _ hn => (nomatch hn), id, fun _ _ _ _ _ e => Maintenance.noConfusion e,
          fun _ => Or.inl rfl⟩ }
  · exact .rfl'

/-! ### Ports (chapter 10) -/

theorem frameCheckFail_keepsLaws (p : Port) (s : State) : KeepsLaws s (frameCheckFail p s) := by
  unfold frameCheckFail
  split
  · exact owedByte_keepsLaws s p
  · exact linkError_keepsLaws s p _

theorem frameLengthDiscard_keepsLaws (p : Port) (s : State) : KeepsLaws s (frameLengthDiscard p s) := by
  unfold frameLengthDiscard
  split
  · exact owedByte_keepsLaws s p
  · exact linkError_keepsLaws s p _

theorem discardPartial_keepsLaws (p : Port) (s : State) : KeepsLaws s (discardPartial p s) := by
  unfold discardPartial
  split
  · exact linkError_keepsLaws s p _
  all_goals exact .rfl'

theorem unknownRequest_keepsLaws (p : Port) (kind tag : Byte) (s : State) :
    KeepsLaws s (unknownRequest p kind tag s) := by
  unfold unknownRequest
  split
  · exact owedByte_keepsLaws s p
  · split
    · exact .rfl'
    · exact owe_keepsLaws s p _

theorem responseSent_keepsLaws (p : Port) (s : State) : KeepsLaws s (responseSent p s) := by
  unfold responseSent
  split
  · exact setRx_keepsLaws s p _
  all_goals exact .rfl'

theorem syncByte_keepsLaws (p : Port) (s : State) : KeepsLaws s (syncByte p s) := by
  unfold syncByte
  split
  · exact setRx_keepsLaws s p _
  · exact .rfl'
  · exact owedByte_keepsLaws s p

theorem sense_keepsBlocks (r : Req) (s : State) : KeepsBlocks s (sense r s).1 := by
  unfold sense
  dsimp only
  split
  · exact .rfl'
  split
  · exact .rfl'
  split
  · exact .of_flags (LinkBlock.clearFlags_ports _ _) fun h => LinkBlock.clearFlags_attends h _
  · exact .rfl'

theorem clearStats_keepsBlocks (s : State) : KeepsBlocks s (clearStats s) := by
  refine .of_titles rfl rfl rfl ⟨(LinkBlock.attends_congr rfl rfl rfl rfl rfl).mpr, fun h p => ?_⟩ ⟨id, id, id⟩
    (fun a h => ?_) (fun p h => ?_) id ⟨rfl, id, id, id, id, id⟩
    fun p => ?_
  · have hp := h p
    simpa [clearStats, PortLink.RatesIn] using hp
  · simpa [clearStats, AudClock.SettingsIn] using h
  · simpa [clearStats, AirParams.SettingsIn] using h
  · simp [clearStats, State.port]

theorem stats_keepsBlocks (r : Req) (s : State) : KeepsBlocks s (stats r s).1 := by
  unfold stats
  dsimp only
  split
  · exact .rfl'
  split
  · exact .rfl'
  split
  · exact clearStats_keepsBlocks s
  · exact .rfl'

theorem tableRead_keepsBlocks (r : Req) (s : State) : KeepsBlocks s (tableRead r s).1 := by
  unfold tableRead
  dsimp only
  split
  · exact .rfl'
  split
  · exact .rfl'
  · dsimp only
    split
    · exact { KeepsBlocks.rfl' (s := s) with }
    · exact .rfl'

theorem bitRateChangeApplies_keepsBlocks (p : Port) (s : State) : KeepsBlocks s (bitRateChangeApplies p s) := by
  unfold bitRateChangeApplies
  dsimp only
  split
  · rename_i v hv
    split
    · exact setPort_keepsBlocks (fun h => ⟨h.2 v hv, fun _ e => (nomatch e)⟩) rfl
    · exact .rfl'
  · exact .rfl'

/-! ### Settings (R207) -/

theorem setClockParam_keepsBlocks {f : AudClock → Nat → AudClock} {lo hi : Nat}
    (hf : ∀ c v, lo ≤ v → v ≤ hi → c.SettingsIn → (f c v).SettingsIn) (target v : Nat) (s u : State) (hlo : lo ≤ v)
    (hhi : v ≤ hi) (h : setClockParam f target v s = some u) : KeepsBlocks s u := by
  obtain ⟨a, -, rfl⟩ := Option.map_eq_some_iff.mp h
  exact setClock_keepsBlocks (hf _ v hlo hhi)

theorem setAirParam_keepsBlocks {f : AirParams → Nat → AirParams} {lo hi : Nat}
    (hf : ∀ x v, lo ≤ v → v ≤ hi → x.SettingsIn → (f x v).SettingsIn) (target v : Nat) (s u : State) (hlo : lo ≤ v)
    (hhi : v ≤ hi) (h : setAirParam f target v s = some u) : KeepsBlocks s u := by
  obtain ⟨p, -, rfl⟩ := Option.map_eq_some_iff.mp h
  exact modAir_keepsBlocks (hf _ v hlo hhi)

theorem storeLoadIdleTime_keepsBlocks (target v : Nat) (s u : State) (hlo : 5 ≤ v) (hhi : v ≤ 120)
    (h : storeLoadIdleTime target v s = some u) : KeepsBlocks s u := by
  cases h
  exact { KeepsBlocks.rfl' (s := s) with idle := fun _ => ⟨hlo, hhi⟩ }

theorem storeKeepAlive_keepsBlocks (target v : Nat) (s u : State) (hlo : 10 ≤ v) (hhi : v ≤ 600)
    (h : storeKeepAlive target v s = some u) : KeepsBlocks s u := by
  cases h
  exact .of_rcv ⟨id, id, fun _ => ⟨hlo, hhi⟩⟩

theorem storeMargin_keepsBlocks (target v : Nat) (s u : State) (hlo : 60 ≤ v) (hhi : v ≤ 2400)
    (h : storeMargin target v s = some u) : KeepsBlocks s u := by
  cases h
  exact KeepsBlocks.suspendTest (.of_store (b := { s.store with margin := v }) ⟨rfl, fun _ => ⟨hlo, hhi⟩, id, id, id, id⟩)

theorem storeLead_keepsBlocks (target v : Nat) (s u : State) (hlo : 0 ≤ v) (hhi : v ≤ 2400)
    (h : storeLead target v s = some u) : KeepsBlocks s u := by
  obtain ⟨w, hw, rfl⟩ := Option.map_eq_some_iff.mp h
  refine (setAirParam_keepsBlocks (lo := 0) (hi := 2400) (fun x n _ hn hx => ?_) target v s w hlo hhi hw).suspendTest
  exact ⟨hn, hx.2⟩

theorem storeBitRate_keepsBlocks (target v : Nat) (s u : State) (hlo : 9600 ≤ v) (hhi : v ≤ 12000000)
    (h : storeBitRate target v s = some u) : KeepsBlocks s u := by
  obtain ⟨p, -, rfl⟩ := Option.map_eq_some_iff.mp h
  refine setPort_keepsBlocks (fun hx => ⟨hx.1, fun w hw => ?_⟩) rfl
  cases hw
  exact ⟨hlo, hhi⟩

end Sys2Proof.Machine
end

/-! Where the parts of a title lie in the cue store, and what reads there after an entry is stored or the anchors are
written (R5, R7, R10, R11, R13, R15). -/
section
namespace Sys2Proof.Machine

open Sys2Proof.Safety

/-! ### Fields of slots -/

/-- A field within a run of bytes is the run of its own bytes. -/
theorem field_readRun {d : Byte} {m : List Host.Cell} {a n i k : Nat} (h : i + k ≤ n) :
    field (Memory.readRun d m a n) i k = leVal (Memory.readRun d m (a + i) k) := by
  unfold field
  congr 1
  refine List.ext_getElem (by simp; omega) fun j h1 h2 => ?_
  simp only [List.getElem_take, List.getElem_drop, Memory.readRun_get]
  rw [Nat.add_assoc]

theorem entryStart_eq (m : List Host.Cell) (x : Title) (tr : Track) (i : Nat) :
    entryStart m x tr i = leVal (Memory.readRun cueEmpty m (entrySlot x tr i * 16) 3) :=
  field_readRun (by simp [Config.slotBytes])

theorem entryDur_eq (m : List Host.Cell) (x : Title) (tr : Track) (i : Nat) :
    entryDur m x tr i = leVal (Memory.readRun cueEmpty m (entrySlot x tr i * 16 + 3) 2) :=
  field_readRun (by simp [Config.slotBytes])

theorem entryDur_lt (m : List Host.Cell) (x : Title) (tr : Track) (i : Nat) : entryDur m x tr i < 65536 := by
  have h := leVal_lt (Memory.readRun cueEmpty m (entrySlot x tr i * 16 + 3) 2)
  rw [Memory.readRun_length] at h
  rw [entryDur_eq]
  exact h

/-- A slot reads as before where each of its bytes does. -/
theorem slotAt_congr {m m' : List Host.Cell} {n : Nat}
    (h : ∀ a, n * 16 ≤ a → a < n * 16 + 16 → Memory.read cueEmpty m' a = Memory.read cueEmpty m a) :
    slotAt m' n = slotAt m n :=
  Memory.readRun_congr _ _ h

theorem slotAt_write_self {m : List Host.Cell} {n : Nat} {bs : List Byte} (h : bs.length = 16) :
    slotAt (Memory.write cueEmpty m (n * 16) bs) n = bs := by
  have hrun := Memory.readRun_write cueEmpty m (n * 16) bs
  rw [h] at hrun
  exact hrun

/-! ### The areas of the tracks (R5, R15) -/

/-- Prefix sums of a list rise past each element. -/
theorem sum_take_succ_le {α : Type} (f : α → Nat) {l : List α} {i j : Nat} {x : α} (h : l[i]? = some x) (hij : i < j) :
    ((l.take i).map f).sum + f x ≤ ((l.take j).map f).sum := by
  have htake : (l.take j)[i]? = some x := by rw [List.getElem?_take, if_pos hij, h]
  have hle := sum_take_add_le f htake
  rwa [List.take_take, min_eq_left hij.le] at hle

section
variable {x : Title} {i j : Nat} {tr ur : Track}

/-- The entry areas of the tracks lie one after the other. -/
theorem entryArea_le (h : laidOut x) (hi : x.tracks[i]? = some tr) (hj : x.tracks[j]? = some ur) (hij : i < j) :
    tr.entryBase + tr.nDecl ≤ ur.entryBase := by
  obtain ⟨-, -, -, htracks⟩ := h
  rw [(htracks i tr hi).1, (htracks j ur hj).1]
  exact sum_take_succ_le (·.nDecl) hi hij

/-- The anchor areas of the tracks lie one after the other. -/
theorem anchorArea_le (h : laidOut x) (hi : x.tracks[i]? = some tr) (hj : x.tracks[j]? = some ur) (hij : i < j) :
    tr.anchorBase + ceilDiv tr.nDecl 32 ≤ ur.anchorBase := by
  obtain ⟨-, -, -, htracks⟩ := h
  have hle := sum_take_succ_le (fun u : Track => ceilDiv u.nDecl Config.anchorSpan) hi hij
  rw [(htracks i tr hi).2.1, (htracks j ur hj).2.1]
  simp only [Config.anchorSpan] at hle ⊢
  omega

/-- The entry areas lie before the text pool. -/
theorem entryArea_le_entries (h : laidOut x) (hi : x.tracks[i]? = some tr) : tr.entryBase + tr.nDecl ≤ x.entries :=
  (fits_of_laidOut h).entries tr (List.mem_of_getElem? hi)

/-- The anchor areas lie behind the text pool. -/
theorem pool_le_anchorArea (h : laidOut x) (hi : x.tracks[i]? = some tr) :
    x.entries + ceilDiv x.textBytes 16 ≤ tr.anchorBase := by
  obtain ⟨-, -, -, htracks⟩ := h
  rw [(htracks i tr hi).2.1]
  exact Nat.le_add_right _ _

/-- Declared entries of the title in one slot are the same entry. -/
theorem entrySlot_inj (h : laidOut x) (hi : x.tracks[i]? = some tr) (hj : x.tracks[j]? = some ur) {k l : Nat}
    (hk : k < tr.nDecl) (hl : l < ur.nDecl) (e : entrySlot x tr k = entrySlot x ur l) : i = j ∧ k = l := by
  unfold entrySlot at e
  rcases lt_trichotomy i j with hij | rfl | hij
  · have := entryArea_le h hi hj hij; omega
  · rw [hi] at hj
    cases hj
    exact ⟨rfl, by omega⟩
  · have := entryArea_le h hj hi hij; omega

end

/-! ### A stored entry (R11, R32) -/

/-- The cue store with an entry's bytes in its slot, the entry before it shortened. -/
def storedCue (m : List Host.Cell) (x : Title) (tr : Track) (start : Nat) (bytes : List Byte) : List Host.Cell :=
  Memory.write cueEmpty (shortenLast m x tr start) (entrySlot x tr tr.n * 16) bytes

section
variable {m : List Host.Cell} {x : Title} {tr : Track} {start : Nat} {bytes : List Byte}

/-- Shortening writes the two duration bytes of the last entry alone. -/
theorem read_shortenLast {a : Nat}
    (h : ¬(1 ≤ tr.n ∧ entrySlot x tr (tr.n - 1) * 16 + 3 ≤ a ∧ a < entrySlot x tr (tr.n - 1) * 16 + 5)) :
    Memory.read cueEmpty (shortenLast m x tr start) a = Memory.read cueEmpty m a := by
  unfold shortenLast
  dsimp only
  split
  · rfl
  · refine Memory.read_write_outside ?_
    simp only [le_length, Config.slotBytes]
    omega

/-- An entry stored changes its slot and the duration bytes of the entry before it, and no other byte. -/
theorem read_storedCue (hb : bytes.length = 16) {a : Nat}
    (hslot : ¬(entrySlot x tr tr.n * 16 ≤ a ∧ a < entrySlot x tr tr.n * 16 + 16))
    (hdur : ¬(1 ≤ tr.n ∧ entrySlot x tr (tr.n - 1) * 16 + 3 ≤ a ∧ a < entrySlot x tr (tr.n - 1) * 16 + 5)) :
    Memory.read cueEmpty (storedCue m x tr start bytes) a = Memory.read cueEmpty m a := by
  unfold storedCue
  rw [Memory.read_write_outside (by omega), read_shortenLast hdur]

theorem slotAt_storedCue_self (hb : bytes.length = 16) :
    slotAt (storedCue m x tr start bytes) (entrySlot x tr tr.n) = bytes := slotAt_write_self hb

theorem slotAt_storedCue_other (hb : bytes.length = 16) {n : Nat} (h1 : n ≠ entrySlot x tr tr.n)
    (h2 : 1 ≤ tr.n → n ≠ entrySlot x tr (tr.n - 1)) :
    slotAt (storedCue m x tr start bytes) n = slotAt m n :=
  slotAt_congr fun a ha ha' => read_storedCue hb (by omega) (by omega)

/-- The entry before the new one keeps its start. -/
theorem entryStart_storedCue_last (hb : bytes.length = 16) (hn : 1 ≤ tr.n) :
    entryStart (storedCue m x tr start bytes) x tr (tr.n - 1) = entryStart m x tr (tr.n - 1) := by
  rw [entryStart_eq, entryStart_eq]
  congr 1
  refine Memory.readRun_congr _ _ fun a ha ha' => read_storedCue hb ?_ ?_ <;> unfold entrySlot at * <;> omega

/-- The entry before the new one is cut to the gap between their starts (R11). -/
theorem entryDur_storedCue_last (hb : bytes.length = 16) (hn : 1 ≤ tr.n) :
    entryDur (storedCue m x tr start bytes) x tr (tr.n - 1) =
      min (entryDur m x tr (tr.n - 1)) (start - entryStart m x tr (tr.n - 1)) := by
  have hlt := entryDur_lt m x tr (tr.n - 1)
  generalize hv : min (entryDur m x tr (tr.n - 1)) (start - entryStart m x tr (tr.n - 1)) = v
  have hshort : shortenLast m x tr start =
      Memory.write cueEmpty m (entrySlot x tr (tr.n - 1) * 16 + 3) (le 2 v) := by
    unfold shortenLast
    rw [if_neg (by omega)]
    simp only [hv, Config.slotBytes]
  have hrun := Memory.readRun_write cueEmpty m (entrySlot x tr (tr.n - 1) * 16 + 3) (le 2 v)
  rw [le_length] at hrun
  have hread : Memory.readRun cueEmpty (storedCue m x tr start bytes) (entrySlot x tr (tr.n - 1) * 16 + 3) 2 = le 2 v := by
    rw [← hrun]
    refine Memory.readRun_congr _ _ fun a ha ha' => ?_
    unfold storedCue
    rw [Memory.read_write_outside (by unfold entrySlot at *; omega), hshort]
  rw [entryDur_eq, hread, leVal_le]
  exact Nat.mod_eq_of_lt (by omega)

end

end Sys2Proof.Machine
end

/-! The order of entries and the layout of titles through the commands of loading (R7, R11, R13 to R15, R25). -/
section
namespace Sys2Proof.Machine

open Sys2Proof.Safety

/-! ### The laws title by title -/

/-- The layout of one title and its clip list (R14, R15). -/
def Title.Laid (x : Title) : Prop := laidOut x ∧ x.clips.Pairwise (· < ·) ∧ x.clips.length ≤ 256

/-- The entries of one title lie in order, and the anchors of a READY one hold their starts (R7, R11, R13). -/
def Title.InOrder (m : List Host.Cell) (x : Title) : Prop :=
  ∀ (i : Nat) (tr : Track), x.tracks[i]? = some tr →
    (∀ j k, j < k → k < tr.n → entryEnd m x tr j ≤ entryStart m x tr k) ∧
      (x.state = .ready → TrackSound m ⟨x, tr⟩)

theorem layoutLaw_iff (s : State) : LayoutLaw s ↔ ∀ t, (s.title t).state ≠ .free → (s.title t).Laid := Iff.rfl

theorem entryLaw_iff (s : State) :
    EntryLaw s ↔ ∀ t, (s.title t).state ≠ .free → (s.title t).InOrder s.titles.cue :=
  ⟨fun h t ht i tr htr => h t i tr ht htr, fun h t i tr ht htr => h t ht i tr htr⟩

/-- Entries stay in order where the slots of entries and anchors read as before. -/
theorem Title.InOrder.congr {m m' : List Host.Cell} {x : Title} (hx : x.Laid) (h : x.InOrder m)
    (hread : ∀ n, holdsSlot x.base x.count n = true → slotAt m' n = slotAt m n) : x.InOrder m' := by
  have hfits := fits_of_laidOut hx.1
  have hslot : ∀ tr ∈ x.tracks, ∀ j, j < tr.n → slotAt m' (entrySlot x tr j) = slotAt m (entrySlot x tr j) :=
    fun tr htr j hj => hread _ (hfits.holds_entry htr (hj.trans_le (hfits.received tr htr)))
  intro i tr htr
  obtain ⟨horder, hsound⟩ := h i tr htr
  have hmem := List.mem_of_getElem? htr
  have hstart : ∀ j, j < tr.n → entryStart m' x tr j = entryStart m x tr j := fun j hj => by
    unfold entryStart; rw [hslot tr hmem j hj]
  have hordered : ∀ j k, j < k → k < tr.n → entryEnd m' x tr j ≤ entryStart m' x tr k := fun j k hjk hk => by
    have hend : entryEnd m' x tr j = entryEnd m x tr j := by
      unfold entryEnd entryDur
      rw [hstart j (hjk.trans hk), hslot tr hmem j (hjk.trans hk)]
    rw [hend, hstart k hk]
    exact horder j k hjk hk
  refine ⟨hordered, fun hready => ⟨hordered, (hsound hready).2.1, fun k hk => ?_⟩⟩
  obtain ⟨-, hcount, hanchors⟩ := hsound hready
  have hreceived := hfits.received tr hmem
  have hanchor : holdsSlot x.base x.count (x.base + tr.anchorBase + k) = true := by
    have hle := hfits.anchors tr hmem
    dsimp only at hk hcount
    rw [holdsSlot_iff]
    simp only [ceilDiv, Config.anchorSpan] at hle hcount
    omega
  have hread' := hread _ hanchor
  dsimp only at hk hcount ⊢
  have hn : 32 * k < tr.n := by simp only [ceilDiv] at hcount; omega
  unfold anchorAt
  rw [hstart _ hn, hread']
  exact hanchors k hk

/-- A change of record `t` that writes the cue store nowhere in the region of another title. -/
structure TitleChange (t : TitleNo) (s u : State) : Prop where
  others : ∀ v, v ≠ t → u.title v = s.title v
  laid : LayoutLaw s → (u.title t).state ≠ .free → (u.title t).Laid
  cueStore : CueStoreLaw s → CueStoreLaw u
  apart : CueStoreLaw s → LayoutLaw s → ∀ v, v ≠ t → (s.title v).state ≠ .free → ∀ n,
    holdsSlot (s.title v).base (s.title v).count n = true → slotAt u.titles.cue n = slotAt s.titles.cue n
  ordered : EntriesSound s → (u.title t).state ≠ .free → (u.title t).InOrder u.titles.cue

theorem TitleChange.layoutLaw {t : TitleNo} {s u : State} (h : TitleChange t s u) (hs : LayoutLaw s) : LayoutLaw u := by
  intro v hv
  by_cases e : v = t
  · subst e
    exact h.laid hs hv
  · rw [h.others v e] at hv ⊢
    exact hs v hv

theorem TitleChange.entriesSound {t : TitleNo} {s u : State} (h : TitleChange t s u) (hs : EntriesSound s) :
    EntriesSound u := by
  obtain ⟨hcue, hlay, hentry⟩ := hs
  refine ⟨h.cueStore hcue, h.layoutLaw hlay, (entryLaw_iff u).mpr fun v hv => ?_⟩
  by_cases e : v = t
  · subst e
    exact h.ordered ⟨hcue, hlay, hentry⟩ hv
  · have hfree := h.others v e
    rw [hfree] at hv ⊢
    exact ((entryLaw_iff s).mp hentry v hv).congr (hlay v hv) (h.apart hcue hlay v e hv)

/-- A change of titles and loads alone. -/
theorem KeepsBlocks.of_titleChange {t : TitleNo} {s : State} {tb : TitleBlock} {ld : LoaderBlock}
    (hidle : ld.idleTime = s.loader.idleTime)
    (hwf : Memory.wf cueEmpty s.titles.cue → Memory.wf cueEmpty tb.cue)
    (hloads : LoadLaw s → LoadLaw { s with titles := tb, loader := ld })
    (hchange : TitleChange t s { s with titles := tb, loader := ld }) :
    KeepsBlocks s { s with titles := tb, loader := ld } :=
  { KeepsBlocks.rfl' (s := s) with
    idle := fun h => by dsimp only; rw [hidle]; exact h
    cue := hwf
    loads := hloads
    layout := hchange.layoutLaw
    entries := hchange.entriesSound }

/-- A record replaced. -/
theorem TitleChange.of_recs {t : TitleNo} {s u : State} {x : Title} (hrecs : u.titles.recs = setAt s.titles.recs t x)
    (hlaid : LayoutLaw s → x.state ≠ .free → x.Laid) (hstore : CueStoreLaw s → CueStoreLaw u)
    (hapart : CueStoreLaw s → LayoutLaw s → ∀ v, v ≠ t → (s.title v).state ≠ .free → ∀ n,
      holdsSlot (s.title v).base (s.title v).count n = true → slotAt u.titles.cue n = slotAt s.titles.cue n)
    (hordered : EntriesSound s → x.state ≠ .free → x.InOrder u.titles.cue) : TitleChange t s u := by
  have hself : u.title t = x := by rw [title_of_setAt hrecs, if_pos rfl]
  refine ⟨fun v hv => by rw [title_of_setAt hrecs, if_neg hv], ?_, hstore, hapart, ?_⟩
  · rw [hself]; exact hlaid
  · rw [hself]; exact hordered

/-- A record replaced, the cue store's bytes standing. -/
theorem TitleChange.of_setAt {t : TitleNo} {s u : State} {x : Title} (hrecs : u.titles.recs = setAt s.titles.recs t x)
    (hcue : u.titles.cue = s.titles.cue) (hstore : CueStoreLaw s → CueStoreLaw u)
    (hlaid : LayoutLaw s → x.state ≠ .free → x.Laid)
    (hordered : EntriesSound s → x.state ≠ .free → x.InOrder s.titles.cue) : TitleChange t s u :=
  .of_recs hrecs hlaid hstore (fun _ _ _ _ _ _ _ => by rw [hcue]) (by rw [hcue]; exact hordered)

/-! ### Titles released (R2, R25, R41) -/

theorem closeLoad_idleTime (s : State) (t : TitleNo) : (s.closeLoad t).loader.idleTime = s.loader.idleTime := by
  unfold State.closeLoad
  split <;> rfl

/-- A context after a title's load closed is as it was, or closed; and it names that title no longer (R25). -/
theorem closeLoad_ctx {s : State} (h : LoadLaw s) (t : TitleNo) (p : LoadPort) (v : TitleNo) :
    ((s.closeLoad t).loader.ctx[p] = .loading v → v ≠ t ∧ s.loader.ctx[p] = .loading v) ∧
      ((s.closeLoad t).loader.ctx[p] = .finishing v → v ≠ t ∧ s.loader.ctx[p] = .finishing v) := by
  obtain ⟨hload, hfin⟩ := (loadLaw_iff s).mp h p v
  have hnames : ∀ c : LoadContext, (c.closeFor t = .loading v → v ≠ t ∧ c = .loading v) ∧
      (c.closeFor t = .finishing v → v ≠ t ∧ c = .finishing v) := fun c => by
    cases c with
    | closed => simp [LoadContext.closeFor]
    | loading w => by_cases e : w = t <;> simp [LoadContext.closeFor, e]; aesop
    | finishing w => by_cases e : w = t <;> simp [LoadContext.closeFor, e]; aesop
  unfold State.closeLoad
  split
  · rename_i q hq
    dsimp only
    by_cases e : q = p
    · subst e
      simpa using hnames s.loader.ctx[q]
    · have hne : q.val ≠ p.val := fun hv => e (Fin.ext hv)
      simp only [Fin.getElem_fin, modAt_get, if_neg hne] at hload hfin ⊢
      refine ⟨fun hc => ⟨fun hv => ?_, hc⟩, fun hc => ⟨fun hv => ?_, hc⟩⟩
      · have hl := (hload hc).2
        rw [hv, hq] at hl
        exact e (Option.some.inj hl)
      · have hl := (hfin hc).2
        rw [hv, hq] at hl
        exact e (Option.some.inj hl)
  · rename_i hq
    refine ⟨fun hc => ⟨fun hv => ?_, hc⟩, fun hc => ⟨fun hv => ?_, hc⟩⟩
    · have hl := (hload hc).2
      rw [hv, hq] at hl
      cases hl
    · have hl := (hfin hc).2
      rw [hv, hq] at hl
      cases hl

/-- Record `t` may change where its load is closed. -/
theorem loadLaw_of_closeLoad {s u : State} {t : TitleNo} (hc : u.loader = (s.closeLoad t).loader)
    (hothers : ∀ v, v ≠ t → u.title v = s.title v) (h : LoadLaw s) : LoadLaw u := by
  refine (loadLaw_iff u).mpr fun p v => ?_
  obtain ⟨hload, hfin⟩ := (loadLaw_iff s).mp h p v
  obtain ⟨hcl, hcf⟩ := closeLoad_ctx h t p v
  rw [hc]
  refine ⟨fun hp => ?_, fun hp => ?_⟩
  · obtain ⟨hv, hs⟩ := hcl hp
    rw [hothers v hv]
    exact hload hs
  · obtain ⟨hv, hs⟩ := hcf hp
    rw [hothers v hv]
    exact hfin hs

theorem freeTitle_loader (s : State) (t : TitleNo) : (s.freeTitle t).loader = (s.closeLoad t).loader := rfl

theorem freeTitle_titles (s : State) (t : TitleNo) : (s.freeTitle t).titles = { s.titles with
    recs := setAt s.titles.recs t Title.free
    free := releaseRegion (s.title t).base (s.title t).count s.titles.free } := by
  obtain ⟨x, hx⟩ := freeTitle_eq s t
  rw [hx]

theorem freeTitle_keepsBlocks {s : State} {t : TitleNo} (ht : (s.title t).state ≠ .free) :
    KeepsBlocks s (s.freeTitle t) := by
  have hloads : LoadLaw s → LoadLaw (s.freeTitle t) :=
    loadLaw_of_closeLoad (freeTitle_loader s t) fun v hv => by rw [freeTitle_title, if_neg hv]
  have hidle := closeLoad_idleTime s t
  rw [← freeTitle_loader] at hidle
  have hstore : CueStoreLaw s → CueStoreLaw (s.freeTitle t) := fun h => freeTitle_cueStoreLaw h ht
  obtain ⟨x, hx⟩ := freeTitle_eq s t
  rw [hx] at hloads hstore hidle ⊢
  exact .of_titleChange (t := t) hidle id hloads
    (.of_setAt rfl rfl hstore (fun _ h => absurd rfl h) fun _ h => absurd rfl h)

theorem failLoad_keepsBlocks {s : State} {t : TitleNo} (ht : (s.title t).state ≠ .free) (reason : FailReason) :
    KeepsBlocks s (failLoad t reason s) := by
  unfold failLoad
  dsimp only
  split
  · rename_i p _
    refine KeepsBlocks.after (.of_flags ?_ ?_) (freeTitle_keepsBlocks ht)
    · exact rfl
    · exact fun h => LinkBlock.latchLoadFailed_attends h p t reason
  · exact freeTitle_keepsBlocks ht

theorem clipListOverflow_keepsBlocks (t : TitleNo) (s : State) : KeepsBlocks s (clipListOverflow t s) := by
  unfold clipListOverflow
  dsimp only
  split
  · rename_i hf
    exact failLoad_keepsBlocks (by simp [hf.1]) _
  · exact .rfl'

theorem loadIdleTimeout_keepsBlocks (t : TitleNo) (s : State) : KeepsBlocks s (loadIdleTimeout t s) := by
  unfold loadIdleTimeout
  split
  · rename_i hdue
    simp only [idleExpired, Bool.and_eq_true, beq_iff_eq] at hdue
    obtain ⟨-, hloading, -⟩ := hdue
    exact failLoad_keepsBlocks (by simp [hloading]) _
  · exact .rfl'

theorem loadAbort_keepsBlocks (r : Req) (s : State) : KeepsBlocks s (loadAbort r s).1 := by
  unfold loadAbort
  split
  · exact .rfl'
  · rename_i t hadmit
    exact freeTitle_keepsBlocks (admitLoad_ok hadmit)

theorem unload_keepsBlocks (r : Req) (s : State) : KeepsBlocks s (unload r s).1 := by
  obtain h | ⟨t, hready, -, h⟩ := unload_cases r s
  · rw [h]; exact .rfl'
  · rw [h]
    exact (KeepsBlocks.of_cues _ _).after (freeTitle_keepsBlocks (by simp [hready]))

/-! ### A taken request touches its title (R26, R35) -/

/-- A record replaced by one of the same phase, port, region and parts. -/
theorem setTitle_keepsBlocks {s : State} {t : TitleNo} {x : Title}
    (hstate : x.state = (s.title t).state ∧ x.loader = (s.title t).loader) (hregion : (s.title t).SameRegion x)
    (hlaid : (s.title t).Laid → x.Laid) (horder : (s.title t).InOrder s.titles.cue → x.InOrder s.titles.cue) :
    KeepsBlocks s (s.setTitle t x) := by
  refine .of_titleChange (t := t) rfl id (loadLaw_congr (s := s) rfl fun v => ?_) ?_
  · rw [title_of_setAt (x := x) (t := t) rfl]
    split
    · rename_i e
      rw [e]
      exact hstate
    · exact ⟨rfl, rfl⟩
  · refine .of_setAt (x := x) rfl rfl (RetouchesTitle.cueStoreLaw ⟨⟨x, rfl, hregion⟩, rfl⟩) (fun hlay hx => ?_)
      fun hs hx => ?_
    · exact hlaid (hlay t (by rwa [hstate.1] at hx))
    · exact horder ((entryLaw_iff s).mp hs.2.2 t (by rwa [hstate.1] at hx))

theorem touchTitle_keepsBlocks (t : TitleNo) (s : State) : KeepsBlocks s (touchTitle t s) :=
  setTitle_keepsBlocks ⟨rfl, rfl⟩ ⟨Iff.rfl, rfl, rfl⟩ id id

theorem touchTitle_state (t : TitleNo) (s : State) : ((touchTitle t s).title t).state = (s.title t).state := by
  rw [touchTitle_title]

end Sys2Proof.Machine
end

/-! The entries that LOAD.DATA stores keep their title laid out and in order (R11, R15, R32). -/
section
namespace Sys2Proof.Machine

open Sys2Proof.Safety

/-- An element replaced by one that measures the same leaves the measures. -/
theorem map_set_of_eq {α β : Type} {f : α → β} {l : List α} {i : Nat} {a b : α} (h : l[i]? = some a) (hf : f b = f a) :
    (l.set i b).map f = l.map f := by
  obtain ⟨hlt, rfl⟩ := List.getElem?_eq_some_iff.mp h
  rw [List.map_set, hf, ← List.getElem_map f (h := by simpa using hlt), List.set_getElem_self]

/-- One more received entry, where the track has room, keeps a title laid out that is not READY. -/
theorem laidOut_setTrack {x : Title} {tn : Nat} {tr : Track} (h : laidOut x) (hready : x.state ≠ .ready)
    (htr : x.tracks[tn]? = some tr) (hroom : tr.n < tr.nDecl) : laidOut (x.setTrack tn { tr with n := tr.n + 1 }) := by
  obtain ⟨hcount, hfill, hbytes, htracks⟩ := h
  have hdecl := map_set_of_eq (f := Track.nDecl) (b := { tr with n := tr.n + 1 }) htr rfl
  have hanchors := map_set_of_eq (f := fun u : Track => ceilDiv u.nDecl Config.anchorSpan)
    (b := { tr with n := tr.n + 1 }) htr rfl
  have hentries : (x.setTrack tn { tr with n := tr.n + 1 }).entries = x.entries := by
    unfold Title.entries Title.setTrack; rw [hdecl]
  refine ⟨?_, hfill, hbytes, fun i u hu => ?_⟩
  · rw [hentries]
    simp only [Title.setTrack, hanchors]
    exact hcount
  · rw [hentries]
    simp only [Title.setTrack, List.map_take, hdecl, hanchors]
    simp only [← List.map_take]
    by_cases e : tn = i
    · subst e
      obtain ⟨hlt, -⟩ := List.getElem?_eq_some_iff.mp htr
      simp only [Title.setTrack, List.getElem?_set_self hlt, Option.some.injEq] at hu
      subst hu
      obtain ⟨h1, h2, -, h4⟩ := htracks tn tr htr
      rw [if_neg hready] at h4
      exact ⟨h1, h2, hroom, h4.trans (if_neg hready).symm⟩
    · simp only [Title.setTrack, List.getElem?_set_ne e] at hu
      obtain ⟨h1, h2, h3, h4⟩ := htracks i u hu
      exact ⟨h1, h2, h3, h4⟩

/-- Entries of a title that is not READY stay in order where the slots before its text pool read as before. -/
theorem Title.InOrder.congr_entries {m m' : List Host.Cell} {x : Title} (hx : laidOut x) (hready : x.state ≠ .ready)
    (h : x.InOrder m) (hread : ∀ n, n < x.base + x.entries → slotAt m' n = slotAt m n) : x.InOrder m' := by
  intro i tr htr
  refine ⟨fun j k hjk hk => ?_, fun e => absurd e hready⟩
  have harea := entryArea_le_entries hx htr
  have hreceived := (fits_of_laidOut hx).received tr (List.mem_of_getElem? htr)
  have hslot : ∀ l, l < tr.n → slotAt m' (entrySlot x tr l) = slotAt m (entrySlot x tr l) := fun l hl =>
    hread _ (by unfold entrySlot; omega)
  have horder := (h i tr htr).1 j k hjk hk
  unfold entryEnd entryStart entryDur at horder ⊢
  rw [hslot j (hjk.trans hk), hslot k hk]
  exact horder

/-- A text placed in the pool leaves every slot before it. -/
theorem slotAt_placeText {x : Title} {text : List Byte} {s : State} {n : Nat} (h : n < x.base + x.entries) :
    slotAt (placeText x text s).titles.cue n = slotAt s.titles.cue n := by
  refine slotAt_congr fun a ha ha' => Memory.read_write_outside (.inl ?_)
  unfold poolAddr
  simp only [Config.slotBytes]
  omega

section
variable {m : List Host.Cell} {x : Title} {tn : Nat} {tr : Track} {start : Nat} {bytes : List Byte}

/-- The entries of the track that receives an entry end by its start (R11). -/
theorem entryEnd_storedCue_le (hb : bytes.length = 16) (hafter : 1 ≤ tr.n → entryStart m x tr (tr.n - 1) ≤ start)
    (horder : ∀ j k, j < k → k < tr.n → entryEnd m x tr j ≤ entryStart m x tr k) {j : Nat} (hj : j < tr.n) :
    entryEnd (storedCue m x tr start bytes) x tr j ≤ start := by
  have hlast := hafter (by omega)
  by_cases e : j = tr.n - 1
  · subst e
    unfold entryEnd
    rw [entryStart_storedCue_last hb (by omega), entryDur_storedCue_last hb (by omega)]
    omega
  · have hother := slotAt_storedCue_other (m := m) (x := x) (tr := tr) (start := start) hb (n := entrySlot x tr j)
      (by unfold entrySlot; omega) (by unfold entrySlot; omega)
    have hprev := horder j (tr.n - 1) (by omega) (by omega)
    have hend : entryEnd (storedCue m x tr start bytes) x tr j = entryEnd m x tr j := by
      unfold entryEnd entryStart entryDur; rw [hother]
    omega

/-- A stored entry keeps the entries of its title in order (R7, R11). -/
theorem inOrder_storedCue (hx : laidOut x) (hready : x.state ≠ .ready) (htr : x.tracks[tn]? = some tr)
    (hroom : tr.n < tr.nDecl) (hb : bytes.length = 16) (hstart : field bytes 0 3 = start)
    (hafter : 1 ≤ tr.n → entryStart m x tr (tr.n - 1) ≤ start) (h : x.InOrder m) :
    (x.setTrack tn { tr with n := tr.n + 1 }).InOrder (storedCue m x tr start bytes) := by
  intro i u hu
  refine ⟨fun j k hjk hk => ?_, fun e => absurd e hready⟩
  change entryEnd (storedCue m x tr start bytes) x u j ≤ entryStart (storedCue m x tr start bytes) x u k
  by_cases e : tn = i
  · subst e
    obtain ⟨hlt, -⟩ := List.getElem?_eq_some_iff.mp htr
    simp only [Title.setTrack, List.getElem?_set_self hlt, Option.some.injEq] at hu
    subst hu
    change entryEnd (storedCue m x tr start bytes) x tr j ≤ entryStart (storedCue m x tr start bytes) x tr k
    dsimp only at hk
    have horder := (h tn tr htr).1
    by_cases ek : k = tr.n
    · have hnew : entryStart (storedCue m x tr start bytes) x tr k = start := by
        unfold entryStart
        rw [ek, slotAt_storedCue_self hb, hstart]
      rw [hnew]
      exact entryEnd_storedCue_le hb hafter horder (by omega)
    · have hend : entryEnd (storedCue m x tr start bytes) x tr j = entryEnd m x tr j := by
        unfold entryEnd entryStart entryDur
        rw [slotAt_storedCue_other hb (by unfold entrySlot; omega) (by unfold entrySlot; omega)]
      have hstartk : entryStart (storedCue m x tr start bytes) x tr k = entryStart m x tr k := by
        by_cases elast : k = tr.n - 1
        · rw [elast]
          exact entryStart_storedCue_last hb (by omega)
        · unfold entryStart
          rw [slotAt_storedCue_other hb (by unfold entrySlot; omega) (by unfold entrySlot; omega)]
      rw [hend, hstartk]
      exact horder j k hjk (by omega)
  · simp only [Title.setTrack, List.getElem?_set_ne e] at hu
    have hn := (fits_of_laidOut hx).received u (List.mem_of_getElem? hu)
    have hother : ∀ l, l < u.n → slotAt (storedCue m x tr start bytes) (entrySlot x u l) = slotAt m (entrySlot x u l) :=
      fun l hl => slotAt_storedCue_other hb
        (fun c => e (entrySlot_inj hx hu htr (by omega) hroom c).1.symm)
        (fun _ c => e (entrySlot_inj hx hu htr (by omega) (by omega) c).1.symm)
    have horder := (h i u hu).1 j k hjk hk
    unfold entryEnd entryStart entryDur at horder ⊢
    rw [hother j (hjk.trans hk), hother k hk]
    exact horder

end

theorem field_captionBytes {e : CaptionEntry} (h : e.start < 2 ^ 24) : field e.bytes 0 3 = e.start := by
  unfold CaptionEntry.bytes
  simp only [List.append_assoc, field_zero_le]
  exact Nat.mod_eq_of_lt h

theorem field_descBytes {e : DescEntry} (h : e.start < 2 ^ 24) : field e.bytes 0 3 = e.start := by
  unfold DescEntry.bytes
  simp only [List.append_assoc, field_zero_le]
  exact Nat.mod_eq_of_lt h

/-- What an entry that passes the steps of R32 is and stores. -/
theorem appendEntry_ok {t : TitleNo} {tn : Nat} {e : RawEntry} {s : State} {r : State × Bool}
    (h : appendEntry t tn e s = .ok r) : ∃ tr, (s.title t).tracks[tn]? = some tr ∧ tr.n < tr.nDecl ∧
      (1 ≤ tr.n → entryStart s.titles.cue (s.title t) tr (tr.n - 1) ≤ e.start) ∧
      ((∃ start dur bits raw, e = .caption start dur bits raw ∧
          (s.title t).fill + (prepareText raw).1.length ≤ (s.title t).textBytes ∧
          r.1 = storeEntry t tn { s.title t with fill := (s.title t).fill + (prepareText raw).1.length } tr start
            (CaptionEntry.bytes ⟨start, dur, bit bits 0, bit bits 1, (s.title t).fill, (prepareText raw).1.length⟩)
            (placeText (s.title t) (prepareText raw).1 s)) ∨
        ∃ start dur clipBlock level, e = .description start dur clipBlock level ∧
          r.1 = storeEntry t tn (s.title t) tr start
            (DescEntry.bytes ⟨start, dur, clipOf clipBlock, blockOf clipBlock, level⟩) s) := by
  unfold appendEntry at h
  dsimp only at h
  cases htr : (s.title t).tracks[tn]? with
  | none => rw [htr] at h; cases h
  | some tr =>
    rw [htr] at h
    dsimp only at h
    split at h
    · cases h
    rename_i hroom
    split at h
    · cases h
    split at h
    · cases h
    rename_i horder
    simp only [Bool.and_eq_true, decide_eq_true_eq, not_and, not_lt] at horder
    refine ⟨tr, rfl, not_le.mp hroom, horder, ?_⟩
    cases e with
    | caption start dur bits raw =>
      dsimp only at h
      split at h
      · cases h
      rename_i htext
      cases h
      exact .inl ⟨start, dur, bits, raw, rfl, not_lt.mp htext, rfl⟩
    | description start dur clipBlock level =>
      cases h
      exact .inr ⟨start, dur, clipBlock, level, rfl, rfl⟩

/-- An entry stored, after a text placed in the pool of its title. -/
theorem storeEntry_keepsBlocks {t : TitleNo} {tn start fill : Nat} {tr : Track} {bytes : List Byte}
    {cue : List Host.Cell} {s : State} (hstate : (s.title t).state = .loading)
    (htr : (s.title t).tracks[tn]? = some tr) (hroom : tr.n < tr.nDecl) (hb : bytes.length = 16)
    (hstart : field bytes 0 3 = start) (hafter : 1 ≤ tr.n → entryStart s.titles.cue (s.title t) tr (tr.n - 1) ≤ start)
    (hfill : (s.title t).fill ≤ (s.title t).textBytes → fill ≤ (s.title t).textBytes)
    (hread : ∀ n, n < (s.title t).base + (s.title t).entries → slotAt cue n = slotAt s.titles.cue n)
    (hwrites : (s.title t).Fits → WritesWithin (s.title t).base (s.title t).count s.titles.cue cue)
    (hwf : Memory.wf cueEmpty s.titles.cue → Memory.wf cueEmpty cue) :
    KeepsBlocks s (storeEntry t tn { s.title t with fill := fill } tr start bytes
      { s with titles := { s.titles with cue := cue } }) := by
  have hready : (s.title t).state ≠ .ready := by rw [hstate]; decide
  have hfree : (s.title t).state ≠ .free := by rw [hstate]; decide
  have hmem := List.mem_of_getElem? htr
  have hgrown : laidOut (s.title t) → laidOut { s.title t with fill := fill } := fun ⟨h1, h2, h3, h4⟩ =>
    ⟨h1, hfill h2, h3, h4⟩
  refine .of_titleChange (t := t) (ld := s.loader) rfl (fun h => ?_)
    (loadLaw_congr (s := s) rfl fun v => ?_)
    (.of_recs (x := { s.title t with fill := fill }.setTrack tn { tr with n := tr.n + 1 }) rfl (fun hlay _ => ?_)
      (RetouchesTitle.cueStoreLaw ⟨⟨_, rfl, Iff.rfl, rfl, rfl⟩, rfl⟩) (fun hcue hlay v hv hlive n hn => ?_) fun hs _ => ?_)
  · have hshort : Memory.wf cueEmpty (shortenLast cue { s.title t with fill := fill } tr start) := by
      unfold shortenLast
      dsimp only
      split
      · exact hwf h
      · exact Memory.wf_write (hwf h) _ _
    exact Memory.wf_write hshort _ _
  · rw [title_of_setAt (s := s) (t := t) (x := { s.title t with fill := fill }.setTrack tn { tr with n := tr.n + 1 }) rfl]
    split
    · rename_i e
      rw [e]
      exact ⟨rfl, rfl⟩
    · exact ⟨rfl, rfl⟩
  · obtain ⟨hlaid, hclips⟩ := hlay t hfree
    exact ⟨laidOut_setTrack (hgrown hlaid) hready htr hroom, hclips⟩
  · have hfits := fits_of_laidOut (hlay t hfree).1
    have hgrownFits := fits_of_laidOut (hgrown (hlay t hfree).1)
    have hall := (hwrites hfits).trans' (storeEntry_writes hgrownFits hmem hroom t tn start hb
      { s with titles := { s.titles with cue := cue } })
    exact hall.slotAt (region_apart hcue hv hfree (by rw [Title.owns_of_not_free hlive]; exact hn))
  · obtain ⟨-, hlay, hentry⟩ := hs
    have hlaid := (hlay t hfree).1
    refine inOrder_storedCue (x := { s.title t with fill := fill }) (hgrown hlaid) hready htr hroom hb hstart
      (fun hn => ?_) (.congr_entries (hgrown hlaid) hready ((entryLaw_iff s).mp hentry t hfree) hread)
    have harea := entryArea_le_entries hlaid htr
    have hsame := hread (entrySlot (s.title t) tr (tr.n - 1)) (by unfold entrySlot; omega)
    have hle := hafter hn
    unfold entryStart at hle ⊢
    rw [← hsame] at hle
    exact hle

theorem appendEntry_keepsBlocks {t : TitleNo} {tn : Nat} {e : RawEntry} {s : State} {r : State × Bool}
    (hstate : (s.title t).state = .loading) (hstart : e.start < 2 ^ 24) (h : appendEntry t tn e s = .ok r) :
    KeepsBlocks s r.1 := by
  obtain ⟨tr, htr, hroom, hafter, ⟨start, dur, bits, raw, rfl, htext, hr⟩ | ⟨start, dur, clipBlock, level, rfl, hr⟩⟩ :=
    appendEntry_ok h
  · rw [hr]
    exact storeEntry_keepsBlocks hstate htr hroom (CaptionEntry.bytes_length _) (field_captionBytes hstart) hafter
      (fun _ => htext) (fun n hn => slotAt_placeText hn) (fun hfits => placeText_writes hfits htext s)
      fun hwf => Memory.wf_write hwf _ _
  · rw [hr]
    exact storeEntry_keepsBlocks (fill := (s.title t).fill) (cue := s.titles.cue) hstate htr hroom
      (DescEntry.bytes_length _) (field_descBytes hstart) hafter id (fun _ _ => rfl) (fun _ => .rfl') id

theorem appendEntry_state {t : TitleNo} {tn : Nat} {e : RawEntry} {s : State} {r : State × Bool}
    (h : appendEntry t tn e s = .ok r) : (r.1.title t).state = (s.title t).state := by
  obtain ⟨tr, -, -, -, ⟨start, dur, bits, raw, rfl, -, hr⟩ | ⟨start, dur, clipBlock, level, rfl, hr⟩⟩ := appendEntry_ok h
  all_goals rw [hr, storeEntry_title]; rfl

theorem appendEntries_keepsBlocks {t : TitleNo} (tn : Nat) {es : List RawEntry} (cut : Bool) {s : State}
    (hstate : (s.title t).state = .loading) (hstart : ∀ e ∈ es, e.start < 2 ^ 24) :
    KeepsBlocks s (appendEntries t tn es cut s).1 := by
  induction es generalizing cut s with
  | nil => exact .rfl'
  | cons e es ih =>
    unfold appendEntries
    split
    · exact failLoad_keepsBlocks (by rw [hstate]; decide) _
    · rename_i r hr
      have hone := appendEntry_keepsBlocks hstate (hstart e List.mem_cons_self) hr
      exact hone.trans' (ih _ ((appendEntry_state hr).trans hstate) fun x hx => hstart x (List.mem_cons_of_mem _ hx))

/-- The starts that a LOAD.DATA body carries have 24 bits (R214). -/
theorem readEntries_start {k : TrackKind} {c : Nat} {bs : List Byte} {es : List RawEntry}
    (h : readEntries k c bs = some es) : ∀ e ∈ es, e.start < 2 ^ 24 := by
  have hfield : ∀ l : List Byte, field l 0 3 < 2 ^ 24 := fun l => by
    refine (leVal_lt _).trans_le ?_
    rw [show (2 : Nat) ^ 24 = 256 ^ 3 by norm_num]
    exact Nat.pow_le_pow_right (by norm_num) (by simp)
  induction c generalizing bs es with
  | zero =>
    unfold readEntries at h
    split at h
    · cases h; simp
    · cases h
  | succ c ih =>
    unfold readEntries at h
    cases k with
    | caption =>
      dsimp only at h
      split at h
      · cases h
      · obtain ⟨rest, hrest, rfl⟩ := Option.map_eq_some_iff.mp h
        intro e he
        obtain rfl | he := List.mem_cons.mp he
        · exact hfield bs
        · exact ih hrest e he
    | description =>
      dsimp only at h
      split at h
      · cases h
      · obtain ⟨rest, hrest, rfl⟩ := Option.map_eq_some_iff.mp h
        intro e he
        obtain rfl | he := List.mem_cons.mp he
        · exact hfield bs
        · exact ih hrest e he

theorem dataEntries_start (body : List Byte) (s : State) : ∀ e ∈ (dataEntries body s).getD [], e.start < 2 ^ 24 := by
  cases h : dataEntries body s with
  | none => simp
  | some es =>
    unfold dataEntries at h
    dsimp only at h
    repeat' split at h
    case h_2 => exact readEntries_start h
    all_goals cases h
    all_goals simp

theorem loadData_keepsBlocks (r : Req) (s : State) : KeepsBlocks s (loadData r s).1 := by
  unfold loadData
  dsimp only
  split
  · exact .rfl'
  · rename_i t hadmit
    have hstate : ((touchTitle t s).title t).state = .loading :=
      (touchTitle_state t s).trans (beq_iff_eq.mp (admitLoad_state hadmit))
    refine (touchTitle_keepsBlocks t s).trans' ?_
    split
    · exact failLoad_keepsBlocks (by rw [hstate]; decide) _
    · split
      · exact .rfl'
      · exact appendEntries_keepsBlocks _ _ hstate (dataEntries_start _ _)

end Sys2Proof.Machine
end

/-! LOAD.OPEN, LOAD.FINISH and the finishing work: the layout that a declaration gets, the clip list, the anchors, and
what they keep (R13 to R15, R29, R35 to R38). -/
section
namespace Sys2Proof.Machine

open Sys2Proof.Safety

/-! ### LOAD.FINISH (R35) -/

/-- A context replaced by one that names record `t`, changed with it: no context of another port names `t`. -/
theorem loadLaw_setCtx {s u : State} {t : TitleNo} {p : LoadPort} {c : LoadContext}
    (hc : u.loader.ctx = setAt s.loader.ctx p c) (hothers : ∀ v, v ≠ t → u.title v = s.title v)
    (hport : ∀ q, q ≠ p → s.loader.ctx[q] ≠ .loading t ∧ s.loader.ctx[q] ≠ .finishing t)
    (hnew : ∀ v, (c = .loading v → (u.title v).state = .loading ∧ (u.title v).loader = some p) ∧
      (c = .finishing v → (u.title v).state = .finishing ∧ (u.title v).loader = some p)) (h : LoadLaw s) :
    LoadLaw u := by
  refine (loadLaw_iff u).mpr fun q v => ?_
  by_cases e : p = q
  · subst e
    rw [hc, setAt_self]
    exact hnew v
  · rw [hc, setAt_other _ _ e]
    obtain ⟨hl, hf⟩ := hport q fun c => e c.symm
    by_cases ev : v = t
    · subst ev
      exact ⟨fun c => absurd c hl, fun c => absurd c hf⟩
    · rw [hothers v ev]
      exact (loadLaw_iff s).mp h q v

/-- Under the law, no context but that of a title's loader port names it (R25). -/
theorem ctx_ne_of_loader {s : State} (h : LoadLaw s) {t : TitleNo} {p q : LoadPort} (hp : (s.title t).loader = some p)
    (hq : q ≠ p) : s.loader.ctx[q] ≠ .loading t ∧ s.loader.ctx[q] ≠ .finishing t := by
  obtain ⟨hl, hf⟩ := (loadLaw_iff s).mp h q t
  rw [hp] at hl hf
  exact ⟨fun c => hq (Option.some.inj (hl c).2).symm, fun c => hq (Option.some.inj (hf c).2).symm⟩

theorem ctx_ne_of_state {s : State} (h : LoadLaw s) {t : TitleNo} (hl : (s.title t).state ≠ .loading)
    (hf : (s.title t).state ≠ .finishing) (q : LoadPort) :
    s.loader.ctx[q] ≠ .loading t ∧ s.loader.ctx[q] ≠ .finishing t := by
  obtain ⟨h1, h2⟩ := (loadLaw_iff s).mp h q t
  exact ⟨fun c => hl (h1 c).1, fun c => hf (h2 c).1⟩

/-- The phase of a title that is not READY changes nothing of its parts. -/
theorem setPhase_laid {x : Title} {y : TitleState} (hx : x.state ≠ .ready) (hy : y ≠ .ready) (h : x.Laid) :
    { x with state := y }.Laid := by
  obtain ⟨⟨h1, h2, h3, htracks⟩, hclips⟩ := h
  refine ⟨⟨h1, h2, h3, fun i tr htr => ?_⟩, hclips⟩
  obtain ⟨h4, h5, h6, h7⟩ := htracks i tr htr
  rw [if_neg hx] at h7
  exact ⟨h4, h5, h6, h7.trans (if_neg hy).symm⟩

theorem finish_keepsBlocks {s : State} {t : TitleNo} (hstate : (s.title t).state = .loading) (l : LoaderBlock)
    (hidle : l.idleTime = s.loader.idleTime)
    (hctx : (∃ p, (s.title t).loader = some p ∧ l.ctx = setAt s.loader.ctx p (.finishing t)) ∨
      (s.title t).loader = none ∧ l.ctx = s.loader.ctx) :
    KeepsBlocks s { s.setTitle t { s.title t with state := .finishing } with loader := l } := by
  have htitle := title_of_setAt (s := s) (t := t) (x := { s.title t with state := .finishing })
    (u := { s.setTitle t { s.title t with state := .finishing } with loader := l }) rfl
  have hready : (s.title t).state ≠ .ready := by rw [hstate]; decide
  have hfree : (s.title t).state ≠ .free := by rw [hstate]; decide
  have hloads : LoadLaw s → LoadLaw { s.setTitle t { s.title t with state := .finishing } with loader := l } :=
      fun h => by
    obtain ⟨p, hp, hc⟩ | ⟨hp, hc⟩ := hctx
    · refine loadLaw_setCtx (t := t) hc (fun v hv => (htitle v).trans (if_neg hv)) (fun q hq => ctx_ne_of_loader h hp hq)
        (fun v => ⟨fun e => LoadContext.noConfusion e, fun e => ?_⟩) h
      cases e
      rw [htitle, if_pos rfl]
      exact ⟨rfl, hp⟩
    · refine (loadLaw_iff _).mpr fun q v => ?_
      obtain ⟨hl, hf⟩ := (loadLaw_iff s).mp h q v
      dsimp only
      rw [hc, htitle]
      split
      · rename_i e
        subst e
        rw [hp] at hl hf
        exact ⟨fun c => (nomatch (hl c).2), fun c => (nomatch (hf c).2)⟩
      · exact ⟨hl, hf⟩
  refine .of_titleChange (t := t) hidle id hloads ?_
  refine .of_setAt (x := { s.title t with state := .finishing }) rfl rfl ?_ (fun hlay _ => ?_) fun hs _ => ?_
  · exact RetouchesTitle.cueStoreLaw ⟨⟨_, rfl, ⟨fun e => (nomatch e), fun e => absurd e hfree⟩, rfl, rfl⟩, rfl⟩
  · exact setPhase_laid hready (by decide) (hlay t hfree)
  · exact fun i tr htr => ⟨((entryLaw_iff s).mp hs.2.2 t hfree i tr htr).1, fun e => (nomatch e)⟩

theorem loadFinish_keepsBlocks (r : Req) (s : State) : KeepsBlocks s (loadFinish r s).1 := by
  unfold loadFinish
  split
  · exact .rfl'
  · rename_i t hadmit
    have hstate : ((touchTitle t s).title t).state = .loading :=
      (touchTitle_state t s).trans (beq_iff_eq.mp (admitLoad_state hadmit))
    have hloader : ((touchTitle t s).title t).loader = (s.title t).loader := by rw [touchTitle_title]
    refine (touchTitle_keepsBlocks t s).trans' ?_
    dsimp only
    split
    · rename_i p hp
      exact finish_keepsBlocks hstate _ rfl (.inl ⟨p, hloader.trans hp, rfl⟩)
    · rename_i hp
      exact finish_keepsBlocks hstate _ rfl (.inr ⟨hloader.trans hp, rfl⟩)

/-! ### LOAD.OPEN (R15, R29) -/

/-- A declared track as it is laid out (R5, R15). -/
def TrackDecl.laidAt (d : TrackDecl) (entryBase anchorBase : Nat) : Track where
  kind := (kindOf d.kindCode).getD .caption
  lang := (langOf d.lang).getD ⟨0, 0, 0⟩
  nDecl := d.nDecl
  n := 0
  entryBase := entryBase
  anchorBase := anchorBase
  anchorCount := 0

theorem layTracks_cons (e a : Nat) (d : TrackDecl) (ds : List TrackDecl) : layTracks e a (d :: ds) =
    d.laidAt e a :: layTracks (e + d.nDecl) (a + ceilDiv d.nDecl Config.anchorSpan) ds := rfl

/-- Each declared track is laid out behind the tracks before it. -/
theorem layTracks_get (e a : Nat) (ds : List TrackDecl) (i : Nat) : (layTracks e a ds)[i]? = ds[i]?.map fun d =>
    d.laidAt (e + ((ds.take i).map (·.nDecl)).sum)
      (a + ((ds.take i).map fun u => ceilDiv u.nDecl Config.anchorSpan).sum) := by
  induction ds generalizing e a i with
  | nil => rfl
  | cons d ds ih =>
    rw [layTracks_cons]
    cases i with
    | zero => simp
    | succ i =>
      simp only [List.getElem?_cons_succ, ih, List.take_succ_cons, List.map_cons, List.sum_cons]
      simp only [Nat.add_assoc]

/-- The declared counts of the tracks laid out are those of the declaration. -/
theorem layTracks_map {β : Type} (f : Nat → β) (e a : Nat) (ds : List TrackDecl) :
    (layTracks e a ds).map (fun tr => f tr.nDecl) = ds.map fun d => f d.nDecl := by
  induction ds generalizing e a with
  | nil => rfl
  | cons d ds ih =>
    rw [layTracks_cons, List.map_cons, List.map_cons, ih]
    rfl

theorem layTracks_take {β : Type} (f : Nat → β) (e a : Nat) (ds : List TrackDecl) (i : Nat) :
    ((layTracks e a ds).take i).map (fun tr => f tr.nDecl) = (ds.take i).map fun d => f d.nDecl := by
  rw [List.map_take, layTracks_map, ← List.map_take]

theorem Decl.title_entries (d : Decl) (p : LoadPort) (base : Nat) (now : BitVec 32) :
    (d.title p base now).entries = d.entries := by
  unfold Title.entries Decl.title Decl.entries
  rw [layTracks_map fun n => n]

/-- A new title is laid out by R15. -/
theorem Decl.title_laidOut {d : Decl} (hbytes : d.textBytes ≤ 2097151) (p : LoadPort) (base : Nat) (now : BitVec 32) :
    laidOut (d.title p base now) := by
  refine ⟨?_, Nat.zero_le _, hbytes, fun i tr htr => ?_⟩
  · rw [d.title_entries]
    simp only [Decl.title, layTracks_map fun n => ceilDiv n Config.anchorSpan]
    rfl
  · rw [d.title_entries]
    simp only [Decl.title] at htr ⊢
    rw [layTracks_take fun n => n, layTracks_take fun n => ceilDiv n Config.anchorSpan]
    rw [layTracks_get] at htr
    obtain ⟨td, -, rfl⟩ := Option.map_eq_some_iff.mp htr
    exact ⟨Nat.zero_add _, rfl, Nat.zero_le _, rfl⟩

theorem Decl.inRange_textBytes {d : Decl} (h : d.inRange = true) : d.textBytes ≤ 2097151 := by
  simp only [Decl.inRange, Bool.and_eq_true, decide_eq_true_eq] at h
  exact h.2

/-- LOAD.OPEN changes nothing, or opens a FREE record for a declaration in range on a region that the allocator took. -/
theorem loadOpen_opens (r : Req) (s : State) : (loadOpen r s).1 = s ∨
    ∃ d p t x, d.inRange = true ∧ (s.title t).state = .free ∧
      allocateRegion d.regionSlots s.titles.free = some x ∧ (loadOpen r s).1 = openTitle d p t x.1 x.2 s := by
  unfold loadOpen
  split
  · rename_i p _
    unfold loadOpenOn
    split
    · exact .inl rfl
    · rename_i d _
      repeat' split
      case h_2 hrange _ t ht _ x hx =>
        exact .inr ⟨d, p, t, x, by simpa using hrange, lowestFreeTitle_free ht, hx, rfl⟩
      all_goals exact .inl rfl
  · exact .inl rfl

theorem openTitle_keepsBlocks {d : Decl} {p : LoadPort} {t : TitleNo} {x : Nat × List Extent} {s : State}
    (hd : d.inRange = true) (ht : (s.title t).state = .free)
    (hx : allocateRegion d.regionSlots s.titles.free = some x) : KeepsBlocks s (openTitle d p t x.1 x.2 s) := by
  refine .of_titleChange (t := t) rfl (fun h => Memory.wf_clear h _ _) (fun h => ?_)
    (.of_recs (x := d.title p x.1 s.clock.h) rfl (fun _ _ => ?_) (fun h => openTitle_cueStoreLaw h ht hx p)
      (fun hcue hlay v hv hlive n hn => ?_) fun hs _ i tr htr => ?_)
  · have htitle := title_of_setAt (s := s) (t := t) (x := d.title p x.1 s.clock.h) (u := openTitle d p t x.1 x.2 s) rfl
    refine loadLaw_setCtx (s := s) (u := openTitle d p t x.1 x.2 s) (t := t) rfl
      (fun v hv => (htitle v).trans (if_neg hv))
      (fun q _ => ctx_ne_of_state h (by rw [ht]; decide) (by rw [ht]; decide) q)
      (fun v => ⟨fun e => ?_, fun e => LoadContext.noConfusion e⟩) h
    cases e
    rw [htitle, if_pos rfl]
    exact ⟨rfl, rfl⟩
  · exact ⟨Decl.title_laidOut (Decl.inRange_textBytes hd) p x.1 s.clock.h, .nil, Nat.zero_le _⟩
  · exact (openTitle_writes d p t x.1 x.2 s).slotAt
      (allocated_apart hcue hx (by rw [Title.owns_of_not_free hlive]; exact hn))
  · simp only [Decl.title] at htr
    rw [layTracks_get] at htr
    obtain ⟨td, -, rfl⟩ := Option.map_eq_some_iff.mp htr
    exact ⟨fun _ k _ hk => absurd hk (Nat.not_lt_zero k), fun e => (nomatch e)⟩

theorem loadOpen_keepsBlocks (r : Req) (s : State) : KeepsBlocks s (loadOpen r s).1 := by
  obtain h | ⟨d, p, t, x, hd, ht, hx, h⟩ := loadOpen_opens r s
  · rw [h]; exact .rfl'
  · rw [h]; exact openTitle_keepsBlocks hd ht hx

/-! ### The clip list (R14, R37) -/

theorem mem_joinClip {c d : Nat} {l : List Nat} : d ∈ joinClip c l ↔ d = c ∨ d ∈ l := by
  induction l with
  | nil => simp [joinClip]
  | cons e es ih =>
    unfold joinClip
    split
    · simp
    · split
      · rename_i h
        simp [h]
      · rw [List.mem_cons, ih, List.mem_cons]
        tauto

/-- A clip joined to an ascending list leaves it ascending. -/
theorem joinClip_rising {c : Nat} {l : List Nat} (h : l.Pairwise (· < ·)) : (joinClip c l).Pairwise (· < ·) := by
  induction l with
  | nil => simp [joinClip]
  | cons e es ih =>
    obtain ⟨hhead, htail⟩ := List.pairwise_cons.mp h
    unfold joinClip
    split
    · rename_i hlt
      refine List.pairwise_cons.mpr ⟨fun x hx => ?_, h⟩
      obtain rfl | hx := List.mem_cons.mp hx
      · exact hlt
      · exact hlt.trans (hhead x hx)
    · split
      · exact h
      · refine List.pairwise_cons.mpr ⟨fun x hx => ?_, ih htail⟩
        obtain rfl | hx := mem_joinClip.mp hx
        · omega
        · exact hhead x hx

section
variable {m : List Host.Cell} {x : Title}

/-- Clips joined one after the other: the old ones and the new. -/
theorem mem_joinClips {α : Type} {f : α → Nat} {c : Nat} (is : List α) (l : List Nat) :
    c ∈ is.foldl (fun acc i => joinClip (f i) acc) l ↔ c ∈ l ∨ ∃ i ∈ is, f i = c := by
  induction is generalizing l with
  | nil => simp
  | cons i is ih =>
    rw [List.foldl_cons, ih, mem_joinClip]
    simp only [List.mem_cons, exists_eq_or_imp]
    constructor
    · rintro ((h | h) | h)
      · exact .inr (.inl h.symm)
      · exact .inl h
      · exact .inr (.inr h)
    · rintro (h | h | h)
      · exact .inl (.inr h)
      · exact .inl (.inl h.symm)
      · exact .inr h

theorem mem_trackClips {tr : Track} {c : Nat} {l : List Nat} : c ∈ trackClips m x l tr ↔
    c ∈ l ∨ tr.kind = .description ∧ ∃ k, k < tr.n ∧ (descEntry m x tr k).clip = c := by
  unfold trackClips
  split
  · rename_i h
    simp [h]
  · rename_i h
    rw [mem_joinClips]
    simp [h]

theorem trackClips_rising {tr : Track} {l : List Nat} (h : l.Pairwise (· < ·)) :
    (trackClips m x l tr).Pairwise (· < ·) := by
  unfold trackClips
  split
  · exact h
  · exact List.foldlRecOn _ _ h fun l hl i _ => joinClip_rising hl

/-- The clip list of a title is ascending (R14). -/
theorem clipList_rising (m : List Host.Cell) (x : Title) : (clipList m x).Pairwise (· < ·) :=
  List.foldlRecOn _ _ .nil fun _ hl _ _ => trackClips_rising hl

/-- The clip list of a title holds the clips that its description entries name (R14, R37). -/
theorem mem_clipList {c : Nat} : c ∈ clipList m x ↔ namesClip m x c := by
  have hfold : ∀ (ts : List Track) (l : List Nat), c ∈ ts.foldl (trackClips m x) l ↔
      c ∈ l ∨ ∃ tr ∈ ts, tr.kind = .description ∧ ∃ k, k < tr.n ∧ (descEntry m x tr k).clip = c := fun ts => by
    induction ts with
    | nil => simp
    | cons tr ts ih =>
      intro l
      rw [List.foldl_cons, ih, mem_trackClips]
      simp only [List.mem_cons, exists_eq_or_imp, or_assoc]
  unfold clipList namesClip
  rw [hfold]
  constructor
  · rintro (h | ⟨tr, htr, hkind, k, hk, hc⟩)
    · cases h
    · obtain ⟨i, hi⟩ := List.getElem?_of_mem htr
      exact ⟨i, tr, k, hi, hkind, hk, hc⟩
  · rintro ⟨i, tr, k, hi, hkind, hk, hc⟩
    exact .inr ⟨tr, List.mem_of_getElem? hi, hkind, k, hk, hc⟩

end

/-! ### The anchors (R13, R36) -/

/-- Slots written one after the other, each once: they hold what was written, and no other byte changes. -/
theorem writeSlots (b n : Nat) (f : Nat → List Byte) (hf : ∀ k, (f k).length = 16) (m : List Host.Cell) :
    let m' := (List.range n).foldl (fun m k => Memory.write cueEmpty m ((b + k) * 16) (f k)) m
    (∀ k, k < n → slotAt m' (b + k) = f k) ∧
      ∀ a, a < b * 16 ∨ (b + n) * 16 ≤ a → Memory.read cueEmpty m' a = Memory.read cueEmpty m a := by
  induction n with
  | zero => exact ⟨fun k hk => absurd hk (Nat.not_lt_zero k), fun _ _ => rfl⟩
  | succ n ih =>
    obtain ⟨hslots, hrest⟩ := ih
    simp only [List.range_succ, List.foldl_append, List.foldl_cons, List.foldl_nil]
    refine ⟨fun k hk => ?_, fun a ha => ?_⟩
    · by_cases e : k = n
      · subst e
        exact slotAt_write_self (hf k)
      · rw [← hslots k (by omega)]
        exact slotAt_congr fun a h1 h2 => Memory.read_write_outside (.inl (by omega))
    · rw [Memory.read_write_outside (by rw [hf]; omega)]
      exact hrest a (by omega)

/-- The anchors of one track are written in their slots, and no other byte changes. -/
theorem writeAnchors_reads (x : Title) (m : List Host.Cell) (tr : Track) :
    (∀ k, k < ceilDiv tr.n 32 →
      slotAt (writeAnchors x m tr) (x.base + tr.anchorBase + k) = anchorBytes (entryStart m x tr (32 * k))) ∧
    ∀ a, a < (x.base + tr.anchorBase) * 16 ∨ (x.base + tr.anchorBase + ceilDiv tr.n 32) * 16 ≤ a →
      Memory.read cueEmpty (writeAnchors x m tr) a = Memory.read cueEmpty m a :=
  writeSlots _ _ (fun k => anchorBytes (entryStart m x tr (32 * k))) (fun _ => anchorBytes_length _) m

/-- Is the byte in one of the anchors in use of the tracks? -/
def inAnchors (x : Title) (ts : List Track) (a : Nat) : Prop :=
  ∃ tr ∈ ts, (x.base + tr.anchorBase) * 16 ≤ a ∧ a < (x.base + tr.anchorBase + ceilDiv tr.n 32) * 16

/-- The anchors of some tracks change no byte but their own. -/
theorem foldl_writeAnchors_read (x : Title) (ts : List Track) (m : List Host.Cell) {a : Nat} (h : ¬inAnchors x ts a) :
    Memory.read cueEmpty (ts.foldl (writeAnchors x) m) a = Memory.read cueEmpty m a := by
  induction ts generalizing m with
  | nil => rfl
  | cons tr ts ih =>
    have hhead : ¬((x.base + tr.anchorBase) * 16 ≤ a ∧ a < (x.base + tr.anchorBase + ceilDiv tr.n 32) * 16) :=
      fun c => h ⟨tr, List.mem_cons_self, c⟩
    rw [List.foldl_cons, ih _ fun ⟨u, hu, c⟩ => h ⟨u, List.mem_cons_of_mem _ hu, c⟩]
    exact (writeAnchors_reads x m tr).2 a (by omega)

theorem ceilDiv_mono {a b : Nat} (h : a ≤ b) : ceilDiv a 32 ≤ ceilDiv b 32 := by
  unfold ceilDiv; omega

/-- No anchor lies before the title's text pool ends. -/
theorem not_inAnchors_of_lt {x : Title} (hx : laidOut x) {ts : List Track} (hts : ∀ tr ∈ ts, tr ∈ x.tracks) {a : Nat}
    (ha : a < (x.base + x.entries) * 16) : ¬inAnchors x ts a := by
  rintro ⟨tr, htr, h1, -⟩
  obtain ⟨i, hi⟩ := List.getElem?_of_mem (hts tr htr)
  have := pool_le_anchorArea hx hi
  omega

/-- Every entry slot reads as before the anchors were written. -/
theorem foldl_writeAnchors_slot {x : Title} (hx : laidOut x) {ts : List Track} (hts : ∀ tr ∈ ts, tr ∈ x.tracks)
    (m : List Host.Cell) {n : Nat} (hn : n < x.base + x.entries) :
    slotAt (ts.foldl (writeAnchors x) m) n = slotAt m n :=
  slotAt_congr fun _ _ ha => foldl_writeAnchors_read x ts m (not_inAnchors_of_lt hx hts (by omega))

/-- Anchor `k` of a track holds the start of its entry `32 k` (R13). -/
theorem foldl_writeAnchors_anchor {x : Title} (hx : laidOut x) {i : Nat} {tr : Track} (htr : x.tracks[i]? = some tr)
    (m : List Host.Cell) {k : Nat} (hk : k < ceilDiv tr.n 32) :
    slotAt (x.tracks.foldl (writeAnchors x) m) (x.base + tr.anchorBase + k) =
      anchorBytes (entryStart m x tr (32 * k)) := by
  obtain ⟨hlt, hget⟩ := List.getElem?_eq_some_iff.mp htr
  have hsplit : x.tracks = x.tracks.take i ++ tr :: x.tracks.drop (i + 1) := by
    rw [← hget, List.getElem_cons_drop hlt, List.take_append_drop]
  have harea := entryArea_le_entries hx htr
  have hreceived := (fits_of_laidOut hx).received tr (List.mem_of_getElem? htr)
  have hk' : 32 * k < tr.n := by unfold ceilDiv at hk; omega
  conv_lhs => rw [hsplit, List.foldl_append, List.foldl_cons]
  have hstart : entryStart ((x.tracks.take i).foldl (writeAnchors x) m) x tr (32 * k) = entryStart m x tr (32 * k) := by
    unfold entryStart
    rw [foldl_writeAnchors_slot hx (fun u hu => List.mem_of_mem_take hu) m (by unfold entrySlot; omega)]
  rw [← hstart, ← (writeAnchors_reads x _ tr).1 k hk]
  refine slotAt_congr fun a h1 h2 => foldl_writeAnchors_read x _ _ ?_
  rintro ⟨u, hu, h3, -⟩
  obtain ⟨j, hj⟩ := List.getElem?_of_mem hu
  rw [List.getElem?_drop] at hj
  have hle := anchorArea_le hx htr hj (by omega)
  have := ceilDiv_mono hreceived
  omega

/-! ### The finishing work completes (R36 to R38) -/

theorem Title.complete_laid {x : Title} {clips : List Nat} (hx : laidOut x) (hrising : clips.Pairwise (· < ·))
    (hlen : clips.length ≤ 256) : (x.complete clips).Laid := by
  obtain ⟨h1, h2, h3, htracks⟩ := hx
  have hmap : ∀ {β : Type} (f : Nat → β) (l : List Track),
      (l.map fun tr => { tr with anchorCount := ceilDiv tr.n Config.anchorSpan }).map (fun tr => f tr.nDecl) =
        l.map fun tr => f tr.nDecl := fun f l => by simp
  have hentries : (x.complete clips).entries = x.entries := by
    unfold Title.entries Title.complete
    rw [hmap fun n => n]
  refine ⟨⟨?_, h2, h3, fun i tr htr => ?_⟩, hrising, hlen⟩
  · rw [hentries]
    simp only [Title.complete, hmap fun n => ceilDiv n Config.anchorSpan]
    exact h1
  · rw [hentries]
    simp only [Title.complete, List.getElem?_map] at htr ⊢
    obtain ⟨u, hu, rfl⟩ := Option.map_eq_some_iff.mp htr
    obtain ⟨h4, h5, h6, -⟩ := htracks i u hu
    rw [← List.map_take, hmap fun n => n, hmap fun n => ceilDiv n Config.anchorSpan]
    exact ⟨h4, h5, h6, rfl⟩

theorem Title.complete_inOrder {x : Title} {m : List Host.Cell} {clips : List Nat} (hx : laidOut x)
    (hstate : x.state ≠ .ready) (h : x.InOrder m) :
    (x.complete clips).InOrder (x.tracks.foldl (writeAnchors x) m) := by
  intro i tr htr
  simp only [Title.complete, List.getElem?_map] at htr
  obtain ⟨u, hu, rfl⟩ := Option.map_eq_some_iff.mp htr
  have hall := h.congr_entries hx hstate fun n hn => foldl_writeAnchors_slot hx (fun _ h => h) m hn
  have horder := (hall i u hu).1
  refine ⟨horder, fun _ => ⟨horder, rfl, fun k hk => ?_⟩⟩
  have hanchor := foldl_writeAnchors_anchor hx hu m hk
  have harea := entryArea_le_entries hx hu
  have hreceived := (fits_of_laidOut hx).received u (List.mem_of_getElem? hu)
  have hk' : 32 * k < u.n := by
    have : k < ceilDiv u.n 32 := hk
    unfold ceilDiv at this
    omega
  change anchorAt (x.tracks.foldl (writeAnchors x) m) x u k = entryStart (x.tracks.foldl (writeAnchors x) m) x u (32 * k)
  have hsame : entryStart (x.tracks.foldl (writeAnchors x) m) x u (32 * k) = entryStart m x u (32 * k) := by
    unfold entryStart
    rw [foldl_writeAnchors_slot hx (fun _ h => h) m (by unfold entrySlot; omega)]
  rw [hsame]
  unfold anchorAt
  rw [hanchor]
  unfold anchorBytes
  rw [field_zero_le]
  refine Nat.mod_eq_of_lt ?_
  have hlt := leVal_lt (Memory.readRun cueEmpty m (entrySlot x u (32 * k) * 16) 3)
  rw [Memory.readRun_length] at hlt
  rw [entryStart_eq]
  exact hlt

theorem Title.complete_writes {x : Title} (hx : x.Fits) (m : List Host.Cell) :
    WritesWithin x.base x.count m (x.tracks.foldl (writeAnchors x) m) :=
  .foldl (fun m' _ htr => writeAnchors_writes hx htr m') m

theorem foldl_writeAnchors_wf (x : Title) (ts : List Track) {m : List Host.Cell} (h : Memory.wf cueEmpty m) :
    Memory.wf cueEmpty (ts.foldl (writeAnchors x) m) :=
  List.foldlRecOn ts _ h fun _ hm _ _ => List.foldlRecOn _ _ hm fun _ hm' _ _ => Memory.wf_write hm' _ _

theorem complete_keepsBlocks {s : State} {t : TitleNo} (hstate : (s.title t).state = .finishing)
    (hlen : (clipList s.titles.cue (s.title t)).length ≤ 256) (l : LoaderBlock) (hl : l = (s.closeLoad t).loader) :
    KeepsBlocks s { s with
      titles := { s.titles with
        recs := setAt s.titles.recs t ((s.title t).complete (clipList s.titles.cue (s.title t)))
        cue := (s.title t).tracks.foldl (writeAnchors (s.title t)) s.titles.cue }
      loader := l } := by
  subst hl
  have hready : (s.title t).state ≠ .ready := by rw [hstate]; decide
  have hfree : (s.title t).state ≠ .free := by rw [hstate]; decide
  refine .of_titleChange (t := t) (closeLoad_idleTime s t) (foldl_writeAnchors_wf _ _)
    (loadLaw_of_closeLoad (t := t) rfl fun v hv => (title_of_setAt rfl v).trans (if_neg hv))
    (.of_recs (x := (s.title t).complete (clipList s.titles.cue (s.title t))) rfl (fun hlay _ => ?_) ?_
      (fun hcue hlay v hv hlive n hn => ?_) fun hs _ => ?_)
  · exact Title.complete_laid (hlay t hfree).1 (clipList_rising _ _) hlen
  · exact RetouchesTitle.cueStoreLaw ⟨⟨_, rfl, ⟨fun e => (nomatch e), fun e => absurd e hfree⟩, rfl, rfl⟩, rfl⟩
  · exact (Title.complete_writes (fits_of_laidOut (hlay t hfree).1) s.titles.cue).slotAt
      (region_apart hcue hv hfree (by rw [Title.owns_of_not_free hlive]; exact hn))
  · exact Title.complete_inOrder (hs.2.1 t hfree).1 hready ((entryLaw_iff s).mp hs.2.2 t hfree)

theorem finishingCompletion_keepsBlocks (t : TitleNo) (s : State) : KeepsBlocks s (finishingCompletion t s) := by
  unfold finishingCompletion
  dsimp only
  split
  · rename_i hf
    obtain ⟨hstate, hlen⟩ := hf
    have hdone := complete_keepsBlocks hstate hlen (s.closeLoad t).loader rfl
    obtain ⟨l, hl⟩ := closeLoad_eq s t
    rw [hl] at hdone ⊢
    split
    · rename_i p _
      exact hdone.trans' (.of_flags rfl fun h => LinkBlock.latchLoadDone_attends h p t)
    · exact hdone
  · exact .rfl'

end Sys2Proof.Machine
end

/-! What a command can do to the blocks: it keeps their laws, or powers on, or resets, or ends an operation on the clip
store. -/
section
namespace Sys2Proof.Machine

open Sys2Proof.Safety

/-! ### The dispatch -/

/-- The state with the content of the clip store replaced. -/
def State.withFlash (s : State) (flash : List Host.Cell) : State := { s with store := { s.store with flash := flash } }

/-- The state with its operation done, the content of the clip store replaced (R191, R192). -/
def State.withDone (s : State) (flash : List Host.Cell) : State := { s with store := s.store.done flash }

/-- The commands that reset blocks or write the clip store. -/
def resetsOrWrites : Instr → Bool
  | .powerOn => true
  | .reset _ => true
  | .resetTakesEffect => true
  | .programCompletion => true
  | .eraseCompletion => true
  | _ => false

/-- What a request but RESET carries out. -/
def actOf : Instr → State → State × Reply
  | .loadOpen r => loadOpen r
  | .loadData r => loadData r
  | .loadFinish r => loadFinish r
  | .loadAbort r => loadAbort r
  | .unload r => unload r
  | .arm r => arm r
  | .run r => run r
  | .hold r => hold r
  | .darken r => darken r
  | .position r => position r
  | .assignFeed r => assignFeed r
  | .assignAir r => assignAir r
  | .report r => report r
  | .pull r => pull r
  | .sense r => sense r
  | .setLoadIdleTime r => setParam 5 120 storeLoadIdleTime r
  | .setKeepAliveTime r => setParam 10 600 storeKeepAlive r
  | .setUrgencyMargin r => setParam 60 2400 storeMargin r
  | .setJumpThreshold r => setParam 1 65535 (setClockParam fun c v => { c with jump := v }) r
  | .setGainExponent r => setParam 12 20 (setClockParam fun c v => { c with gain := v }) r
  | .setSilenceInterval r => setParam 120 12000 (setClockParam fun c v => { c with interval := v }) r
  | .setLead r => setParam 0 2400 storeLead r
  | .setCapacity r => setParam 512 4096 (setAirParam fun x v => { x with capacity := v }) r
  | .setRepeatPeriod r => setParam 1 64 (setAirParam fun x v => { x with repeatPeriod := v }) r
  | .setWindow r => setParam 0 1200 (setAirParam fun x v => { x with window := v }) r
  | .setBitRate r => setParam 9600 12000000 storeBitRate r
  | .stats r => stats r
  | .tableRead r => tableRead r
  | .cacheProbe r => cacheProbe r
  | .cacheFlush r => cacheFlush r
  | .clipDefine r => clipDefine r
  | .clipDelete r => clipDelete r
  | .clipWriteEnable r => clipWriteEnable r
  | .clipProgram r => clipProgram r
  | .clipErase r => clipErase r
  | .clipVerify r => clipVerify r
  | .clipProtect r => clipProtect r
  | _ => fun s => (s, Reply.ok)

/-- A request but RESET carries out its effect; a SET whose parameter is another row's changes nothing (log 21). -/
theorem exec_request {i : Instr} {r : Req} {k : Byte} (hi : asRequest i = some (r, k)) (hk : ∀ x, i ≠ .reset x)
    (s : State) : exec i s = .next (request r k (actOf i) s) ∨ i.wellFormed = false ∧ exec i s = .next s := by
  have hset : ∀ {param lo hi : Nat} {store : Nat → Nat → State → Option State} {r : Req},
      setRequest param lo hi store r s = request r 16 (setParam lo hi store r) s ∨
        r.wellFormedSet param = false ∧ setRequest param lo hi store r s = s := fun {param _ _ _ r} => by
    unfold setRequest Req.wellFormedSet
    cases r.setsOwn param with
    | true => exact .inl rfl
    | false => exact .inr ⟨Bool.and_false _, rfl⟩
  cases i with
  | reset r =>
    cases hi
    exact absurd rfl (hk r)
  | setLoadIdleTime r | setKeepAliveTime r | setUrgencyMargin r | setJumpThreshold r | setGainExponent r | setSilenceInterval r
  | setLead r | setCapacity r | setRepeatPeriod r | setWindow r | setBitRate r =>
    cases hi
    exact hset.imp (congrArg Host.Outcome.next) fun ⟨h, e⟩ => ⟨h, congrArg Host.Outcome.next e⟩
  | loadOpen r | loadData r | loadFinish r | loadAbort r | unload r | arm r | run r | hold r | darken r
  | position r | assignFeed r | assignAir r | report r | pull r | sense r | stats r | tableRead r | cacheProbe r
  | cacheFlush r | clipDefine r | clipDelete r | clipWriteEnable r | clipProgram r | clipErase r | clipVerify r | clipProtect r =>
    cases hi
    exact .inl rfl
  | _ => cases hi

/-- The effect of a request keeps the laws of the blocks, and the receivers of the ports. -/
theorem actOf_keepsBlocks (i : Instr) (s : State) : KeepsBlocks s (actOf i s).1 := by
  cases i with
  | loadOpen r => exact loadOpen_keepsBlocks r s
  | loadData r => exact loadData_keepsBlocks r s
  | loadFinish r => exact loadFinish_keepsBlocks r s
  | loadAbort r => exact loadAbort_keepsBlocks r s
  | unload r => exact unload_keepsBlocks r s
  | arm r => exact arm_keepsBlocks r s
  | run r => exact run_keepsBlocks r s
  | hold r => exact hold_keepsBlocks r s
  | darken r => exact darken_keepsBlocks r s
  | position r => exact position_keepsBlocks r s
  | assignFeed r => exact assignFeed_keepsBlocks r s
  | assignAir r => exact assignAir_keepsBlocks r s
  | report r => exact report_keepsBlocks r s
  | pull r => exact pull_keepsBlocks r s
  | sense r => exact sense_keepsBlocks r s
  | stats r => exact stats_keepsBlocks r s
  | tableRead r => exact tableRead_keepsBlocks r s
  | cacheProbe r => exact cacheProbe_keepsBlocks r s
  | cacheFlush r => exact cacheFlush_keepsBlocks r s
  | clipDefine r => exact clipDefine_keepsBlocks r s
  | clipDelete r => exact clipDelete_keepsBlocks r s
  | clipWriteEnable r => exact clipWriteEnable_keepsBlocks r s
  | clipProgram r => exact clipProgram_keepsBlocks r s
  | clipErase r => exact clipErase_keepsBlocks r s
  | clipVerify r => exact clipVerify_keepsBlocks r s
  | clipProtect r => exact clipProtect_keepsBlocks r s
  | setLoadIdleTime r => exact setParam_keepsBlocks (by decide) storeLoadIdleTime_keepsBlocks r s
  | setKeepAliveTime r => exact setParam_keepsBlocks (by decide) storeKeepAlive_keepsBlocks r s
  | setUrgencyMargin r => exact setParam_keepsBlocks (by decide) storeMargin_keepsBlocks r s
  | setJumpThreshold r =>
    exact setParam_keepsBlocks (by decide) (setClockParam_keepsBlocks (f := fun c v => { c with jump := v }) fun _ _ hlo hhi h => ⟨⟨hlo, hhi⟩, h.2⟩) r s
  | setGainExponent r =>
    exact setParam_keepsBlocks (by decide) (setClockParam_keepsBlocks (f := fun c v => { c with gain := v }) fun _ _ hlo hhi h => ⟨h.1, ⟨hlo, hhi⟩, h.2.2⟩) r s
  | setSilenceInterval r =>
    exact setParam_keepsBlocks (by decide) (setClockParam_keepsBlocks (f := fun c v => { c with interval := v }) fun _ _ hlo hhi h => ⟨h.1, h.2.1, hlo, hhi⟩) r s
  | setLead r => exact setParam_keepsBlocks (by decide) storeLead_keepsBlocks r s
  | setCapacity r =>
    exact setParam_keepsBlocks (by decide) (setAirParam_keepsBlocks (f := fun x v => { x with capacity := v }) fun _ _ hlo hhi h => ⟨h.1, ⟨hlo, hhi⟩, h.2.2⟩) r s
  | setRepeatPeriod r =>
    exact setParam_keepsBlocks (by decide) (setAirParam_keepsBlocks (f := fun x v => { x with repeatPeriod := v }) fun _ _ hlo hhi h => ⟨h.1, h.2.1, ⟨hlo, hhi⟩, h.2.2.2⟩) r s
  | setWindow r =>
    exact setParam_keepsBlocks (by decide) (setAirParam_keepsBlocks (f := fun x v => { x with window := v }) fun _ _ _ hhi h => ⟨h.1, h.2.1, h.2.2.1, hhi⟩) r s
  | setBitRate r => exact setParam_keepsBlocks (by decide) storeBitRate_keepsBlocks r s
  | _ => exact .rfl'

/-- A command that neither resets nor writes the clip store keeps the laws of the blocks. -/
theorem exec_keepsLaws {i : Instr} (hi : resetsOrWrites i = false) (s : State) :
    ∃ t, exec i s = .next t ∧ KeepsLaws s t := by
  cases hreq : asRequest i with
  | some x =>
    have hk : ∀ r, i ≠ .reset r := fun r e => by rw [e] at hi; cases hi
    obtain h | ⟨-, h⟩ := exec_request hreq hk s
    · exact ⟨_, h, request_keepsLaws (actOf_keepsBlocks i s) _ _⟩
    · exact ⟨_, h, .rfl'⟩
  | none =>
    cases i with
    | powerOn | resetTakesEffect | programCompletion | eraseCompletion => cases hi
    | houseTick => exact ⟨_, rfl, (houseTick_keepsBlocks s).toKeepsLaws⟩
    | silenceBoundary a => exact ⟨_, rfl, (silenceBoundary_keepsBlocks a s).toKeepsLaws⟩
    | houseSecondBoundary => exact ⟨_, rfl, (houseSecondBoundary_keepsBlocks s).toKeepsLaws⟩
    | keepAliveExpiry => exact ⟨_, rfl, (keepAliveExpiry_keepsBlocks s).toKeepsLaws⟩
    | loadIdleTimeout t => exact ⟨_, rfl, (loadIdleTimeout_keepsBlocks t s).toKeepsLaws⟩
    | finishingCompletion t => exact ⟨_, rfl, (finishingCompletion_keepsBlocks t s).toKeepsLaws⟩
    | clipListOverflow t => exact ⟨_, rfl, (clipListOverflow_keepsBlocks t s).toKeepsLaws⟩
    | bitRateChangeApplies p => exact ⟨_, rfl, (bitRateChangeApplies_keepsBlocks p s).toKeepsLaws⟩
    | flashArbiterChoice => exact ⟨_, rfl, (arbiterChoice_keepsBlocks s).toKeepsLaws⟩
    | fetchCompletion => exact ⟨_, rfl, (fetchCompletion_keepsBlocks s).toKeepsLaws⟩
    | verifyTurnCompletion => exact ⟨_, rfl, (verifyTurnCompletion_keepsBlocks s).toKeepsLaws⟩
    | frameCheckFail p => exact ⟨_, rfl, frameCheckFail_keepsLaws p s⟩
    | frameLengthDiscard p => exact ⟨_, rfl, frameLengthDiscard_keepsLaws p s⟩
    | frameGapTimeout p => exact ⟨_, rfl, discardPartial_keepsLaws p s⟩
    | breakCondition p => exact ⟨_, rfl, discardPartial_keepsLaws p s⟩
    | owedByteDiscard p => exact ⟨_, rfl, owedByte_keepsLaws s p⟩
    | unknownRequest p kind tag => exact ⟨_, rfl, unknownRequest_keepsLaws p kind tag s⟩
    | responseSent p => exact ⟨_, rfl, responseSent_keepsLaws p s⟩
    | syncByte p => exact ⟨_, rfl, syncByte_keepsLaws p s⟩
    | _ => cases hreq

/-- What a command can do to the blocks. -/
inductive Effect (s t : State) : Prop
  | keeps (h : KeepsLaws s t)
  | powersOn (h : t = powerOn s)
  | resets (flash : List Host.Cell) (hf : flash = s.store.flash ∨ finishedFlash s.store = some flash)
      (h : KeepsLaws (resetAll (s.withFlash flash)) t)
  | completes (flash : List Host.Cell) (hf : finishedFlash s.store = some flash) (h : KeepsLaws (s.withDone flash) t)

theorem resetRequest_effect (r : Req) (s : State) : Effect s (resetRequest r s) := by
  unfold resetRequest
  split
  · unfold resetTaken
    split
    · refine .keeps ((setRx_keepsLaws s .m (.owed none false)).trans' (.of_link ⟨?_, id⟩))
      exact (LinkBlock.attends_congr rfl rfl rfl rfl rfl).mpr
    · exact .resets s.store.flash (.inl rfl) (owe_keepsLaws _ _ _)
  · exact .keeps (request_keepsLaws .rfl' r _)

theorem resetTakesEffect_effect (s : State) : Effect s (resetTakesEffect s) := by
  unfold resetTakesEffect
  split
  · rename_i tag flash _ hf
    exact .resets flash (.inr hf) (setRx_keepsLaws _ _ _)
  · exact .keeps .rfl'

theorem programCompletion_effect (s : State) : Effect s (programCompletion s) := by
  unfold programCompletion
  split
  · rename_i block data check hop
    split
    · exact resetTakesEffect_effect s
    · refine .completes (programPage s.store.flash block data check) (by unfold finishedFlash; rw [hop]) ?_
      exact .of_link (LinkBlock.keeps_of_ports rfl fun h => LinkBlock.latchProgramDone_attends h block)
  · exact .keeps .rfl'

theorem eraseCompletion_effect (s : State) : Effect s (eraseCompletion s) := by
  unfold eraseCompletion
  split
  · rename_i sector hop
    split
    · exact resetTakesEffect_effect s
    · refine .completes (eraseSector s.store.flash sector) (by unfold finishedFlash; rw [hop]) ?_
      exact .of_link (LinkBlock.keeps_of_ports rfl fun h => LinkBlock.latchEraseDone_attends h sector)
  · exact .keeps .rfl'

/-- Every command completes with one of these effects. -/
theorem exec_effect (i : Instr) (s : State) : ∃ t, exec i s = .next t ∧ Effect s t := by
  by_cases hi : resetsOrWrites i = false
  · obtain ⟨t, hexec, ht⟩ := exec_keepsLaws hi s
    exact ⟨t, hexec, .keeps ht⟩
  cases i with
  | powerOn => exact ⟨_, rfl, .powersOn rfl⟩
  | reset r => exact ⟨_, rfl, resetRequest_effect r s⟩
  | resetTakesEffect => exact ⟨_, rfl, resetTakesEffect_effect s⟩
  | programCompletion => exact ⟨_, rfl, programCompletion_effect s⟩
  | eraseCompletion => exact ⟨_, rfl, eraseCompletion_effect s⟩
  | _ => exact absurd rfl hi

/-- The state whose front command a step runs; an idle step runs none. -/
theorem step_effect {s t : State} (h : step s = .next t) :
    t = s ∨ ∃ rest, Effect { s with pending := rest } t := by
  unfold step at h
  split at h
  · cases h
    exact .inl rfl
  · rename_i i rest _
    obtain ⟨u, hexec, hu⟩ := exec_effect i { s with pending := rest }
    rw [hexec] at h
    cases h
    exact .inr ⟨rest, hu⟩

/-- A law that does not read the queue and that every effect keeps is kept by every step. -/
theorem step_keeps {P : State → Prop} (hqueue : ∀ s rest, P s → P { s with pending := rest })
    (heffect : ∀ s t, Effect s t → P s → P t) {s t : State} (h : step s = .next t) (hs : P s) : P t := by
  obtain rfl | ⟨rest, he⟩ := step_effect h
  · exact hs
  · exact heffect _ _ he (hqueue s rest hs)

end Sys2Proof.Machine
end

/-! The values of a reset meet the laws that read one block; the laws that every step keeps (R211, R121, R129, R183, R187,
R188, R25, R13 to R15). -/
section
namespace Sys2Proof.Machine

open Sys2Proof.Safety

/-! ### The values of a reset (R199, R212, R213) -/

/-- Lines at rest and flags clear attend (R211). -/
theorem LinkBlock.attends_of_clear {l : LinkBlock} (hload : l.load = LinkBlock.reset.load)
    (hfeed : l.feed = LinkBlock.reset.feed) (hair : l.air = LinkBlock.reset.air)
    (hmgmt : l.mgmt = LinkBlock.reset.mgmt) (hattention : l.attention = LinkBlock.reset.attention) : l.attends := by
  intro p
  cases p <;>
    simp [LinkBlock.flagged, hload, hfeed, hair, hmgmt, hattention, LinkBlock.reset, LoadFlags.any, LoadFlags.clear,
      FeedFlags.any, FeedFlags.clear, AirFlags.any, AirFlags.clear, MgmtFlags.any, MgmtFlags.clear]

theorem LinkBlock.reset_attends : LinkBlock.reset.attends := LinkBlock.attends_of_clear rfl rfl rfl rfl rfl

theorem LinkBlock.afterReset_attends (l : LinkBlock) : l.afterReset.attends :=
  LinkBlock.attends_of_clear rfl rfl rfl rfl rfl

theorem LinkBlock.reset_ratesIn : LinkBlock.reset.RatesIn := by
  intro p
  simp [LinkBlock.reset, PortLink.reset, PortLink.RatesIn]

/-- A reset leaves the bit rates of the ports (R202, R212). -/
theorem LinkBlock.afterReset_ratesIn {l : LinkBlock} (h : l.RatesIn) : l.afterReset.RatesIn := by
  intro p
  have hp := h p
  simpa [LinkBlock.afterReset, PortLink.afterReset, PortLink.RatesIn] using hp

theorem ReceiverBlock.reset_uniqueIds : ReceiverBlock.reset.UniqueIds := by
  intro i j hi
  simp [ReceiverBlock.reset, Receiver.free] at hi

theorem ReceiverBlock.reset_counted : ReceiverBlock.reset.Counted := by
  intro a t
  have hnone : (allRecs.countP fun i => ReceiverBlock.reset.recs[i].wants a t) = 0 :=
    List.countP_eq_zero.mpr fun i _ => by simp [ReceiverBlock.reset, Receiver.free, Receiver.wants]
  rw [hnone]
  simp [ReceiverBlock.reset]

theorem AudClock.reset_settingsIn : AudClock.reset.SettingsIn := by simp [AudClock.reset, AudClock.SettingsIn]

theorem AirParams.reset_settingsIn : AirParams.reset.SettingsIn := by simp [AirParams.reset, AirParams.SettingsIn]

theorem StreamBlock.reset_bounded : StreamBlock.reset.Bounded := by
  refine ⟨fun i => ?_, ?_⟩ <;> simp [StreamBlock.reset, Stream.reset]

theorem StoreBlock.reset_ordered : StoreBlock.reset.Ordered := by
  refine ⟨fun c => ?_, fun c d n hc _ => ?_⟩
  · simp [StoreBlock.reset, ClipEntry.clear]
  · simp [StoreBlock.reset, ClipEntry.clear, inExtent] at hc

/-- Every setting after a reset lies in its range, where the bit rates do (R207). -/
theorem settingsLaw_of_reset {s : State} (hloader : s.loader = LoaderBlock.reset) (hrcv : s.rcv = ReceiverBlock.reset)
    (hmargin : s.store.margin = StoreBlock.reset.margin) (hclock : s.clock = ClockBlock.reset)
    (hframe : s.frame = FrameBlock.reset) (hrates : s.link.RatesIn) : SettingsLaw s := by
  refine (settingsLaw_iff s).mpr ⟨?_, ?_, ?_, fun a => ?_, fun p => ?_, hrates⟩
  · rw [hloader]; decide
  · rw [hrcv]; decide
  · rw [hmargin]; decide
  · rw [hclock]
    simpa [ClockBlock.reset] using AudClock.reset_settingsIn
  · rw [hframe]
    simpa [FrameBlock.reset] using AirParams.reset_settingsIn

/-- Every title FREE and every context CLOSED meet the laws of titles and loads (R24, R45). -/
theorem loadLaw_of_reset {s : State} (h : s.loader = LoaderBlock.reset) : LoadLaw s := by
  refine (loadLaw_iff s).mpr fun p t => ?_
  simp [h, LoaderBlock.reset]

theorem layoutLaw_of_reset {s : State} (h : TitlesReset s) : LayoutLaw s := fun t ht =>
  absurd (by rw [h.title t]; rfl) ht

theorem entryLaw_of_reset {s : State} (h : TitlesReset s) : EntryLaw s := fun t _ _ ht =>
  absurd (by rw [h.title t]; rfl) ht

/-! ### The content of the clip store (R181, R191, R192) -/

theorem read_eraseSector (m : List Host.Cell) (sector a : Nat) : Memory.read flashEmpty (eraseSector m sector) a =
    if 8448 * sector ≤ a ∧ a < 8448 * sector + 8448 then 0xFF else Memory.read flashEmpty m a := by
  unfold eraseSector sectorAddr
  rw [Memory.read_clear]
  simp only [sectorBytes, Config.sectorPages, Config.pageBytes, Nat.reduceMul, Nat.mul_comm sector]

theorem eraseSector_erased (m : List Host.Cell) (sector : Nat) : erased m (eraseSector m sector) sector :=
  read_eraseSector m sector

theorem programPage_programmed {data : List Byte} (h : data.length = 512) (m : List Host.Cell) (block check : Nat) :
    programmed m (programPage m block data check) block data check := by
  intro a
  have hlen : (data ++ le 2 check ++ List.replicate 14 0xFF).length = 528 := by simp [h]
  unfold programPage
  dsimp only
  rw [Memory.read_write]
  simp only [List.length_zipWith, Memory.readRun_length, hlen, min_self, Config.pageBytes, Nat.mul_comm block]
  split
  · rename_i hin
    have hget : a - 528 * block < (data ++ le 2 check ++ List.replicate 14 0xFF).length := by omega
    rw [List.getElem_zipWith, Memory.readRun_get, Nat.add_sub_cancel' hin.1, List.getD_eq_getElem _ _ hget]
  · rfl

/-- A program or erase leaves each block outside its sector. -/
theorem finishedFlash_read {b : StoreBlock} {flash : List Host.Cell} (hpage : b.HoldsPage)
    (h : finishedFlash b = some flash) {n : Nat} (hn : ∀ sector, b.op.targetSector = some sector → n / 16 ≠ sector)
    {k : Nat} (hk : k < 528) : Memory.read flashEmpty flash (528 * n + k) = Memory.read flashEmpty b.flash (528 * n + k) := by
  unfold finishedFlash at h
  split at h
  · rename_i block data check hop
    cases h
    have hsector := hn (block / 16) (by rw [hop]; rfl)
    rw [programPage_programmed (hpage _ _ _ _ hop) b.flash block check]
    have hne : n ≠ block := fun e => hsector (by rw [e])
    exact if_neg (by omega)
  · rename_i sector hop
    cases h
    have hsector := hn sector (by rw [hop]; rfl)
    rw [read_eraseSector]
    exact if_neg (by omega)
  · cases h

theorem finishedFlash_wf {b : StoreBlock} {flash : List Host.Cell} (h : finishedFlash b = some flash)
    (hb : Memory.wf flashEmpty b.flash) : Memory.wf flashEmpty flash := by
  unfold finishedFlash at h
  split at h
  · cases h; exact Memory.wf_write hb _ _
  · cases h; exact Memory.wf_clear hb _ _
  · cases h

theorem Maintenance.targetSector_of_erasing {op : Maintenance} {sector : Nat} (h : op.erasing = some sector) :
    op.targetSector = some sector := by
  cases op with
  | none => cases h
  | program st block data check => cases h
  | verify st clip first length read failed => cases h
  | erase st n =>
    simp only [Maintenance.erasing] at h
    split at h
    · cases h
    · exact h

/-- What power-on finds in each block outside the sector of a started erase (R200). -/
theorem powerOnFlash_read (b : StoreBlock) {n : Nat} (hn : ∀ sector, b.op.targetSector = some sector → n / 16 ≠ sector)
    {k : Nat} (hk : k < 528) :
    Memory.read flashEmpty (powerOnFlash b) (528 * n + k) = Memory.read flashEmpty b.flash (528 * n + k) := by
  unfold powerOnFlash
  split
  · rename_i sector herasing
    have hne := hn sector (Maintenance.targetSector_of_erasing herasing)
    rw [read_eraseSector]
    exact if_neg (by omega)
  · rfl

theorem powerOnFlash_wf {b : StoreBlock} (hb : Memory.wf flashEmpty b.flash) : Memory.wf flashEmpty (powerOnFlash b) := by
  unfold powerOnFlash
  split
  · exact Memory.wf_clear hb _ _
  · exact hb

/-! ### Laws that every step keeps -/

/-- Settles O52: every latched condition and every cleared one moves its port's line with it; a reset clears both. -/
theorem everyStepKeepsAttention : Obligations.EveryStepKeepsAttention := by
  intro s t hs hstep
  refine step_keeps (P := AttentionLaw) (fun _ _ h => h) (fun s t he h => ?_) hstep hs
  cases he with
  | keeps hk => exact hk.link.attends h
  | powersOn ht => rw [ht]; exact LinkBlock.reset_attends
  | resets flash _ hk => exact hk.link.attends (LinkBlock.afterReset_attends _)
  | completes flash _ hk => exact hk.link.attends h

/-- Settles O56: a record is bound to an id that no other holds, and each change of a record changes the counts of its two
tracks; a reset frees every record. -/
theorem everyStepKeepsTheReceivers : Obligations.EveryStepKeepsTheReceivers := by
  intro s t hstep
  refine ⟨step_keeps (P := ReceiverLaw) (fun _ _ h => h) (fun s t he h => ?_) hstep,
    step_keeps (P := CountLaw) (fun _ _ h => h) (fun s t he h => ?_) hstep⟩
  · cases he with
    | keeps hk => exact hk.rcv.ids h
    | powersOn ht => rw [ht]; exact ReceiverBlock.reset_uniqueIds
    | resets flash _ hk => exact hk.rcv.ids ReceiverBlock.reset_uniqueIds
    | completes flash _ hk => exact hk.rcv.ids h
  · cases he with
    | keeps hk => exact hk.rcv.counts h
    | powersOn ht => rw [ht]; exact ReceiverBlock.reset_counted
    | resets flash _ hk => exact hk.rcv.counts ReceiverBlock.reset_counted
    | completes flash _ hk => exact hk.rcv.counts h

/-- Rings and pool within their limits stay so (R163, R189). -/
theorem step_streamLaw {s t : State} (hstep : step s = .next t) : StreamLaw s → StreamLaw t := by
  refine step_keeps (P := StreamLaw) (fun _ _ h => h) (fun s t he h => ?_) hstep
  cases he with
  | keeps hk => exact hk.stream h
  | powersOn ht => rw [ht]; exact StreamBlock.reset_bounded
  | resets flash _ hk => exact hk.stream StreamBlock.reset_bounded
  | completes flash _ hk => exact hk.stream h

theorem KeepsLaws.settingsLaw {s t : State} (hk : KeepsLaws s t) (h : SettingsLaw s) : SettingsLaw t := by
  obtain ⟨hidle, halive, hmargin, hclock, hair, hrates⟩ := (settingsLaw_iff s).mp h
  exact (settingsLaw_iff t).mpr ⟨hk.idle hidle, hk.rcv.keepAlive halive, hk.store.margin hmargin,
    fun a => hk.clock a (hclock a), fun p => hk.air p (hair p), hk.link.rates hrates⟩

/-- Settings in their ranges stay so (R207). -/
theorem step_settingsLaw {s t : State} (hstep : step s = .next t) : SettingsLaw s → SettingsLaw t := by
  refine step_keeps (P := SettingsLaw) (fun _ _ h => h) (fun s t he h => ?_) hstep
  cases he with
  | keeps hk => exact hk.settingsLaw h
  | powersOn ht => rw [ht]; exact settingsLaw_of_reset rfl rfl rfl rfl rfl LinkBlock.reset_ratesIn
  | resets flash _ hk =>
    obtain ⟨-, -, -, -, -, hrates⟩ := (settingsLaw_iff s).mp h
    exact hk.settingsLaw (settingsLaw_of_reset rfl rfl rfl rfl rfl (LinkBlock.afterReset_ratesIn hrates))
  | completes flash _ hk => exact hk.settingsLaw h

/-- A block of a clip lies in a sector that the clip has a block in. -/
theorem inSector_of_inExtent {d : ClipEntry} {n : Nat} (h : inExtent d n) : d.inSector (n / 16) = true := by
  obtain ⟨hdef, h1, h2⟩ := h
  simp only [ClipEntry.inSector, hdef, Config.sectorPages, Bool.true_and, Bool.and_eq_true, decide_eq_true_eq]
  omega

/-- The content that an effect leaves in the blocks of clips in use (R188). -/
theorem Effect.flash_read {s t : State} (he : Effect s t) (hi : s.store.Interlocked) (hp : s.store.HoldsPage)
    {c : ClipNo} {n k : Nat} (hc : s.store.inUse[c] ≠ 0) (hn : inExtent s.store.directory[c] n) (hk : k < 528) :
    Memory.read flashEmpty t.store.flash (528 * n + k) = Memory.read flashEmpty s.store.flash (528 * n + k) := by
  have hsector : ∀ sector, s.store.op.targetSector = some sector → n / 16 ≠ sector := fun sector hs e => by
    have hclear := hi sector hs c hc
    rw [← e, inSector_of_inExtent hn] at hclear
    cases hclear
  cases he with
  | keeps hkeeps => rw [hkeeps.store.flash]
  | powersOn ht => rw [ht]; exact powerOnFlash_read s.store hsector hk
  | resets flash hf hkeeps =>
    rw [hkeeps.store.flash]
    obtain rfl | hf := hf
    · rfl
    · exact finishedFlash_read hp hf hsector hk
  | completes flash hf hkeeps =>
    rw [hkeeps.store.flash]
    exact finishedFlash_read hp hf hsector hk

theorem Effect.clipStore {s t : State} (he : Effect s t) :
    (s.store.Interlocked → t.store.Interlocked) ∧ (s.store.Ordered → t.store.Ordered) ∧
      (s.store.HoldsPage → t.store.HoldsPage) := by
  cases he with
  | keeps hk => exact ⟨hk.store.interlock, hk.store.directory, hk.store.page⟩
  | powersOn ht =>
    rw [ht]
    exact ⟨fun _ _ h => (nomatch h), fun _ => StoreBlock.reset_ordered, fun _ _ _ _ _ h => (nomatch h)⟩
  | resets flash _ hk =>
    exact ⟨fun _ => hk.store.interlock fun _ h => (nomatch h), fun h => hk.store.directory h,
      fun _ => hk.store.page fun _ _ _ _ h => (nomatch h)⟩
  | completes flash _ hk =>
    exact ⟨fun _ => hk.store.interlock fun _ h => (nomatch h), fun h => hk.store.directory h,
      fun _ => hk.store.page fun _ _ _ _ h => (nomatch h)⟩

/-- Settles O58: only the end of a program or erase, at its completion or at power-on, writes the clip store, and only in
the sector that the interlock keeps clear of clips in use. -/
theorem everyStepKeepsTheClipStore : Obligations.EveryStepKeepsTheClipStore := by
  intro s t hi hd hp hstep
  obtain rfl | ⟨rest, he⟩ := step_effect hstep
  · exact ⟨hi, hd, hp, fun _ _ _ _ _ _ => rfl⟩
  · obtain ⟨hinter, hdir, hpage⟩ := he.clipStore
    exact ⟨hinter hi, hdir hd, hpage hp, fun c b k hc hb hk => he.flash_read hi hp hc hb hk⟩

/-- Settles O59: a load command writes in the region of its title alone, which keeps its layout and order; a reset frees
every title. -/
theorem everyStepKeepsTheLoads : Obligations.EveryStepKeepsTheLoads := by
  intro s t hstep
  refine ⟨step_keeps (P := MemoryLaw) (fun _ _ h => h) (fun s t he h => ?_) hstep,
    step_keeps (P := LoadLaw) (fun _ _ h => h) (fun s t he h => ?_) hstep,
    step_keeps (P := LayoutLaw) (fun _ _ h => h) (fun s t he h => ?_) hstep, fun hcue hlay hentry =>
    (step_keeps (P := EntriesSound) (fun _ _ h => h) (fun s t he h => ?_) hstep ⟨hcue, hlay, hentry⟩).2.2⟩
  · obtain ⟨hcue, hflash⟩ := h
    cases he with
    | keeps hk => exact ⟨hk.cue hcue, hk.store.flash ▸ hflash⟩
    | powersOn ht => rw [ht]; exact ⟨Memory.wf_nil _, powerOnFlash_wf hflash⟩
    | resets flash hf hk =>
      refine ⟨hk.cue hcue, hk.store.flash ▸ ?_⟩
      obtain rfl | hf := hf
      · exact hflash
      · exact finishedFlash_wf hf hflash
    | completes flash hf hk => exact ⟨hk.cue hcue, hk.store.flash ▸ finishedFlash_wf hf hflash⟩
  · cases he with
    | keeps hk => exact hk.loads h
    | powersOn ht => rw [ht]; exact loadLaw_of_reset rfl
    | resets flash _ hk => exact hk.loads (loadLaw_of_reset rfl)
    | completes flash _ hk => exact hk.loads h
  · cases he with
    | keeps hk => exact hk.layout h
    | powersOn ht => rw [ht]; exact layoutLaw_of_reset (powerOn_titlesReset s)
    | resets flash _ hk => exact hk.layout (layoutLaw_of_reset (resetAll_titlesReset _))
    | completes flash _ hk => exact hk.layout h
  · cases he with
    | keeps hk => exact hk.entries h
    | powersOn ht =>
      rw [ht]
      exact ⟨powerOn_cueStoreLaw s, layoutLaw_of_reset (powerOn_titlesReset s), entryLaw_of_reset (powerOn_titlesReset s)⟩
    | resets flash _ hk =>
      exact hk.entries ⟨resetAll_cueStoreLaw _, layoutLaw_of_reset (resetAll_titlesReset _),
        entryLaw_of_reset (resetAll_titlesReset _)⟩
    | completes flash _ hk => exact hk.entries h

/-- What holds the flash agrees with the maintenance record after every step (R173, R189). -/
theorem step_flashLaw {s t : State} (hstep : step s = .next t) : FlashLaw s → FlashLaw t := by
  refine step_keeps (P := FlashLaw) (fun _ _ h => h) (fun s t he h => ?_) hstep
  cases he with
  | keeps hk => exact hk.store.agrees h
  | powersOn ht => rw [ht]; exact .inl rfl
  | resets flash _ hk => exact hk.store.agrees (.inl rfl)
  | completes flash _ hk => exact hk.store.agrees (.inl rfl)

end Sys2Proof.Machine
end

/-! The suspension of an erase through every command: a command that can make a record urgent ends with the suspension
test, and every other leaves what urgency reads (R172, R193, R199). -/
section
namespace Sys2Proof.Machine

open Sys2Proof.Safety

/-! ### What urgency reads -/

/-- `t` has the operation, the waiting RESET, the margin, the pool and the airing instants of `s`. -/
structure EraseFrame (s t : State) : Prop where
  op : t.store.op = s.store.op
  tag : t.link.resetTag = s.link.resetTag
  margin : t.store.margin = s.store.margin
  pool : t.stream.pool = s.stream.pool
  airing : ∀ a, airing t a = airing s a

theorem EraseFrame.rfl' {s : State} : EraseFrame s s := ⟨rfl, rfl, rfl, rfl, fun _ => rfl⟩

theorem EraseFrame.trans' {s t u : State} (h : EraseFrame s t) (h' : EraseFrame t u) : EraseFrame s u :=
  ⟨h'.op.trans h.op, h'.tag.trans h.tag, h'.margin.trans h.margin, h'.pool.trans h.pool,
    fun a => (h'.airing a).trans (h.airing a)⟩

theorem EraseFrame.urgent {s t : State} (h : EraseFrame s t) : urgent t = urgent s := by
  unfold Machine.urgent slack
  simp only [h.pool, h.margin, h.airing]

theorem EraseFrame.suspensionLaw {s t : State} (h : EraseFrame s t) (hs : SuspensionLaw s) : SuspensionLaw t := by
  intro sector hop htag
  rw [h.urgent]
  exact hs sector (h.op ▸ hop) (h.tag ▸ htag)

/-- `t` has the stream entries, the UNSERVED marks and the subscriber counts of `s`. -/
structure SameStreams (s t : State) : Prop where
  entries : t.stream.entries = s.stream.entries
  unserved : t.stream.unserved = s.stream.unserved
  counts : t.rcv.counts = s.rcv.counts

theorem SameStreams.rfl' {s : State} : SameStreams s s := ⟨rfl, rfl, rfl⟩

theorem SameStreams.trans' {s t u : State} (h : SameStreams s t) (h' : SameStreams t u) : SameStreams s u :=
  ⟨h'.entries.trans h.entries, h'.unserved.trans h.unserved, h'.counts.trans h.counts⟩

/-- `t` has what urgency reads of `s`, and its streams. -/
structure StillFrame (s t : State) : Prop extends EraseFrame s t where
  streams : SameStreams s t

theorem StillFrame.rfl' {s : State} : StillFrame s s := ⟨.rfl', .rfl'⟩

theorem StillFrame.trans' {s t u : State} (h : StillFrame s t) (h' : StillFrame t u) : StillFrame s u :=
  ⟨h.toEraseFrame.trans' h'.toEraseFrame, h.streams.trans' h'.streams⟩

/-- The blocks that urgency reads stand. -/
theorem StillFrame.of_blocks {s t : State} (htag : t.link.resetTag = s.link.resetTag) (hstore : t.store = s.store)
    (hstream : t.stream = s.stream) (hclock : t.clock = s.clock) (hshows : t.shows = s.shows)
    (hframe : t.frame = s.frame) (hcounts : t.rcv.counts = s.rcv.counts) :
    StillFrame s t := by
  refine ⟨⟨by rw [hstore], htag, by rw [hstore], by rw [hstream], fun a => ?_⟩, by rw [hstream], by rw [hstream], hcounts⟩
  unfold Machine.airing lead
  rw [hclock, hshows, hframe]

/-- Contexts that keep their air ports leave the airing instants. -/
theorem setShow_stillFrame {s : State} {a : Aud} {c : Context} (h : c.airPort = s.shows[a].airPort) :
    StillFrame s (s.setShow a c) := by
  refine ⟨⟨rfl, rfl, rfl, rfl, fun b => ?_⟩, rfl, rfl, rfl⟩
  have hport : (s.setShow a c).shows[b].airPort = s.shows[b].airPort := by
    by_cases e : a = b
    · subst e
      exact (congrArg Context.airPort (setAt_self _ _ _)).trans h
    · exact congrArg Context.airPort (setAt_other _ _ e)
  unfold airing lead
  rw [hport]
  rfl

/-- Clocks that keep their positions leave the airing instants. -/
theorem setClock_stillFrame {s : State} {a : Aud} {c : AudClock} (h : c.pos = s.clock.auds[a].pos) :
    StillFrame s (s.setClock a c) := by
  refine ⟨⟨rfl, rfl, rfl, rfl, fun b => ?_⟩, rfl, rfl, rfl⟩
  have hpos : (s.setClock a c).clock.auds[b].pos = s.clock.auds[b].pos := by
    by_cases e : a = b
    · subst e
      exact (congrArg AudClock.pos (setAt_self _ _ _)).trans h
    · exact congrArg AudClock.pos (setAt_other _ _ e)
  unfold airing showTime
  rw [hpos]
  rfl

/-- Air ports that keep their leads leave the airing instants. -/
theorem modAir_stillFrame {s : State} {p : Fin 2} {f : AirParams → AirParams} (h : ∀ x, (f x).lead = x.lead) :
    StillFrame s { s with frame := { s.frame with air := modAt s.frame.air p f } } := by
  refine ⟨⟨rfl, rfl, rfl, rfl, fun b => ?_⟩, rfl, rfl, rfl⟩
  unfold airing lead
  dsimp only
  cases s.shows[b].airPort with
  | none => rfl
  | some n =>
    dsimp only
    rw [show (modAt s.frame.air p f)[n].lead = s.frame.air[n].lead by
      simp only [Fin.getElem_fin, modAt_get]
      split
      · exact h _
      · rfl]

theorem freeTitle_stillFrame (t : TitleNo) (s : State) : StillFrame s (s.freeTitle t) := by
  obtain ⟨l, hl⟩ := freeTitle_eq s t
  rw [hl]
  exact .of_blocks rfl rfl rfl rfl rfl rfl rfl

theorem failLoad_stillFrame (t : TitleNo) (reason : FailReason) (s : State) : StillFrame s (failLoad t reason s) := by
  unfold failLoad
  dsimp only
  split
  · exact (freeTitle_stillFrame t s).trans' (.of_blocks (by simp) rfl rfl rfl rfl rfl rfl)
  · exact freeTitle_stillFrame t s

/-! ### The two ways of keeping the law -/

/-- The suspension test leaves no erase IN_FLIGHT beside an urgent record (R193). -/
theorem suspendTest_suspensionLaw (s : State) : SuspensionLaw (suspendTest s) := by
  intro sector hop htag
  cases hu : urgent s with
  | false =>
    rw [suspendTest_none (.inr (.inl hu))]
    exact hu
  | true =>
    rw [suspendTest_link] at htag
    by_cases hfly : ∃ n, s.store.op = .erase .inFlight n
    · obtain ⟨n, hn⟩ := hfly
      rw [suspendTest_suspends hn hu htag] at hop
      cases hop
    · rw [suspendTest_none (.inl fun n hn => hfly ⟨n, hn⟩)] at hop
      exact absurd ⟨sector, hop⟩ hfly

theorem suspensionLaw_of_op {s : State} (h : ∀ sector, s.store.op ≠ .erase .inFlight sector) : SuspensionLaw s :=
  fun sector hop => absurd hop (h sector)

theorem request_suspensionLaw {act : State → State × Reply}
    (hact : ∀ s, SuspensionLaw s → SuspensionLaw (act s).1) (r : Req) (k : Byte) {s : State} (h : SuspensionLaw s) :
    SuspensionLaw (request r k act s) :=
  request_keeps (P := SuspensionLaw) (fun _ _ _ h => h) hact h

theorem request_stillFrame {act : State → State × Reply} (hact : ∀ s, StillFrame s (act s).1) (r : Req) (k : Byte)
    (s : State) : StillFrame s (request r k act s) :=
  request_keeps (P := StillFrame s) (fun _ _ _ h => h.trans' (.of_blocks rfl rfl rfl rfl rfl rfl rfl))
    (fun u h => h.trans' (hact u)) .rfl'

theorem setRequest_stillFrame {store : Nat → Nat → State → Option State} {lo hi : Nat}
    (hstore : ∀ target v s u, store target v s = some u → StillFrame s u) (param : Nat) (r : Req) (s : State) :
    StillFrame s (setRequest param lo hi store r s) :=
  setRequest_keeps (P := StillFrame s) (fun _ _ _ h => h.trans' (.of_blocks rfl rfl rfl rfl rfl rfl rfl))
    (fun target v u w hw h => h.trans' (hstore target v u w hw)) param lo hi r .rfl'

theorem setClockParam_stillFrame {f : AudClock → Nat → AudClock} (hf : ∀ c v, (f c v).pos = c.pos)
    (target v : Nat) (s u : State) (h : setClockParam f target v s = some u) : StillFrame s u := by
  obtain ⟨a, -, rfl⟩ := Option.map_eq_some_iff.mp h
  exact setClock_stillFrame (hf _ v)

theorem setAirParam_stillFrame {f : AirParams → Nat → AirParams} (hf : ∀ x v, (f x v).lead = x.lead)
    (target v : Nat) (s u : State) (h : setAirParam f target v s = some u) : StillFrame s u := by
  obtain ⟨p, -, rfl⟩ := Option.map_eq_some_iff.mp h
  exact modAir_stillFrame fun x => hf x v

theorem storeBitRate_stillFrame (target v : Nat) (s u : State) (h : storeBitRate target v s = some u) :
    StillFrame s u := by
  obtain ⟨p, -, rfl⟩ := Option.map_eq_some_iff.mp h
  exact .of_blocks rfl rfl rfl rfl rfl rfl rfl

/-! ### Loads (chapter 2) -/

theorem appendEntries_stillFrame (t : TitleNo) (tn : Nat) (es : List RawEntry) (cut : Bool) (s : State) :
    StillFrame s (appendEntries t tn es cut s).1 := by
  induction es generalizing cut s with
  | nil => exact .rfl'
  | cons e es ih =>
    unfold appendEntries
    split
    · exact failLoad_stillFrame _ _ _
    · rename_i r hr
      refine StillFrame.trans' ?_ (ih _ _)
      obtain ⟨tr, -, -, -, ⟨start, dur, bits, raw, -, -, hr⟩ | ⟨start, dur, clipBlock, level, -, hr⟩⟩ := appendEntry_ok hr
      all_goals rw [hr]; exact .of_blocks rfl rfl rfl rfl rfl rfl rfl

theorem loadData_stillFrame (r : Req) (s : State) : StillFrame s (loadData r s).1 := by
  have htouch : ∀ t, StillFrame s (touchTitle t s) := fun t => .of_blocks rfl rfl rfl rfl rfl rfl rfl
  unfold loadData
  dsimp only
  split
  · exact .rfl'
  · split
    · exact (htouch _).trans' (failLoad_stillFrame _ _ _)
    · split
      · exact htouch _
      · exact (htouch _).trans' (appendEntries_stillFrame _ _ _ _ _)

theorem loadOpen_stillFrame (r : Req) (s : State) : StillFrame s (loadOpen r s).1 := by
  obtain h | ⟨d, p, t, x, -, -, -, h⟩ := loadOpen_opens r s
  · rw [h]; exact .rfl'
  · rw [h]; exact .of_blocks rfl rfl rfl rfl rfl rfl rfl

theorem loadFinish_stillFrame (r : Req) (s : State) : StillFrame s (loadFinish r s).1 := by
  unfold loadFinish
  split
  · exact .rfl'
  · dsimp only
    split <;> exact .of_blocks rfl rfl rfl rfl rfl rfl rfl

theorem loadAbort_stillFrame (r : Req) (s : State) : StillFrame s (loadAbort r s).1 := by
  unfold loadAbort
  split
  · exact .rfl'
  · exact freeTitle_stillFrame _ _

theorem loadIdleTimeout_stillFrame (t : TitleNo) (s : State) : StillFrame s (loadIdleTimeout t s) := by
  unfold loadIdleTimeout
  split
  · exact failLoad_stillFrame _ _ _
  · exact .rfl'

theorem clipListOverflow_stillFrame (t : TitleNo) (s : State) : StillFrame s (clipListOverflow t s) := by
  unfold clipListOverflow
  dsimp only
  split
  · exact failLoad_stillFrame _ _ _
  · exact .rfl'

theorem finishingCompletion_stillFrame (t : TitleNo) (s : State) : StillFrame s (finishingCompletion t s) := by
  unfold finishingCompletion
  dsimp only
  split
  · obtain ⟨l, hl⟩ := closeLoad_eq s t
    rw [hl]
    split
    · exact .of_blocks (by simp) rfl rfl rfl rfl rfl rfl
    · exact .of_blocks rfl rfl rfl rfl rfl rfl rfl
  · exact .rfl'

theorem unload_stillFrame (r : Req) (s : State) : StillFrame s (unload r s).1 := by
  obtain h | ⟨t, -, -, h⟩ := unload_cases r s
  · rw [h]; exact .rfl'
  · rw [h]
    exact (freeTitle_stillFrame t s).trans' (.of_blocks rfl rfl rfl rfl rfl rfl rfl)

/-! ### Shows and clocks (chapters 3 and 4) -/

theorem arm_suspensionLaw (r : Req) (s : State) (h : SuspensionLaw s) : SuspensionLaw (arm r s).1 := by
  obtain hs | ⟨a, t, -, -, hs⟩ := arm_cases r s
  · rw [hs]; exact h
  · rw [hs, armTaken_eq]; exact suspendTest_suspensionLaw _

theorem run_stillFrame (r : Req) (s : State) : StillFrame s (run r s).1 := by
  have hstart : ∀ a, StillFrame s (startClock a s) := fun a =>
    (setShow_stillFrame (s := s) (a := a) (c := { s.shows[a] with state := .running }) rfl).trans'
      (setClock_stillFrame rfl)
  unfold run
  split
  · exact .rfl'
  · split
    case h_4 | h_5 | h_6 => exact .rfl'
    all_goals exact hstart _

theorem hold_stillFrame (r : Req) (s : State) : StillFrame s (hold r s).1 := by
  unfold hold
  split
  · exact .rfl'
  · split
    case h_4 | h_5 | h_6 => exact .rfl'
    all_goals exact setShow_stillFrame rfl

theorem darken_suspensionLaw (r : Req) (s : State) (h : SuspensionLaw s) : SuspensionLaw (darken r s).1 := by
  unfold darken
  split
  · exact h
  · split
    · exact h
    · exact suspendTest_suspensionLaw _

theorem assignFeed_stillFrame (r : Req) (s : State) : StillFrame s (assignFeed r s).1 := by
  unfold assignFeed
  split
  · exact .rfl'
  · split
    · exact setShow_stillFrame rfl
    · exact .rfl'

theorem assignAir_suspensionLaw (r : Req) (s : State) (h : SuspensionLaw s) : SuspensionLaw (assignAir r s).1 := by
  unfold assignAir
  split
  · exact h
  · split
    · split
      · exact h
      · exact suspendTest_suspensionLaw _
    · exact h

theorem position_suspensionLaw (r : Req) (s : State) (h : SuspensionLaw s) : SuspensionLaw (position r s).1 := by
  unfold position
  split
  · exact h
  · exact suspendTest_suspensionLaw _

theorem houseTick_suspensionLaw (s : State) : SuspensionLaw (houseTick s) := by
  unfold houseTick
  exact suspendTest_suspensionLaw _

theorem silenceBoundary_suspensionLaw (a : Aud) {s : State} (h : SuspensionLaw s) :
    SuspensionLaw (silenceBoundary a s) := by
  unfold silenceBoundary
  split
  · dsimp only
    split
    · exact suspendTest_suspensionLaw _
    · exact h
  · exact h

/-! ### Receivers and payloads (chapters 6 and 7) -/

theorem report_suspensionLaw (r : Req) (s : State) (h : SuspensionLaw s) : SuspensionLaw (report r s).1 := by
  unfold report
  split
  · unfold reportOn
    dsimp only
    split
    · exact h
    · split
      · exact h
      · exact suspendTest_suspensionLaw _
  · exact h
  · exact h

theorem keepAliveExpiry_suspensionLaw {s : State} (h : SuspensionLaw s) : SuspensionLaw (keepAliveExpiry s) := by
  unfold keepAliveExpiry
  split
  · exact h
  · exact suspendTest_suspensionLaw _

theorem houseSecondBoundary_stillFrame (s : State) : StillFrame s (houseSecondBoundary s) := by
  unfold houseSecondBoundary
  split
  · exact .of_blocks rfl rfl rfl rfl rfl rfl rfl
  · exact .rfl'

theorem pull_suspensionLaw (r : Req) (s : State) (h : SuspensionLaw s) : SuspensionLaw (pull r s).1 := by
  unfold pull
  split
  · unfold pullOn
    split
    · exact h
    · split
      · exact h
      · split
        · exact h
        · exact suspendTest_suspensionLaw _
  · exact h
  · exact h

/-! ### Ports and statistics (chapter 10) -/

theorem sense_stillFrame (r : Req) (s : State) : StillFrame s (sense r s).1 := by
  unfold sense
  dsimp only
  split
  · exact .rfl'
  split
  · exact .rfl'
  split
  · exact .of_blocks (by simp) rfl rfl rfl rfl rfl rfl
  · exact .rfl'

theorem clearStats_stillFrame (s : State) : StillFrame s (clearStats s) := by
  refine ⟨⟨rfl, rfl, rfl, rfl, fun a => ?_⟩, rfl, rfl, rfl⟩
  have hlead : lead (clearStats s) a = lead s a := by
    unfold lead clearStats
    dsimp only
    cases s.shows[a].airPort <;> simp
  unfold airing showTime
  rw [hlead]
  simp [clearStats]

theorem stats_stillFrame (r : Req) (s : State) : StillFrame s (stats r s).1 := by
  unfold stats
  dsimp only
  split
  · exact .rfl'
  split
  · exact .rfl'
  split
  · exact clearStats_stillFrame s
  · exact .rfl'

theorem tableRead_stillFrame (r : Req) (s : State) : StillFrame s (tableRead r s).1 := by
  unfold tableRead
  dsimp only
  split
  · exact .rfl'
  split
  · exact .rfl'
  · dsimp only
    split <;> exact .of_blocks rfl rfl rfl rfl rfl rfl rfl

theorem cacheProbe_stillFrame (r : Req) (s : State) : StillFrame s (cacheProbe r s).1 := by
  unfold cacheProbe
  dsimp only
  split
  · exact .rfl'
  · split <;> exact .rfl'

theorem cacheFlush_stillFrame (r : Req) (s : State) : StillFrame s (cacheFlush r s).1 := by
  unfold cacheFlush
  split
  · exact .rfl'
  · exact .of_blocks rfl rfl rfl rfl rfl rfl rfl

/-! ### The clip store (chapter 9) -/

/-- A change of the Clip Storage Controller that leaves the operation and the margin. -/
theorem StillFrame.of_store {s : State} {b : StoreBlock} (hop : b.op = s.store.op) (hmargin : b.margin = s.store.margin) :
    StillFrame s { s with store := b } :=
  ⟨⟨hop, rfl, hmargin, rfl, fun _ => rfl⟩, rfl, rfl, rfl⟩

theorem clipDefine_stillFrame (r : Req) (s : State) : StillFrame s (clipDefine r s).1 := by
  unfold clipDefine
  dsimp only
  split
  · exact .rfl'
  split
  · exact .rfl'
  split
  · exact .rfl'
  split
  · exact .rfl'
  split
  · exact .rfl'
  · exact .of_store rfl rfl

theorem clipDelete_stillFrame (r : Req) (s : State) : StillFrame s (clipDelete r s).1 := by
  unfold clipDelete
  split
  · exact .rfl'
  split
  · exact .rfl'
  split
  · exact .rfl'
  · exact .of_store rfl rfl

theorem clipProtect_stillFrame (r : Req) (s : State) : StillFrame s (clipProtect r s).1 := by
  unfold clipProtect
  dsimp only
  split
  · exact .rfl'
  · exact .of_store rfl rfl

theorem clipWriteEnable_stillFrame (r : Req) (s : State) : StillFrame s (clipWriteEnable r s).1 := by
  unfold clipWriteEnable
  split
  · exact .rfl'
  · exact .of_store rfl rfl

theorem setLatch_suspensionLaw {s : State} (x : Bool) (h : SuspensionLaw s) : SuspensionLaw (s.setLatch x) := h

theorem clipProgram_suspensionLaw (r : Req) (s : State) (h : SuspensionLaw s) : SuspensionLaw (clipProgram r s).1 := by
  unfold clipProgram
  dsimp only
  split
  · exact setLatch_suspensionLaw false h
  split
  · exact setLatch_suspensionLaw false h
  split
  · exact setLatch_suspensionLaw false h
  split
  · exact setLatch_suspensionLaw false h
  · exact suspensionLaw_of_op fun _ e => (nomatch e)

theorem clipErase_suspensionLaw (r : Req) (s : State) (h : SuspensionLaw s) : SuspensionLaw (clipErase r s).1 := by
  unfold clipErase
  dsimp only
  split
  · exact setLatch_suspensionLaw false h
  split
  · exact setLatch_suspensionLaw false h
  split
  · exact setLatch_suspensionLaw false h
  split
  · exact setLatch_suspensionLaw false h
  split
  · exact setLatch_suspensionLaw false h
  · exact suspensionLaw_of_op fun _ e => (nomatch e)

theorem clipVerify_suspensionLaw (r : Req) (s : State) (h : SuspensionLaw s) : SuspensionLaw (clipVerify r s).1 := by
  unfold clipVerify
  dsimp only
  split
  · exact h
  split
  · exact h
  split
  · exact h
  split
  · exact h
  · exact suspensionLaw_of_op fun _ e => (nomatch e)

/-- A turn of maintenance starts while no record is urgent, or an erase that a RESET waits for resumes (R173, R199). -/
theorem startTurn_suspensionLaw {s : State} (h : maintenanceTurn s = true) : SuspensionLaw (startTurn s) := by
  have hturn : urgent s = false ∨ s.link.resetTag ≠ none := by
    simp only [maintenanceTurn, Bool.and_eq_true, Bool.or_eq_true, Bool.not_eq_true', Option.isSome_iff_ne_none] at h
    exact h.2.imp id And.left
  unfold startTurn
  split
  · rename_i hop
    exact suspensionLaw_of_op fun sector e => by rw [hop] at e; cases e
  · exact suspensionLaw_of_op fun _ e => (nomatch e)
  · intro sector _ htag
    obtain hu | ht := hturn
    · exact hu
    · exact absurd htag ht
  · exact suspensionLaw_of_op fun _ e => (nomatch e)

theorem arbiterChoice_suspensionLaw {s : State} (h : SuspensionLaw s) : SuspensionLaw (arbiterChoice s) := by
  unfold arbiterChoice
  split
  · split
    · rename_i hturn
      exact startTurn_suspensionLaw hturn
    · split
      · exact suspendTest_suspensionLaw _
      · exact h
  · exact h

theorem completeFetch_pool (s : State) (r : FetchRecord) : (completeFetch s r).pool = s.stream.pool := by
  unfold completeFetch
  dsimp only
  split
  · rfl
  · split <;> rfl

theorem fetchCompletion_eraseFrame (s : State) : EraseFrame s (fetchCompletion s) := by
  unfold fetchCompletion
  split
  · exact ⟨rfl, rfl, rfl, completeFetch_pool s _, fun _ => rfl⟩
  all_goals exact .rfl'

theorem verifyTurnCompletion_suspensionLaw {s : State} (h : SuspensionLaw s) :
    SuspensionLaw (verifyTurnCompletion s) := by
  unfold verifyTurnCompletion
  split
  · dsimp only
    split <;> exact suspensionLaw_of_op fun _ e => (nomatch e)
  · exact h

/-! ### Resets and completions (R191, R192, R199, R212) -/

theorem resetAll_suspensionLaw (s : State) : SuspensionLaw (resetAll s) := suspensionLaw_of_op fun _ e => (nomatch e)

theorem resetRequest_suspensionLaw (r : Req) {s : State} (h : SuspensionLaw s) : SuspensionLaw (resetRequest r s) := by
  unfold resetRequest
  split
  · unfold resetTaken
    split
    · exact fun _ _ htag => (nomatch htag)
    · exact resetAll_suspensionLaw s
  · exact request_suspensionLaw (fun _ h => h) r _ h

theorem resetTakesEffect_suspensionLaw {s : State} (h : SuspensionLaw s) : SuspensionLaw (resetTakesEffect s) := by
  unfold resetTakesEffect
  split
  · exact resetAll_suspensionLaw _
  · exact h

theorem programCompletion_suspensionLaw {s : State} (h : SuspensionLaw s) : SuspensionLaw (programCompletion s) := by
  unfold programCompletion
  split
  · split
    · exact resetTakesEffect_suspensionLaw h
    · exact suspensionLaw_of_op fun _ e => (nomatch e)
  · exact h

theorem eraseCompletion_suspensionLaw {s : State} (h : SuspensionLaw s) : SuspensionLaw (eraseCompletion s) := by
  unfold eraseCompletion
  split
  · split
    · exact resetTakesEffect_suspensionLaw h
    · exact suspensionLaw_of_op fun _ e => (nomatch e)
  · exact h

/-! ### The step -/

theorem owedByte_stillFrame (p : Port) (s : State) : StillFrame s (s.owedByte p) := by
  unfold State.owedByte
  split <;> exact .of_blocks rfl rfl rfl rfl rfl rfl rfl

/-- The commands that leave what urgency reads and the streams: all but the resets, the completions on the flash, and those
that move a clock, an air port, a margin, a record's track or a stream. -/
def leavesStreams : Instr → Bool
  | .powerOn | .reset _ | .resetTakesEffect | .programCompletion | .eraseCompletion => false
  | .houseTick | .silenceBoundary _ | .keepAliveExpiry | .arm _ | .darken _ | .position _ | .assignAir _ | .report _
  | .pull _ => false
  | .setUrgencyMargin _ | .setLead _ | .clipProgram _ | .clipErase _ | .clipVerify _ => false
  | .flashArbiterChoice | .fetchCompletion | .verifyTurnCompletion => false
  | _ => true

theorem exec_stillFrame {i : Instr} (hi : leavesStreams i = true) (s : State) :
    ∃ t, exec i s = .next t ∧ StillFrame s t := by
  cases i with
  | powerOn | reset _ | resetTakesEffect | programCompletion | eraseCompletion => cases hi
  | houseTick | silenceBoundary _ | keepAliveExpiry | arm _ | darken _ | position _ | assignAir _ | report _
  | pull _ => cases hi
  | setUrgencyMargin _ | setLead _ | clipProgram _ | clipErase _ | clipVerify _ => cases hi
  | flashArbiterChoice | fetchCompletion | verifyTurnCompletion => cases hi
  | houseSecondBoundary => exact ⟨_, rfl, houseSecondBoundary_stillFrame s⟩
  | loadIdleTimeout t => exact ⟨_, rfl, loadIdleTimeout_stillFrame t s⟩
  | loadOpen r => exact ⟨_, rfl, request_stillFrame (loadOpen_stillFrame r) r _ s⟩
  | loadData r => exact ⟨_, rfl, request_stillFrame (loadData_stillFrame r) r _ s⟩
  | loadFinish r => exact ⟨_, rfl, request_stillFrame (loadFinish_stillFrame r) r _ s⟩
  | finishingCompletion t => exact ⟨_, rfl, finishingCompletion_stillFrame t s⟩
  | clipListOverflow t => exact ⟨_, rfl, clipListOverflow_stillFrame t s⟩
  | loadAbort r => exact ⟨_, rfl, request_stillFrame (loadAbort_stillFrame r) r _ s⟩
  | unload r => exact ⟨_, rfl, request_stillFrame (unload_stillFrame r) r _ s⟩
  | run r => exact ⟨_, rfl, request_stillFrame (run_stillFrame r) r _ s⟩
  | hold r => exact ⟨_, rfl, request_stillFrame (hold_stillFrame r) r _ s⟩
  | assignFeed r => exact ⟨_, rfl, request_stillFrame (assignFeed_stillFrame r) r _ s⟩
  | sense r => exact ⟨_, rfl, request_stillFrame (sense_stillFrame r) r _ s⟩
  | setLoadIdleTime r =>
    exact ⟨_, rfl, setRequest_stillFrame (store := storeLoadIdleTime)
      (fun _ _ _ _ e => by cases e; exact .of_blocks rfl rfl rfl rfl rfl rfl rfl) 1 r s⟩
  | setKeepAliveTime r =>
    exact ⟨_, rfl, setRequest_stillFrame (store := storeKeepAlive)
      (fun _ _ _ _ e => by cases e; exact .of_blocks rfl rfl rfl rfl rfl rfl rfl) 2 r s⟩
  | setJumpThreshold r =>
    exact ⟨_, rfl, setRequest_stillFrame
      (setClockParam_stillFrame (f := fun c v => { c with jump := v }) fun _ _ => rfl) 4 r s⟩
  | setGainExponent r =>
    exact ⟨_, rfl, setRequest_stillFrame
      (setClockParam_stillFrame (f := fun c v => { c with gain := v }) fun _ _ => rfl) 5 r s⟩
  | setSilenceInterval r =>
    exact ⟨_, rfl, setRequest_stillFrame
      (setClockParam_stillFrame (f := fun c v => { c with interval := v }) fun _ _ => rfl) 6 r s⟩
  | setCapacity r =>
    exact ⟨_, rfl, setRequest_stillFrame
      (setAirParam_stillFrame (f := fun x v => { x with capacity := v }) fun _ _ => rfl) 8 r s⟩
  | setRepeatPeriod r =>
    exact ⟨_, rfl, setRequest_stillFrame
      (setAirParam_stillFrame (f := fun x v => { x with repeatPeriod := v }) fun _ _ => rfl) 9 r s⟩
  | setWindow r =>
    exact ⟨_, rfl, setRequest_stillFrame
      (setAirParam_stillFrame (f := fun x v => { x with window := v }) fun _ _ => rfl) 10 r s⟩
  | setBitRate r => exact ⟨_, rfl, setRequest_stillFrame storeBitRate_stillFrame 11 r s⟩
  | bitRateChangeApplies p =>
    refine ⟨_, rfl, ?_⟩
    unfold bitRateChangeApplies
    dsimp only
    split
    · split <;> exact .of_blocks rfl rfl rfl rfl rfl rfl rfl
    · exact .rfl'
  | stats r => exact ⟨_, rfl, request_stillFrame (stats_stillFrame r) r _ s⟩
  | tableRead r => exact ⟨_, rfl, request_stillFrame (tableRead_stillFrame r) r _ s⟩
  | cacheProbe r => exact ⟨_, rfl, request_stillFrame (cacheProbe_stillFrame r) r _ s⟩
  | cacheFlush r => exact ⟨_, rfl, request_stillFrame (cacheFlush_stillFrame r) r _ s⟩
  | clipDefine r => exact ⟨_, rfl, request_stillFrame (clipDefine_stillFrame r) r _ s⟩
  | clipDelete r => exact ⟨_, rfl, request_stillFrame (clipDelete_stillFrame r) r _ s⟩
  | clipWriteEnable r => exact ⟨_, rfl, request_stillFrame (clipWriteEnable_stillFrame r) r _ s⟩
  | clipProtect r => exact ⟨_, rfl, request_stillFrame (clipProtect_stillFrame r) r _ s⟩
  | frameCheckFail p =>
    refine ⟨_, rfl, ?_⟩
    unfold frameCheckFail
    split
    · exact owedByte_stillFrame p s
    · exact .of_blocks rfl rfl rfl rfl rfl rfl rfl
  | frameLengthDiscard p =>
    refine ⟨_, rfl, ?_⟩
    unfold frameLengthDiscard
    split
    · exact owedByte_stillFrame p s
    · exact .of_blocks rfl rfl rfl rfl rfl rfl rfl
  | frameGapTimeout p | breakCondition p =>
    refine ⟨_, rfl, ?_⟩
    unfold discardPartial
    split <;> exact .of_blocks rfl rfl rfl rfl rfl rfl rfl
  | owedByteDiscard p => exact ⟨_, rfl, owedByte_stillFrame p s⟩
  | unknownRequest p kind tag =>
    refine ⟨_, rfl, ?_⟩
    unfold unknownRequest
    split
    · exact owedByte_stillFrame p s
    · split <;> exact .of_blocks rfl rfl rfl rfl rfl rfl rfl
  | responseSent p =>
    refine ⟨_, rfl, ?_⟩
    unfold responseSent
    split <;> exact .of_blocks rfl rfl rfl rfl rfl rfl rfl
  | syncByte p =>
    refine ⟨_, rfl, ?_⟩
    unfold syncByte
    split
    · exact .of_blocks rfl rfl rfl rfl rfl rfl rfl
    · exact .of_blocks rfl rfl rfl rfl rfl rfl rfl
    · exact owedByte_stillFrame p s

theorem exec_suspensionLaw (i : Instr) {s : State} (h : SuspensionLaw s) :
    ∃ t, exec i s = .next t ∧ SuspensionLaw t := by
  by_cases hi : leavesStreams i = true
  · obtain ⟨t, hexec, hframe⟩ := exec_stillFrame hi s
    exact ⟨t, hexec, hframe.suspensionLaw h⟩
  cases i with
  | powerOn => exact ⟨_, rfl, suspensionLaw_of_op fun _ e => (nomatch e)⟩
  | reset r => exact ⟨_, rfl, resetRequest_suspensionLaw r h⟩
  | resetTakesEffect => exact ⟨_, rfl, resetTakesEffect_suspensionLaw h⟩
  | programCompletion => exact ⟨_, rfl, programCompletion_suspensionLaw h⟩
  | eraseCompletion => exact ⟨_, rfl, eraseCompletion_suspensionLaw h⟩
  | houseTick => exact ⟨_, rfl, houseTick_suspensionLaw s⟩
  | silenceBoundary a => exact ⟨_, rfl, silenceBoundary_suspensionLaw a h⟩
  | keepAliveExpiry => exact ⟨_, rfl, keepAliveExpiry_suspensionLaw h⟩
  | arm r => exact ⟨_, rfl, request_suspensionLaw (arm_suspensionLaw r) r _ h⟩
  | darken r => exact ⟨_, rfl, request_suspensionLaw (darken_suspensionLaw r) r _ h⟩
  | position r => exact ⟨_, rfl, request_suspensionLaw (position_suspensionLaw r) r _ h⟩
  | assignAir r => exact ⟨_, rfl, request_suspensionLaw (assignAir_suspensionLaw r) r _ h⟩
  | report r => exact ⟨_, rfl, request_suspensionLaw (report_suspensionLaw r) r _ h⟩
  | pull r => exact ⟨_, rfl, request_suspensionLaw (pull_suspensionLaw r) r _ h⟩
  | setUrgencyMargin r =>
    exact ⟨_, rfl, setRequest_keeps (P := SuspensionLaw) (store := storeMargin) (fun _ _ _ h => h)
      (fun _ _ _ _ e _ => by cases e; exact suspendTest_suspensionLaw _) 3 _ _ r h⟩
  | setLead r =>
    refine ⟨_, rfl, setRequest_keeps (P := SuspensionLaw) (store := storeLead) (fun _ _ _ h => h)
      (fun _ _ _ _ e _ => ?_) 7 _ _ r h⟩
    obtain ⟨w, -, rfl⟩ := Option.map_eq_some_iff.mp e
    exact suspendTest_suspensionLaw w
  | clipProgram r => exact ⟨_, rfl, request_suspensionLaw (clipProgram_suspensionLaw r) r _ h⟩
  | clipErase r => exact ⟨_, rfl, request_suspensionLaw (clipErase_suspensionLaw r) r _ h⟩
  | clipVerify r => exact ⟨_, rfl, request_suspensionLaw (clipVerify_suspensionLaw r) r _ h⟩
  | flashArbiterChoice => exact ⟨_, rfl, arbiterChoice_suspensionLaw h⟩
  | fetchCompletion => exact ⟨_, rfl, (fetchCompletion_eraseFrame s).suspensionLaw h⟩
  | verifyTurnCompletion => exact ⟨_, rfl, verifyTurnCompletion_suspensionLaw h⟩
  | _ => exact absurd rfl hi

/-- Settles O60: a completion frees the flash and the record together; and every command that moves an airing instant, the
margin or the pool ends with the suspension test, while the arbiter starts an erase only when no record is urgent. -/
theorem everyStepKeepsTheFlash : Obligations.EveryStepKeepsTheFlash := by
  intro s t hflash hstep
  refine ⟨step_flashLaw hstep hflash, fun hs => ?_⟩
  unfold step at hstep
  split at hstep
  · cases hstep
    exact hs
  · rename_i i rest _
    obtain ⟨u, hexec, hu⟩ := exec_suspensionLaw i (s := { s with pending := rest }) hs
    rw [hexec] at hstep
    cases hstep
    exact hu

end Sys2Proof.Machine
end

/-! The queue, and the two resets: what a step takes from the queue, the values of power-on and of RESET, and the laws
that they meet (R199, R200, R212, R213). -/
section
namespace Sys2Proof.Machine

open Sys2Proof.Safety

/-! ### The queue -/

theorem Effect.pending {s t : State} (he : Effect s t) : t.pending = s.pending := by
  cases he with
  | keeps hk => exact hk.pending
  | powersOn ht => rw [ht]; rfl
  | resets flash _ hk => exact hk.pending
  | completes flash _ hk => exact hk.pending

/-- Settles O1: by the two cases of the queue. -/
theorem stepTakesFrontCommand : Obligations.StepTakesFrontCommand := by
  refine ⟨fun c rest s h => ?_, fun s h => ?_⟩ <;> unfold step <;> rw [h]

/-- Settles O2: each effect of a command leaves the queue. -/
theorem everyCommandCompletes : Obligations.EveryCommandCompletes := by
  intro c s
  obtain ⟨t, hexec, he⟩ := exec_effect c s
  exact ⟨t, hexec, he.pending⟩

/-! ### Power-on (R200, R213) -/

theorem titlesReset_reset : TitlesReset State.reset := ⟨rfl, rfl, rfl, rfl⟩

/-- No stream allocated and no mark set: the law of streams and marks (R148, R164). -/
theorem serveLaw_of_reset {s : State} (hstream : s.stream = StreamBlock.reset) (hrcv : s.rcv = ReceiverBlock.reset) :
    ServeLaw s := by
  have hfree : ∀ i : StreamNo, s.stream.entries[i].alloc = false := fun i => by
    simp [hstream, StreamBlock.reset, Stream.reset]
  have hmark : ∀ (a : Aud) (v : TrackNo), s.stream.unserved[a][v] = false := fun a v => by
    simp [hstream, StreamBlock.reset]
  have hcount : ∀ (a : Aud) (v : TrackNo), s.rcv.counts[a][v] = 0 := fun a v => by simp [hrcv, ReceiverBlock.reset]
  refine ⟨fun i j a v hi _ => ?_, fun a v => ⟨fun h => ?_, fun h => ?_, fun h => ?_⟩⟩
  · obtain ⟨halloc, -⟩ := hi
    rw [hfree i] at halloc
    cases halloc
  · rw [hmark a v] at h
    cases h.2
  · obtain ⟨i, hi, -⟩ | h := h
    · rw [hfree i] at hi
      cases hi
    · rw [hmark a v] at h
      cases h
  · rw [hcount a v] at h
    exact absurd h.2 (by decide)

/-- Empty rings that no stream fills: the law of the rings (R163). -/
theorem ringLaw_of_reset {s : State} (hstream : s.stream = StreamBlock.reset) : RingLaw s := by
  intro i
  have hentry : s.stream.entries[i] = Stream.reset := by simp [hstream, StreamBlock.reset]
  rw [hentry]
  exact ⟨.nil, fun _ _ _ h => (nomatch h)⟩

/-- Settles O13: each law by the values that it reads. -/
theorem resetStateMeetsEveryLaw : Obligations.ResetStateMeetsEveryLaw :=
  ⟨LinkBlock.reset_attends, clockLaw_of_reset rfl, reelLaw_of_reset rfl, cueStoreLaw_of_reset rfl rfl,
    titlesReset_reset.showLaw, ReceiverBlock.reset_uniqueIds, ReceiverBlock.reset_counted, titlesReset_reset.resolveLaw,
    StreamBlock.reset_bounded, settingsLaw_of_reset rfl rfl rfl rfl rfl LinkBlock.reset_ratesIn,
    fun _ h => (nomatch h), StoreBlock.reset_ordered, fun _ _ _ _ h => (nomatch h), .inl rfl,
    suspensionLaw_of_op fun _ h => (nomatch h), ⟨Memory.wf_nil _, Memory.wf_nil _⟩, loadLaw_of_reset rfl,
    layoutLaw_of_reset titlesReset_reset, entryLaw_of_reset titlesReset_reset, titlesReset_reset.locateLaw,
    serveLaw_of_reset rfl rfl, ringLaw_of_reset rfl⟩

/-- Which sector a started erase is on (R192). -/
theorem Maintenance.erasing_iff {op : Maintenance} {sector : Nat} :
    op.erasing = some sector ↔ ∃ st, st ≠ .waiting ∧ op = .erase st sector := by
  cases op with
  | none => simp [Maintenance.erasing]
  | program st block data check => simp [Maintenance.erasing]
  | verify st clip first length read failed => simp [Maintenance.erasing]
  | erase st n => cases st <;> simp [Maintenance.erasing]

/-- Settles O14: the content that power-on finds is read byte by byte. -/
theorem powerOnStartsAfresh : Obligations.PowerOnStartsAfresh := by
  intro s
  refine ⟨powerOn s, rfl, rfl, fun a => ⟨fun h => ?_, fun h => ?_⟩⟩
  · have herasing := Maintenance.erasing_iff.mpr h
    change Memory.read flashEmpty (powerOnFlash s.store) a = 0xFF
    unfold powerOnFlash
    rw [herasing]
    dsimp only
    rw [read_eraseSector]
    exact if_pos (by omega)
  · change Memory.read flashEmpty (powerOnFlash s.store) a = _
    unfold powerOnFlash
    split
    · rename_i sector herasing
      rw [read_eraseSector]
      refine if_neg fun hin => h ?_
      rw [show a / 8448 = sector by omega]
      exact Maintenance.erasing_iff.mp herasing
    · rfl

/-! ### RESET (R199, R200, R212) -/

theorem resetAll_blocksReset (s : State) (flash : List Host.Cell) : blocksReset s (resetAll (s.withFlash flash)) :=
  ⟨rfl, rfl, rfl, rfl, rfl, rfl, rfl, rfl, rfl, rfl, rfl⟩

/-- The ports after a reset, the answer owed on M (R204, R212). -/
theorem resetAll_linkReset (s : State) (flash : List Host.Cell) (tag : Byte) (counted : Bool) :
    linkReset s ((resetAll (s.withFlash flash)).setRx .m (.owed (some ⟨28, tag, .ok, false, []⟩) counted)) tag := by
  refine ⟨rfl, fun p => ?_⟩
  have hport : ∀ q, (resetAll (s.withFlash flash)).port q = (s.port q).afterReset := fun q => by
    simp [resetAll, State.withFlash, State.port, LinkBlock.afterReset]
  by_cases e : p = .m
  · subst e
    simp [State.setRx, hport, PortLink.afterReset]
  · have hne : Port.m ≠ p := fun h => e h.symm
    have howed : (s.port p).rx.afterReset = if s.owing p = true then (s.port p).rx else .hunt := by
      unfold State.owing
      cases (s.port p).rx <;> rfl
    simp [State.setRx, hport, PortLink.afterReset, hne, e, howed]

theorem finishedFlash_program {b : StoreBlock} {block check : Nat} {data : List Byte}
    (h : b.op = .program .inFlight block data check) :
    finishedFlash b = some (programPage b.flash block data check) := by
  unfold finishedFlash; rw [h]

theorem finishedFlash_erase {b : StoreBlock} {sector : Nat} (h : b.op = .erase .inFlight sector) :
    finishedFlash b = some (eraseSector b.flash sector) := by
  unfold finishedFlash; rw [h]

/-- A deferred RESET that takes effect, the flash's operation ended with the content `flash` (R199). -/
theorem resetTakesEffect_resets {s : State} {tag : Byte} {flash : List Host.Cell} (ht : s.link.resetTag = some tag)
    (hf : finishedFlash s.store = some flash) :
    ∃ t, resetTakesEffect s = t ∧ blocksReset s t ∧ linkReset s t tag ∧ t.store.flash = flash ∧
      t.store = { StoreBlock.reset with
        flash := t.store.flash
        directory := s.store.directory
        floor := s.store.floor } := by
  unfold resetTakesEffect
  rw [ht, hf]
  exact ⟨_, rfl, resetAll_blocksReset s flash, resetAll_linkReset s flash tag _, rfl, rfl⟩

theorem programCompletion_deferred {s : State} {tag : Byte} {block check : Nat} {data : List Byte}
    (ht : s.link.resetTag = some tag) (h : s.store.op = .program .inFlight block data check) :
    programCompletion s = resetTakesEffect s := by
  unfold programCompletion
  rw [h, ht]
  rfl

theorem eraseCompletion_deferred {s : State} {tag : Byte} {sector : Nat} (ht : s.link.resetTag = some tag)
    (h : s.store.op = .erase .inFlight sector) : eraseCompletion s = resetTakesEffect s := by
  unfold eraseCompletion
  rw [h, ht]
  rfl

/-- An empty RESET on M that owes nothing is taken (R212). -/
theorem resetRequest_taken {tag : Byte} {s : State} (h : s.owing .m = false) :
    resetRequest ⟨.m, tag, []⟩ s = resetTaken tag s := by
  unfold resetRequest
  rw [if_pos (by simp [State.takes, h])]

end Sys2Proof.Machine

namespace Sys2Proof

open Sys2Proof.Machine Sys2Proof.Safety

/-- Settles O15: a RESET resets the blocks with the content as it is, or as the operation in flight leaves it. -/
theorem resetTakesEffect : Obligations.ResetTakesEffect := by
  refine ⟨fun tag s howing hstarted => ?_, fun tag s howing hstarted => ?_, fun tag s htag =>
    ⟨fun block data check hop hlen => ?_, fun sector hop => ?_⟩⟩
  · refine ⟨_, congrArg Host.Outcome.next (resetRequest_taken howing), ?_⟩
    unfold resetTaken
    rw [if_neg (by rw [hstarted]; decide)]
    exact ⟨resetAll_blocksReset s s.store.flash, resetAll_linkReset s s.store.flash tag false, rfl⟩
  · refine (congrArg Host.Outcome.next (resetRequest_taken howing)).trans ?_
    unfold resetTaken
    rw [if_pos hstarted]
    rfl
  · obtain ⟨t, ht, hblocks, hlink, hflash, hstore⟩ := resetTakesEffect_resets htag (finishedFlash_program hop)
    refine ⟨t, congrArg Host.Outcome.next ht,
      congrArg Host.Outcome.next ((programCompletion_deferred htag hop).trans ht), hblocks, hlink, ?_, hstore⟩
    rw [hflash]
    exact programPage_programmed hlen _ _ _
  · obtain ⟨t, ht, hblocks, hlink, hflash, hstore⟩ := resetTakesEffect_resets htag (finishedFlash_erase hop)
    refine ⟨t, congrArg Host.Outcome.next ht,
      congrArg Host.Outcome.next ((eraseCompletion_deferred htag hop).trans ht), hblocks, hlink, ?_, hstore⟩
    rw [hflash]
    exact eraseSector_erased _ _

end Sys2Proof

end

/-! The statistics, and the values of power-on block by block (R208, R213). -/
section
namespace Sys2Proof.Machine

open Sys2Proof.Safety

/-! ### Statistics (R208) -/

theorem allStats_length (s : State) : (allStats s).length = 114 := by
  simp [allStats, allPorts, allAirs, airStats, audStats, allAuds]

/-- Every statistic of the blocks is 0. -/
structure StatsClear (s : State) : Prop where
  ports : ∀ p, (s.port p).linkErrors = 0
  air : ∀ p : Fin 2, s.frame.air[p].deferred = 0 ∧ s.rcv.joinRefusals[p] = 0 ∧ s.rcv.expiries[p] = 0
  clocks : ∀ a : Aud, s.clock.auds[a].steps = 0 ∧ s.clock.auds[a].reelClamps = 0
  streams : ∀ a : Aud, s.stream.stats[a] = StreamStats.reset
  cues : s.cues.hits = 0 ∧ s.cues.misses = 0
  rest : s.stream.discarded = 0 ∧ s.stream.denials = 0 ∧ s.store.suspensions = 0

theorem StatsClear.allStats {s : State} (h : StatsClear s) : ∀ x ∈ allStats s, x = 0 := by
  obtain ⟨hports, hair, hclocks, hstreams, ⟨hhits, hmisses⟩, hdiscarded, hdenials, hsuspensions⟩ := h
  intro x hx
  simp only [Machine.allStats, List.mem_append, List.mem_map, List.mem_flatMap] at hx
  rcases hx with ((⟨p, -, hx⟩ | ⟨p, -, hx⟩) | ⟨a, -, hx⟩) | hx
  · exact hx ▸ hports p
  · obtain ⟨h1, h2, h3⟩ := hair p
    simp only [airStats, h1, h2, h3, List.mem_cons, List.not_mem_nil, or_false, or_self] at hx
    exact hx
  · obtain ⟨h1, h2⟩ := hclocks a
    simp only [audStats, h1, h2, hstreams a, StreamStats.reset, List.mem_cons, List.not_mem_nil, or_false, or_self] at hx
    exact hx
  · simp only [hhits, hmisses, hdiscarded, hdenials, hsuspensions, List.mem_cons, List.not_mem_nil, or_false, or_self] at hx
    exact hx

theorem StatsClear.replicate {s : State} (h : StatsClear s) : Machine.allStats s = List.replicate 114 0 :=
  List.eq_replicate_iff.mpr ⟨allStats_length s, h.allStats⟩

/-! ### The stated values of power-on -/

section
variable (a : Aud) (t : TrackNo) (p : Port)

theorem reset_port : State.reset.port p = ⟨.hunt, 0, 115200, none⟩ := by
  simp [State.reset, State.port, LinkBlock.reset, PortLink.reset]

theorem reset_clock : State.reset.clock.auds[a] = ⟨0, 0, 0, 600, 16, 1200, 0, 0⟩ := by
  simp [State.reset, ClockBlock.reset, AudClock.reset]

theorem reset_frame : State.reset.frame.auds[a] = FrameAud.reset := by simp [State.reset, FrameBlock.reset]

theorem reset_air (n : Fin 2) : State.reset.frame.air[n] = ⟨120, 2048, 8, 240, 7, 0⟩ := by
  simp [State.reset, FrameBlock.reset, AirParams.reset]

theorem reset_stats : State.reset.stream.stats[a] = StreamStats.reset := by simp [State.reset, StreamBlock.reset]

theorem reset_statsClear : StatsClear State.reset where
  ports p := by rw [reset_port]
  air n := by rw [reset_air]; simp [State.reset, ReceiverBlock.reset]
  clocks a := by rw [reset_clock]; exact ⟨rfl, rfl⟩
  streams := reset_stats
  cues := ⟨rfl, rfl⟩
  rest := ⟨rfl, rfl, rfl⟩

theorem reset_track : State.reset.cues.cursors[a][t] = ⟨false, 0, 0⟩ ∧ State.reset.rcv.counts[a][t] = 0 ∧
    State.reset.frame.auds[a].sent[t] = .nothing ∧ State.reset.frame.auds[a].countdown[t] = 0 ∧
      State.reset.stream.unserved[a][t] = false := by
  rw [reset_frame]
  simp [State.reset, CueBlock.reset, Cursor.clear, ReceiverBlock.reset, FrameAud.reset, StreamBlock.reset]

theorem reset_cacheSet (i : Fin 16) : State.reset.cues.sets[i] = CacheSet.clear := by simp [State.reset, CueBlock.reset]

end

/-- Settles O12: each table holds one value throughout. -/
theorem resetStateHasStatedValues : Obligations.ResetStateHasStatedValues := by
  have hattention : ∀ p, State.reset.link.attention[portIx p] = false := fun p => by simp [State.reset, LinkBlock.reset]
  refine ⟨fun p => ⟨reset_port p, ?_, hattention p⟩, titlesReset_reset.title, rfl, fun _ => rfl, fun p => ?_, rfl, rfl,
    rfl, rfl, fun i => ?_, fun a => ⟨titlesReset_reset.context a, reset_clock a, ?_, ?_, reset_stats a, reset_track a⟩,
    fun i => ⟨fun w => ?_, ?_, ?_, ?_⟩, reset_air, fun i => ?_, rfl, fun c => ⟨?_, ?_⟩, rfl, rfl, rfl, rfl, rfl,
    reset_statsClear.allStats⟩
  · exact (LinkBlock.reset_attends p).symm.trans (hattention p)
  · simp [State.reset, LoaderBlock.reset]
  · simp [State.reset, ReceiverBlock.reset]
  · rw [reset_frame]; rfl
  · rw [reset_frame]; rfl
  · rw [reset_cacheSet]; simp [CacheSet.clear, Way.clear]
  · rw [reset_cacheSet]; rfl
  · rw [reset_cacheSet]; rfl
  · rw [reset_cacheSet]; rfl
  · simp [State.reset, StreamBlock.reset, Stream.reset]
  · simp [State.reset, StoreBlock.reset, ClipEntry.clear]
  · simp [State.reset, StoreBlock.reset]

end Sys2Proof.Machine
end

/-! The requests: the answer of a taken one, what every answer has, the refusals at the door; and the receivers of the
ports (R202 to R206, R214). -/
section
namespace Sys2Proof.Machine

open Sys2Proof.Safety

/-! ### A taken request (R203 to R205) -/

theorem takes_iff {r : Req} {s : State} : s.takes r = true ↔ s.owing r.port = false ∧ r.body.length ≤ 1024 := by
  simp [State.takes]

/-- A well-formed request has a body that a frame can hold. -/
theorem bodyFits_of_wellFormed {i : Instr} {r : Req} {k : Byte} (hi : asRequest i = some (r, k)) (hw : i.wellFormed = true) :
    r.body.length ≤ 1024 := by
  have hfits : ∀ {x : Req}, x.bodyFits = true → x.body.length ≤ 1024 := fun h => of_decide_eq_true h
  have hset : ∀ {x : Req} {n : Nat}, x.wellFormedSet n = true → x.body.length ≤ 1024 := fun h =>
    hfits (Bool.and_eq_true_iff.mp h).1
  cases i with
  | setLoadIdleTime x | setKeepAliveTime x | setUrgencyMargin x | setJumpThreshold x | setGainExponent x | setSilenceInterval x
  | setLead x | setCapacity x | setRepeatPeriod x | setWindow x | setBitRate x =>
    cases hi
    exact hset hw
  | reset x | loadOpen x | loadData x | loadFinish x | loadAbort x | unload x | arm x | run x | hold x | darken x
  | position x | assignFeed x | assignAir x | report x | pull x | sense x | stats x | tableRead x | cacheProbe x
  | cacheFlush x | clipDefine x | clipDelete x | clipWriteEnable x | clipProgram x | clipErase x | clipVerify x | clipProtect x =>
    cases hi
    exact hfits hw
  | _ => cases hi

theorem asRequest_reset {i : Instr} {r x : Req} {k : Byte} (hi : asRequest i = some (r, k)) (e : i = .reset x) :
    r = x ∧ k = 28 := by
  subst e
  cases hi
  exact ⟨rfl, rfl⟩

section
variable {i : Instr} {r : Req} {k : Byte} {s : State}

/-- A well-formed request but RESET of a valid kind is carried out, and its port owes the answer. -/
theorem exec_answer (hi : asRequest i = some (r, k)) (hk : ∀ x, i ≠ .reset x) (hw : i.wellFormed = true)
    (ho : s.owing r.port = false) (hv : validKind r.port k = true) :
    exec i s = .next (answer r.port k r.tag (actOf i s).2 (actOf i s).1) := by
  obtain h | ⟨h, -⟩ := exec_request hi hk s
  · rw [h, request_taken (takes_iff.mpr ⟨ho, bodyFits_of_wellFormed hi hw⟩) hv]
    rfl
  · rw [hw] at h
    cases h

/-- What a request answers and does, its effect given. -/
theorem exec_answer_of {p : Port} {tag : Byte} {body : List Byte} (hi : asRequest i = some (⟨p, tag, body⟩, k))
    (hk : k ≠ 28) (hw : i.wellFormed = true) (ho : s.owing p = false) (hv : validKind p k = true) {t : State}
    {x : Reply} (hact : actOf i s = (t, x)) : exec i s = .next (answer p k tag x t) := by
  rw [exec_answer hi (fun _ e => hk (asRequest_reset hi e).2) hw ho hv, hact]

/-- A well-formed request of a kind that its port does not take (R205). -/
theorem exec_unknown (hi : asRequest i = some (r, k)) (hw : i.wellFormed = true) (ho : s.owing r.port = false)
    (hv : validKind r.port k = false) : exec i s = .next (answer r.port k r.tag (Reply.of .unknownRequest) s) := by
  have htakes := takes_iff.mpr ⟨ho, bodyFits_of_wellFormed hi hw⟩
  by_cases hk : ∀ x, i ≠ .reset x
  · obtain h | ⟨h, -⟩ := exec_request hi hk s
    · rw [h, request_unknown htakes hv]
      rfl
    · rw [hw] at h
      cases h
  · obtain ⟨x, rfl⟩ : ∃ x, i = .reset x := by simpa using hk
    cases hi
    have hm : (r.port == .m) = false := by
      cases hp : r.port with
      | m => rw [hp] at hv; exact absurd hv (by decide)
      | feed n => rfl
      | air n => rfl
    change Host.Outcome.next (resetRequest r s) = _
    unfold resetRequest
    rw [if_neg (by simp [hm]), request_unknown (k := kindReset) htakes hv]
    rfl

/-- On an OWED port a request is discarded (R204). -/
theorem exec_owed (hi : asRequest i = some (r, k)) (hw : i.wellFormed = true) (ho : s.owing r.port = true) :
    exec i s = .next (s.owedByte r.port) := by
  by_cases hk : ∀ x, i ≠ .reset x
  · obtain h | ⟨h, -⟩ := exec_request hi hk s
    · rw [h, request_owed ho]
    · rw [hw] at h
      cases h
  · obtain ⟨x, rfl⟩ : ∃ x, i = .reset x := by simpa using hk
    cases hi
    change Host.Outcome.next (resetRequest r s) = _
    unfold resetRequest
    rw [if_neg (by simp [State.takes, ho]), request_owed ho]

end

/-! ### Bodies of another length (R214) -/

theorem admitShow_badLength {r : Req} {len : Nat} {mToo : Bool} {s : State} (h : r.body.length ≠ len) :
    admitShow r len mToo s = .error .badLength := if_pos h

/-- A request whose length R214 fixes refuses any other, CLIP.PROGRAM and CLIP.ERASE clearing the latch (R190). -/
theorem actOf_badLength {i : Instr} {r : Req} {k : Byte} {n : Nat} (hi : asRequest i = some (r, k))
    (hk : ∀ x, i ≠ .reset x) (hv : validKind r.port k = true) (hn : fixedLength i = some n) (hlen : r.body.length ≠ n)
    (s : State) : actOf i s = refuse .badLength (if k = 24 ∨ k = 25 then { s with store := { s.store with latch := false } } else s) := by
  cases i with
  | reset x =>
    cases hi
    exact absurd rfl (hk r)
  | arm x =>
    cases hi; cases hn
    change arm r s = _
    unfold arm
    rw [admitShow_badLength hlen]
    rfl
  | run x =>
    cases hi; cases hn
    change run r s = _
    unfold run
    rw [admitShow_badLength hlen]
    rfl
  | hold x =>
    cases hi; cases hn
    change hold r s = _
    unfold hold
    rw [admitShow_badLength hlen]
    rfl
  | darken x =>
    cases hi; cases hn
    change darken r s = _
    unfold darken
    rw [admitShow_badLength hlen]
    rfl
  | position x =>
    cases hi; cases hn
    change position r s = _
    unfold position admitPosition
    rw [admitShow_badLength hlen]
    rfl
  | loadFinish x =>
    cases hi; cases hn
    change loadFinish r s = _
    unfold loadFinish
    rw [decide_eq_false hlen]
    rfl
  | loadAbort x =>
    cases hi; cases hn
    change loadAbort r s = _
    unfold loadAbort
    rw [decide_eq_false hlen]
    rfl
  | pull x =>
    cases hi; cases hn
    change pull r s = _
    unfold pull
    cases hp : r.port with
    | air p => exact if_pos hlen
    | feed p => rw [hp] at hv; exact (nomatch (show false = true from hv))
    | m => rw [hp] at hv; exact absurd hv (by decide)
  | setLoadIdleTime x | setKeepAliveTime x | setUrgencyMargin x | setJumpThreshold x | setGainExponent x | setSilenceInterval x
  | setLead x | setCapacity x | setRepeatPeriod x | setWindow x | setBitRate x
  | unload x | assignFeed x | assignAir x | sense x | stats x | tableRead x | cacheProbe x | cacheFlush x | clipDefine x
  | clipDelete x | clipWriteEnable x | clipProgram x | clipErase x | clipVerify x | clipProtect x =>
    cases hi; cases hn
    exact if_pos hlen
  | loadOpen x | loadData x | report x => cases hn
  | _ => cases hi

/-- Settles O3: the checks before the effect, then the effect's own check of the length. -/
theorem requestsRefusedAtTheDoor : Obligations.RequestsRefusedAtTheDoor := by
  refine ⟨⟨fun i r k s hi hw ho hv => exec_unknown hi hw ho hv, fun p k tag s ho hv => ?_⟩, ?_⟩
  · change Host.Outcome.next (unknownRequest p k tag s) = _
    unfold unknownRequest
    rw [if_neg (by simp [ho]), if_neg (by simp [hv])]
    rfl
  · intro i r k n s hi hw ho hv hn hlen
    by_cases hk : ∀ x, i ≠ .reset x
    · rw [exec_answer hi hk hw ho hv, actOf_badLength hi hk hv hn hlen s]
      rfl
    · obtain ⟨x, rfl⟩ : ∃ x, i = .reset x := by simpa using hk
      have htakes := takes_iff.mpr ⟨ho, bodyFits_of_wellFormed hi hw⟩
      cases hi; cases hn
      change Host.Outcome.next (resetRequest r s) = _
      unfold resetRequest
      rw [if_neg (by simp [List.length_eq_zero_iff.not.mp hlen]), request_refuse (k := kindReset) _ htakes hv]
      rfl

/-! ### What every answer has (R206) -/

/-- CLAMPED with OK alone, data with OK and ALREADY_LOADED alone (R206). -/
structure Reply.Sound (x : Reply) : Prop where
  clamped : x.clamped = true → x.code = .ok
  data : x.code ≠ .ok → x.code ≠ .alreadyLoaded → x.data = []

theorem Reply.Sound.of (c : Code) : (Reply.of c).Sound := ⟨fun h => (nomatch h), fun _ _ => rfl⟩

theorem Reply.Sound.of_ok {x : Reply} (h : x.code = .ok) : x.Sound := ⟨fun _ => h, fun hne => absurd h hne⟩

theorem refuse_sound (c : Code) (s : State) : (refuse c s).2.Sound := .of c

section
variable (r : Req) (s : State)

theorem loadOpen_sound : (loadOpen r s).2.Sound := by
  unfold loadOpen loadOpenOn
  split
  · split
    · exact refuse_sound _ s
    · split
      · exact ⟨fun h => (nomatch h), fun _ h => absurd rfl h⟩
      · split
        · exact refuse_sound _ s
        split
        · exact refuse_sound _ s
        split
        · exact refuse_sound _ s
        split
        · exact refuse_sound _ s
        split
        · exact refuse_sound _ s
        · exact .of_ok rfl
  · exact refuse_sound _ s

theorem appendEntries_sound (t : TitleNo) (tn : Nat) (es : List RawEntry) :
    ∀ cut s, (appendEntries t tn es cut s).2.Sound := by
  induction es with
  | nil => exact fun _ _ => .of_ok rfl
  | cons e es ih =>
    intro cut s
    unfold appendEntries
    split
    · exact .of _
    · exact ih _ _

theorem loadData_sound : (loadData r s).2.Sound := by
  unfold loadData
  dsimp only
  split
  · exact refuse_sound _ s
  split
  · exact .of _
  split
  · exact refuse_sound _ _
  · exact appendEntries_sound _ _ _ _ _

theorem loadFinish_sound : (loadFinish r s).2.Sound := by
  unfold loadFinish
  split
  · exact refuse_sound _ s
  · dsimp only
    split
    · exact .of _
    · exact .of _

theorem loadAbort_sound : (loadAbort r s).2.Sound := by
  unfold loadAbort
  split
  · exact refuse_sound _ s
  · exact .of _

theorem unload_sound : (unload r s).2.Sound := by
  unfold unload
  split
  · exact refuse_sound _ s
  split
  · exact refuse_sound _ s
  · dsimp only
    repeat' split
    all_goals exact .of _

theorem arm_sound : (arm r s).2.Sound := by
  unfold arm
  repeat' split
  all_goals exact .of _

theorem run_sound : (run r s).2.Sound := by
  unfold run
  repeat' split
  all_goals exact .of _

theorem hold_sound : (hold r s).2.Sound := by
  unfold hold
  repeat' split
  all_goals exact .of _

theorem darken_sound : (darken r s).2.Sound := by
  unfold darken
  repeat' split
  all_goals exact .of _

theorem position_sound : (position r s).2.Sound := by
  unfold position
  split
  · exact refuse_sound _ s
  · exact .of_ok rfl

theorem assignFeed_sound : (assignFeed r s).2.Sound := by
  unfold assignFeed
  repeat' split
  all_goals exact .of _

theorem assignAir_sound : (assignAir r s).2.Sound := by
  unfold assignAir
  repeat' split
  all_goals exact .of _

theorem report_sound : (report r s).2.Sound := by
  unfold report reportOn
  split
  · dsimp only
    split
    · exact refuse_sound _ s
    split
    · exact refuse_sound _ s
    · exact .of_ok rfl
  · exact refuse_sound _ s
  · exact refuse_sound _ s

theorem pull_sound : (pull r s).2.Sound := by
  unfold pull pullOn
  split
  · split
    · exact refuse_sound _ s
    split
    · exact refuse_sound _ s
    split
    · exact refuse_sound _ s
    · exact .of_ok rfl
  · exact refuse_sound _ s
  · exact refuse_sound _ s

theorem sense_sound : (sense r s).2.Sound := by
  unfold sense
  dsimp only
  split
  · exact refuse_sound _ s
  split
  · exact refuse_sound _ s
  split
  · exact .of_ok rfl
  · exact .of_ok rfl

theorem stats_sound : (stats r s).2.Sound := by
  unfold stats
  dsimp only
  split
  · exact refuse_sound _ s
  split
  · exact refuse_sound _ s
  split
  · exact .of_ok rfl
  · exact .of_ok rfl

theorem tableRead_sound : (tableRead r s).2.Sound := by
  unfold tableRead
  dsimp only
  split
  · exact refuse_sound _ s
  split
  · exact refuse_sound _ s
  · exact .of_ok rfl

theorem cacheProbe_sound : (cacheProbe r s).2.Sound := by
  unfold cacheProbe
  dsimp only
  split
  · exact refuse_sound _ s
  split
  · exact refuse_sound _ s
  · exact .of_ok rfl

theorem cacheFlush_sound : (cacheFlush r s).2.Sound := by
  unfold cacheFlush
  split
  · exact refuse_sound _ s
  · exact .of _

theorem clipDefine_sound : (clipDefine r s).2.Sound := by
  unfold clipDefine
  dsimp only
  repeat' split
  all_goals exact .of _

theorem clipDelete_sound : (clipDelete r s).2.Sound := by
  unfold clipDelete
  repeat' split
  all_goals exact .of _

theorem clipWriteEnable_sound : (clipWriteEnable r s).2.Sound := by
  unfold clipWriteEnable
  split
  · exact refuse_sound _ s
  · exact .of _

theorem clipProgram_sound : (clipProgram r s).2.Sound := by
  unfold clipProgram
  dsimp only
  repeat' split
  all_goals exact .of _

theorem clipErase_sound : (clipErase r s).2.Sound := by
  unfold clipErase
  dsimp only
  repeat' split
  all_goals exact .of _

theorem clipVerify_sound : (clipVerify r s).2.Sound := by
  unfold clipVerify
  split
  · exact refuse_sound _ s
  split
  · exact refuse_sound _ s
  · dsimp only
    repeat' split
    all_goals exact .of _

theorem clipProtect_sound : (clipProtect r s).2.Sound := by
  unfold clipProtect
  dsimp only
  split
  · exact refuse_sound _ s
  · exact .of_ok rfl

theorem setParam_sound (lo hi : Nat) (store : Nat → Nat → State → Option State) : (setParam lo hi store r s).2.Sound := by
  unfold setParam
  dsimp only
  split
  · exact refuse_sound _ s
  split
  · exact refuse_sound _ s
  split
  · exact refuse_sound _ s
  · exact .of_ok rfl

end

theorem actOf_sound (i : Instr) (s : State) : (actOf i s).2.Sound := by
  cases i with
  | loadOpen r => exact loadOpen_sound r s
  | loadData r => exact loadData_sound r s
  | loadFinish r => exact loadFinish_sound r s
  | loadAbort r => exact loadAbort_sound r s
  | unload r => exact unload_sound r s
  | arm r => exact arm_sound r s
  | run r => exact run_sound r s
  | hold r => exact hold_sound r s
  | darken r => exact darken_sound r s
  | position r => exact position_sound r s
  | assignFeed r => exact assignFeed_sound r s
  | assignAir r => exact assignAir_sound r s
  | report r => exact report_sound r s
  | pull r => exact pull_sound r s
  | sense r => exact sense_sound r s
  | stats r => exact stats_sound r s
  | tableRead r => exact tableRead_sound r s
  | cacheProbe r => exact cacheProbe_sound r s
  | cacheFlush r => exact cacheFlush_sound r s
  | clipDefine r => exact clipDefine_sound r s
  | clipDelete r => exact clipDelete_sound r s
  | clipWriteEnable r => exact clipWriteEnable_sound r s
  | clipProgram r => exact clipProgram_sound r s
  | clipErase r => exact clipErase_sound r s
  | clipVerify r => exact clipVerify_sound r s
  | clipProtect r => exact clipProtect_sound r s
  | setLoadIdleTime r | setKeepAliveTime r | setUrgencyMargin r | setJumpThreshold r | setGainExponent r | setSilenceInterval r
  | setLead r | setCapacity r | setRepeatPeriod r | setWindow r | setBitRate r => exact setParam_sound r s _ _ _
  | _ => exact .of _

/-- The ports once one of them owes an answer, the receivers before as in `s`. -/
theorem answer_rx {s t : State} (hrx : ∀ p, (t.port p).rx = (s.port p).rx) (q : Port) (k tag : Byte) (x : Reply) :
    ((answer q k tag x t).port q).rx = .owed (some ⟨k, tag, x.code, x.clamped, x.data⟩) false ∧
      ∀ p, p ≠ q → ((answer q k tag x t).port p).rx = (s.port p).rx := by
  refine ⟨?_, fun p hp => ?_⟩
  · rw [answer, State.owe_port, if_pos rfl]
  · rw [answer, State.owe_port, if_neg (Ne.symm hp), hrx]

/-- Settles O4: the answer of a request of a kind that the port takes, and of one that it does not. -/
theorem everyRequestIsAnswered : Obligations.EveryRequestIsAnswered := by
  intro i r k s hi hw ho hne
  have hk : ∀ x, i ≠ .reset x := fun x e => hne (asRequest_reset hi e).2
  cases hv : validKind r.port k with
  | true =>
    obtain ⟨hclamped, hdata⟩ := actOf_sound i s
    obtain ⟨hport, hothers⟩ := answer_rx (actOf_keepsBlocks i s).rx r.port k r.tag (actOf i s).2
    exact ⟨_, _, exec_answer hi hk hw ho hv, hport, hclamped, hdata, hothers⟩
  | false =>
    obtain ⟨hport, hothers⟩ := answer_rx (s := s) (fun _ => rfl) r.port k r.tag (Reply.of .unknownRequest)
    exact ⟨_, _, exec_unknown hi hw ho hv, hport, fun h => (nomatch h), fun _ _ => rfl, hothers⟩

end Sys2Proof.Machine
end

/-! The receivers of the ports, the bit rates, and SENSE (R202, R204, R210, R211). -/
section
namespace Sys2Proof.Machine

open Sys2Proof.Safety

/-! ### The receiver of a port (R204) -/

section
variable {s : State} {p : Port}

theorem owing_of_owed {x : Option Response} {counted : Bool} (h : (s.port p).rx = .owed x counted) : s.owing p = true := by
  unfold State.owing; rw [h]

theorem not_owing {x : Rx} (hx : x = .hunt ∨ x = .frame) (h : (s.port p).rx = x) : s.owing p = false := by
  unfold State.owing
  obtain rfl | rfl := hx <;> rw [h]

/-- The first byte of an OWED spell counts a link error, the later ones do not. -/
theorem owedByte_of_owed {x : Option Response} {counted : Bool} (h : (s.port p).rx = .owed x counted) :
    s.owedByte p = if counted then s else s.setPort p { s.port p with
      rx := .owed x true
      linkErrors := bump (s.port p).linkErrors } := by
  unfold State.owedByte
  rw [h]
  cases counted <;> rfl

theorem syncByte_of_owed {x : Option Response} {counted : Bool} (h : (s.port p).rx = .owed x counted) :
    syncByte p s = s.owedByte p := by
  unfold syncByte; rw [h]

theorem syncByte_of_hunt (h : (s.port p).rx = .hunt) : syncByte p s = s.setRx p .frame := by
  unfold syncByte; rw [h]

theorem syncByte_of_frame (h : (s.port p).rx = .frame) : syncByte p s = s := by
  unfold syncByte; rw [h]

theorem discardPartial_of_hunt (h : (s.port p).rx = .hunt) : discardPartial p s = s := by
  unfold discardPartial; rw [h]

theorem discardPartial_of_frame (h : (s.port p).rx = .frame) : discardPartial p s = s.linkError p .hunt := by
  unfold discardPartial; rw [h]

theorem frameLengthDiscard_of_frame (h : (s.port p).rx = .frame) : frameLengthDiscard p s = s.linkError p .hunt := by
  unfold frameLengthDiscard
  rw [not_owing (.inr rfl) h]
  rfl

theorem frameCheckFail_of_frame (h : (s.port p).rx = .frame) :
    frameCheckFail p s = s.linkError p (.owed (some ⟨0, 0, .linkError, false, []⟩) false) := by
  unfold frameCheckFail
  rw [not_owing (.inr rfl) h]
  rfl

theorem responseSent_of_owed {x : Response} {counted : Bool} (h : (s.port p).rx = .owed (some x) counted) :
    responseSent p s = s.setRx p .hunt := by
  unfold responseSent; rw [h]

/-- Each event that brings a byte to an OWED port has the byte discarded. -/
theorem exec_byte_of_owed {x : Option Response} {counted : Bool} (h : (s.port p).rx = .owed x counted) :
    ∀ c ∈ [Instr.owedByteDiscard p, .syncByte p], exec c s = .next (s.owedByte p) := by
  intro c hc
  simp only [List.mem_cons, List.not_mem_nil, or_false] at hc
  obtain rfl | rfl := hc
  · rfl
  · exact congrArg Host.Outcome.next (syncByte_of_owed h)

end

/-- Settles O5: state by state of the receiver. -/
theorem receiverFollowsItsTable : Obligations.ReceiverFollowsItsTable := by
  refine ⟨fun p s => ⟨fun h => ?_, fun h => ?_, fun resp h c hc => ?_, fun resp h c hc => ?_, fun resp counted h => ?_⟩,
    fun i r k s resp counted hi hw h => ?_⟩
  · have hdiscard := discardPartial_of_hunt h
    exact ⟨congrArg Host.Outcome.next (syncByte_of_hunt h), congrArg Host.Outcome.next hdiscard,
      congrArg Host.Outcome.next hdiscard⟩
  · have hdiscard := discardPartial_of_frame h
    exact ⟨congrArg Host.Outcome.next (syncByte_of_frame h), congrArg Host.Outcome.next (frameLengthDiscard_of_frame h),
      congrArg Host.Outcome.next hdiscard, congrArg Host.Outcome.next hdiscard,
      congrArg Host.Outcome.next (frameCheckFail_of_frame h)⟩
  · rw [exec_byte_of_owed h c hc, owedByte_of_owed h]
    rfl
  · rw [exec_byte_of_owed h c hc, owedByte_of_owed h]
    rfl
  · exact congrArg Host.Outcome.next (responseSent_of_owed h)
  · rw [exec_owed hi hw (owing_of_owed h), owedByte_of_owed h]

/-! ### SET (R207) -/

theorem clampTo_eq {lo hi : Nat} (h : lo ≤ hi) (v : Nat) : clampTo lo hi v = nearest lo hi v := by
  unfold clampTo nearest
  split
  · rw [Nat.min_eq_left (by omega), Nat.max_eq_left (by omega)]
  split
  · rw [Nat.min_eq_right (by omega), Nat.max_eq_right h]
  · rw [Nat.min_eq_left (by omega), Nat.max_eq_right (by omega)]

theorem setReply_eq {lo hi : Nat} (h : lo ≤ hi) (v : Nat) : setReply v (clampTo lo hi v) = setAnswer lo hi v := by
  rw [clampTo_eq h]
  unfold setReply setAnswer
  have hclamped : (v != nearest lo hi v) = decide (v < lo ∨ hi < v) := by
    unfold nearest
    rw [Bool.eq_iff_iff, bne_iff_ne, decide_eq_true_iff]
    split
    · omega
    · split <;> omega
  rw [hclamped]

section
variable {tag param target : Byte} {v : Nat} {s : State} {lo hi : Nat} {store : Nat → Nat → State → Option State}

theorem field_set (hv : v < 2 ^ 32) : field ([param, target] ++ le 4 v) 2 4 = v := by
  have h := field_append [param, target] (le 4 v) 0 4
  rw [show [param, target].length + 0 = 2 from rfl, field_all] at h
  rw [h]
  omega

/-- A SET of a parameter that takes its target (R207). -/
theorem setParam_stores {t : State} (hlo : lo ≤ hi) (hv : v < 2 ^ 32) (hparam : 1 ≤ param.toNat ∧ param.toNat ≤ 11)
    (hstore : store target.toNat (nearest lo hi v) s = some t) :
    setParam lo hi store ⟨.m, tag, [param, target] ++ le 4 v⟩ s = (t, setAnswer lo hi v) := by
  have hparams : ¬(param.toNat = 0 ∨ 11 < param.toNat) := by omega
  unfold setParam
  rw [← setReply_eq hlo]
  rw [← clampTo_eq hlo] at hstore
  simp only [field_set hv]
  simp [hparams, hstore]

/-- A SET whose parameter is outside 1 to 11, or whose target is outside the parameter's range (R207). -/
theorem setParam_range (h : param.toNat < 1 ∨ 11 < param.toNat ∨ ∀ v, store target.toNat v s = none) :
    setParam lo hi store ⟨.m, tag, [param, target] ++ le 4 v⟩ s = refuse .range s := by
  unfold setParam
  dsimp only
  rw [if_neg (by simp)]
  split
  · rfl
  · rename_i hparam
    have hin : ¬(param.toNat < 1 ∨ 11 < param.toNat) := by simpa [-Nat.lt_one_iff] using hparam
    have hnone : ∀ v, store target.toNat v s = none := by
      obtain h | h | h := h
      · exact absurd (.inl h) hin
      · exact absurd (.inr h) hin
      · exact h
    simp [hnone]

/-- A SET that is stored (R207). -/
theorem exec_set {i : Instr} {t : State} (store : Nat → Nat → State → Option State)
    (hreq : asRequest i = some (⟨.m, tag, [param, target] ++ le 4 v⟩, 16)) (hw : i.wellFormed = true)
    (hact : actOf i s = setParam lo hi store ⟨.m, tag, [param, target] ++ le 4 v⟩ s) (ho : s.owing .m = false)
    (hv : v < 2 ^ 32) (hlo : lo ≤ hi) (hparam : 1 ≤ param.toNat ∧ param.toNat ≤ 11)
    (hstore : store target.toNat (nearest lo hi v) s = some t) :
    exec i s = .next (answer .m 16 tag (setAnswer lo hi v) t) :=
  exec_answer_of hreq (by decide) hw ho rfl (hact.trans (setParam_stores hlo hv hparam hstore))

end

theorem portOfCode_portIx (p : Port) : portOfCode (portIx p).val = some p := by
  cases p with
  | feed n => revert n; decide
  | air n => revert n; decide
  | m => rfl

theorem bitRateChangeApplies_of {s : State} {p : Port} {v : Nat} (hrate : (s.port p).newRate = some v) :
    bitRateChangeApplies p s =
      if rateMayApply p (s.port p).rx then s.setPort p { s.port p with bitRate := v, newRate := none } else s := by
  unfold bitRateChangeApplies
  dsimp only
  rw [hrate]

theorem bitRateChangeApplies_busy {s : State} {p : Port} (h : rateMayApply p (s.port p).rx = false) :
    bitRateChangeApplies p s = s := by
  unfold bitRateChangeApplies
  dsimp only
  split
  · exact if_neg (by rw [h]; decide)
  · rfl

/-- Settles O6: the storing of a rate, then its coming into force by the state of the receiver. -/
theorem bitRateIsStoredThenApplied : Obligations.BitRateIsStoredThenApplied := by
  refine ⟨fun p v tag s hv ho => ?_, fun p v s hrate hrx => ?_, fun p s h => ?_⟩
  · refine exec_set storeBitRate rfl rfl rfl ho hv (by decide) ⟨by decide, by decide⟩ ?_
    · have hcode : (byte (portIx p).val).toNat = (portIx p).val := by rw [byte_toNat]; omega
      rw [hcode, storeBitRate, portOfCode_portIx]
      rfl
  · refine congrArg Host.Outcome.next ((bitRateChangeApplies_of hrate).trans ?_)
    rw [hrx]
    rfl
  · refine congrArg Host.Outcome.next (bitRateChangeApplies_busy ?_)
    obtain ho | ⟨hframe, hp⟩ := h
    · unfold State.owing at ho
      cases hrx : (s.port p).rx with
      | owed x counted => rfl
      | hunt => rw [hrx] at ho; cases ho
      | frame => rw [hrx] at ho; cases ho
    · rw [hframe]
      exact beq_eq_false_iff_ne.mpr hp

/-! ### Latches and SENSE (R210, R211) -/

/-- The line of a port with a flag set is low (R211). -/
theorem LinkBlock.attend_of_flagged {l : LinkBlock} {p : Port} (h : l.flagged p = true) :
    l.attend p = { l with attention := setAt l.attention (portIx p) true } := by
  unfold LinkBlock.attend; rw [h]

section
variable (l : LinkBlock)

/-- A latched condition of a feed port, its flags then `x` (R51). -/
theorem LinkBlock.latchFeed_eq (n : Fin 4) (c : FeedCond) (a : Aud) : l.latchFeed n c a =
    { l with feed := setAt l.feed n (l.feed[n].latch c a), attention := setAt l.attention (portIx (.feed n)) true } := by
  refine attend_of_flagged ?_
  cases c <;> simp [LinkBlock.flagged, FeedFlags.any, FeedFlags.latch]

theorem LinkBlock.latchTableFull_eq (n : Fin 2) (a : Aud) : l.latchTableFull n a =
    { l with
      air := setAt l.air n { l.air[n] with tableFull := joinAud l.air[n].tableFull a }
      attention := setAt l.attention (portIx (.air n)) true } := by
  refine attend_of_flagged ?_
  simp [LinkBlock.flagged, AirFlags.any]

theorem LinkBlock.latchExpired_eq (n : Fin 2) (a : Aud) : l.latchExpired n a =
    { l with
      air := setAt l.air n { l.air[n] with expired := joinAud l.air[n].expired a }
      attention := setAt l.attention (portIx (.air n)) true } := by
  refine attend_of_flagged ?_
  simp [LinkBlock.flagged, AirFlags.any]

/-- A port with a load flag set is flagged. -/
theorem LinkBlock.flagged_of_load {p : LoadPort} (h : l.load[p].any = true) : l.flagged (portOfLoad p) = true := by
  unfold portOfLoad
  split
  · simp [LinkBlock.flagged, show l.load[p.val].any = true from h]
  · have hp : p = 4 := Fin.ext (by rename_i h; have := p.isLt; change p.val = 4; omega)
    subst hp
    simp [LinkBlock.flagged, show l.load[4].any = true from h]

theorem LinkBlock.latchLoadDone_eq (p : LoadPort) (t : TitleNo) : l.latchLoadDone p t =
    { l with
      load := setAt l.load p { l.load[p] with done := some t }
      attention := setAt l.attention (portIx (portOfLoad p)) true } :=
  attend_of_flagged (flagged_of_load _ (by simp [LoadFlags.any]))

theorem LinkBlock.latchLoadFailed_eq (p : LoadPort) (t : TitleNo) (r : FailReason) : l.latchLoadFailed p t r =
    { l with
      load := setAt l.load p { l.load[p] with failed := some (t, r) }
      attention := setAt l.attention (portIx (portOfLoad p)) true } :=
  attend_of_flagged (flagged_of_load _ (by simp [LoadFlags.any]))

theorem LinkBlock.attend_mgmt_eq {x : MgmtFlags} (h : x.any = true) :
    LinkBlock.attend { l with mgmt := x } .m = { l with mgmt := x, attention := setAt l.attention (portIx .m) true } :=
  attend_of_flagged (by simp [LinkBlock.flagged, h])

theorem LinkBlock.clearFlags_details (p : Port) : ∀ d ∈ (l.clearFlags p).details p, d = none := by
  intro d hd
  cases p <;>
    simpa [LinkBlock.clearFlags, LinkBlock.details, LoadFlags.details, LoadFlags.clear, FeedFlags.clear, AirFlags.clear,
      MgmtFlags.clear, setDetail] using hd

theorem LinkBlock.clearFlags_details_other {p q : Port} (h : q ≠ p) : (l.clearFlags p).details q = l.details q := by
  cases p with
  | feed n =>
    cases q with
    | feed m =>
      have hne : n.val ≠ m.val := fun e => h (by rw [Fin.ext e])
      simp [LinkBlock.clearFlags, LinkBlock.details, hne]
    | air m => rfl
    | m =>
      have hne : n.val ≠ 4 := by omega
      simp [LinkBlock.clearFlags, LinkBlock.details, hne]
  | air n =>
    cases q with
    | feed m => rfl
    | air m =>
      have hne : n.val ≠ m.val := fun e => h (by rw [Fin.ext e])
      simp [LinkBlock.clearFlags, LinkBlock.details, hne]
    | m => rfl
  | m =>
    cases q with
    | feed m =>
      have hne : 4 ≠ m.val := by omega
      simp [LinkBlock.clearFlags, LinkBlock.details, hne]
    | air m => rfl
    | m => exact absurd rfl h

theorem LinkBlock.clearFlags_flagged (p : Port) : (l.clearFlags p).flagged p = false := by
  cases p <;>
    simp [LinkBlock.clearFlags, LinkBlock.flagged, LoadFlags.any, LoadFlags.clear, FeedFlags.any, FeedFlags.clear,
      AirFlags.any, AirFlags.clear, MgmtFlags.any, MgmtFlags.clear]

theorem LinkBlock.attend_attention (p q : Port) :
    (l.attend p).attention[portIx q] = if p = q then l.flagged p else l.attention[portIx q] := by
  have hinj : (portIx p).val = (portIx q).val ↔ p = q := Fin.ext_iff.symm.trans portIx_inj
  simp [LinkBlock.attend, hinj]

theorem LinkBlock.attend_flagged (p q : Port) : (l.attend p).flagged q = l.flagged q := by cases q <;> rfl

theorem LinkBlock.clearFlags_attention (p q : Port) :
    (l.clearFlags p).attention[portIx q] = if p = q then false else l.attention[portIx q] := by
  have hclear := l.clearFlags_flagged p
  unfold LinkBlock.clearFlags at hclear ⊢
  rw [LinkBlock.attend_flagged] at hclear
  rw [LinkBlock.attend_attention, hclear]
  cases p <;> rfl

end

theorem validKind_sense (p : Port) : validKind p 11 = true := by cases p <;> rfl

/-- Settles O7: SENSE by its clear byte, then each latch by the table that it changes. -/
theorem senseReportsAndClears : Obligations.SenseReportsAndClears := by
  refine ⟨fun p tag s ho => ⟨⟨?_, s.link.clearFlags p, ?_, s.link.clearFlags_ports p, s.link.clearFlags_resetTag p,
    s.link.clearFlags_details p, ?_, fun q hq => ⟨s.link.clearFlags_details_other hq, ?_⟩⟩, fun c hc => ?_⟩, fun l =>
    ⟨fun n a => ⟨⟨_, fun b => joinAud_mem _ a b, l.latchFeed_eq n _ a⟩, ⟨_, fun b => joinAud_mem _ a b, l.latchFeed_eq n _ a⟩,
      ⟨_, fun b => joinAud_mem _ a b, l.latchFeed_eq n _ a⟩, ⟨_, fun b => joinAud_mem _ a b, l.latchFeed_eq n _ a⟩,
      ⟨_, fun b => joinAud_mem _ a b, l.latchFeed_eq n _ a⟩⟩,
    fun n a => ⟨⟨_, fun b => joinAud_mem _ a b, l.latchTableFull_eq n a⟩, ⟨_, fun b => joinAud_mem _ a b, l.latchExpired_eq n a⟩⟩,
    fun p t r => ⟨l.latchLoadDone_eq p t, l.latchLoadFailed_eq p t r⟩, fun b => l.attend_mgmt_eq rfl, fun b => l.attend_mgmt_eq ?_,
    fun c f => l.attend_mgmt_eq ?_, fun a => ⟨_, fun b => joinAud_mem _ a b, l.attend_mgmt_eq ?_⟩⟩⟩
  · exact exec_answer_of rfl (by decide) rfl ho (validKind_sense p) rfl
  · exact exec_answer_of rfl (by decide) rfl ho (validKind_sense p) rfl
  · rw [LinkBlock.clearFlags_attention, if_pos rfl]
  · rw [LinkBlock.clearFlags_attention, if_neg (Ne.symm hq)]
  · refine exec_answer_of rfl (by decide) rfl ho (validKind_sense p) ?_
    unfold actOf sense
    simp [hc]
    rfl
  · simp [MgmtFlags.any]
  · simp [MgmtFlags.any]
  · simp [MgmtFlags.any]

end Sys2Proof.Machine
end

/-! STATS, TABLE.READ and SET (R207 to R209, R214). -/
section
namespace Sys2Proof.Machine

open Sys2Proof.Safety

/-! ### STATS (R208) -/

theorem clearStats_port (s : State) (p : Port) : (clearStats s).port p = { s.port p with linkErrors := 0 } := by
  simp [clearStats, State.port]

theorem clearStats_clock (s : State) (a : Aud) :
    (clearStats s).clock.auds[a] = { s.clock.auds[a] with steps := 0, reelClamps := 0 } := by
  simp [clearStats]

theorem clearStats_air (s : State) (p : Fin 2) : (clearStats s).frame.air[p] = { s.frame.air[p] with deferred := 0 } := by
  simp [clearStats]

theorem clearStats_statsClear (s : State) : StatsClear (clearStats s) where
  ports p := by rw [clearStats_port]
  air p := by rw [clearStats_air]; simp [clearStats]
  clocks a := by rw [clearStats_clock]; exact ⟨rfl, rfl⟩
  streams a := by simp [clearStats]
  cues := ⟨rfl, rfl⟩
  rest := ⟨rfl, rfl, rfl⟩

theorem flatMap_length_const {α : Type} {n : Nat} {f : α → List Byte} (hf : ∀ x, (f x).length = n) (xs : List α) :
    (xs.flatMap f).length = n * xs.length := by
  induction xs with
  | nil => simp
  | cons x xs ih => rw [List.flatMap_cons, List.length_append, hf, ih, List.length_cons]; ring

/-- Settles O8: STATS by its clear byte. -/
theorem statsReturnsAndClears : Obligations.StatsReturnsAndClears := by
  refine fun tag s ho => ⟨⟨?_, ?_, clearStats s, ?_, (clearStats_statsClear s).replicate, rfl, clearStats_port s,
    clearStats_clock s, clearStats_air s⟩, fun c hc => ?_⟩
  · change ((allStats s).flatMap fun n => le 2 n.toNat).length = 228
    rw [flatMap_length_const (fun n : Stat => le_length 2 n.toNat), allStats_length]
  · exact exec_answer_of rfl (by decide) rfl ho rfl rfl
  · exact exec_answer_of rfl (by decide) rfl ho rfl rfl
  · refine exec_answer_of rfl (by decide) rfl ho rfl ?_
    unfold actOf stats
    simp [hc]
    rfl

/-! ### TABLE.READ (R209, R214) -/

theorem tableRead_of {tag table : Byte} {index : Nat} {bs : List Byte} {s : State} (hindex : index < 65536)
    (h : tableEntry s table.toNat index = some bs) : tableRead ⟨.m, tag, table :: le 2 index⟩ s =
      (if table.toNat = 3 then { s with freeCount := s.freeCount + 1 } else s, Reply.okData bs) := by
  have hmod : index % 256 ^ 2 = index := Nat.mod_eq_of_lt hindex
  unfold tableRead
  simp only [at1_cons_zero, field_cons_succ, field_all, List.length_cons, le_length, ne_eq, not_true_eq_false, if_false,
    hmod, h]

theorem tableRead_range {tag table : Byte} {index : Nat} {s : State} (hindex : index < 65536)
    (h : tableEntry s table.toNat index = none) : tableRead ⟨.m, tag, table :: le 2 index⟩ s = refuse .range s := by
  have hmod : index % 256 ^ 2 = index := Nat.mod_eq_of_lt hindex
  unfold tableRead
  simp only [at1_cons_zero, field_cons_succ, field_all, List.length_cons, le_length, ne_eq, not_true_eq_false, if_false,
    hmod, h]

theorem lang_bytes_length (l : Lang) : l.bytes.length = 3 := rfl

theorem prefBytes_length (l : Option Lang) : (prefBytes l).length = 3 := by cases l <;> rfl

theorem track_bytes_length (t : Track) : t.bytes.length = 16 := by simp [Track.bytes, lang_bytes_length]

theorem title_bytes_length (t : Title) :
    t.bytes.length = 28 + 3 * t.reels.length + 16 * t.tracks.length + 2 * t.clips.length := by
  simp only [Title.bytes, List.length_append, List.length_cons, List.length_nil, le_length,
    flatMap_length_const (fun n => le_length 3 n), flatMap_length_const (fun n => le_length 2 n),
    flatMap_length_const track_bytes_length]
  omega

theorem receiverBytes_length (r : Receiver) (seconds : BitVec 32) : (receiverBytes r seconds).length = 23 := by
  simp [receiverBytes, prefBytes_length]

theorem streamBytes_length (x : Stream) (count : Nat) : (streamBytes x count).length = 11 + 5 * x.ring.length := by
  have hring : (x.ring.flatMap fun p => le 4 p.play ++ [byte p.state.toNat]).length = 5 * x.ring.length :=
    flatMap_length_const (fun p => by simp) _
  unfold streamBytes
  cases x.next <;> simp only [List.length_append, List.length_cons, List.length_nil, le_length, hring]

theorem maintenance_bytes_length (op : Maintenance) : op.bytes.length = 8 := by cases op <;> rfl

theorem directoryBytes_length (s : State) (c : ClipNo) : (directoryBytes s c).length = 17 := by
  simp [directoryBytes, maintenance_bytes_length]

theorem clipNo_val (c : ClipNo) : clipNo c.val = some c := dif_pos c.isLt

theorem clipNo_none {n : Nat} (h : 1023 < n) : clipNo n = none := dif_neg (by omega)

/-- A table or an index outside its range has no entry (R209). -/
theorem tableEntry_none {s : State} {table : Byte} {index : Nat} (h : table = 0 ∨ 4 < table.toNat ∨
    (table = 1 ∧ (index = 0 ∨ 24 < index)) ∨ (table = 2 ∧ 511 < index) ∨ (table = 3 ∧ 23 < index) ∨
    (table = 4 ∧ 1023 < index)) : tableEntry s table.toNat index = none := by
  obtain rfl | h | ⟨rfl, h⟩ | ⟨rfl, h⟩ | ⟨rfl, h⟩ | ⟨rfl, h⟩ := h
  · rfl
  · unfold tableEntry
    split
    · omega
    · omega
    · omega
    · omega
    · rfl
  · exact congrArg (Option.map _) (titleOfHandle_none h)
  · exact dif_neg (by omega)
  · exact dif_neg (by omega)
  · exact congrArg (Option.map _) (clipNo_none h)

/-- Settles O9: the entry of each table, then the reads that name none. -/
theorem tableReadReturnsEntry : Obligations.TableReadReturnsEntry := by
  intro tag s ho
  refine ⟨fun t => ⟨?_, title_bytes_length _⟩, fun i => ⟨?_, receiverBytes_length _ _⟩,
    fun i => ⟨?_, streamBytes_length _ _⟩, fun c => ⟨?_, directoryBytes_length s c⟩, fun table index hindex h => ?_⟩
  · have ht := handle_lt t
    refine exec_answer_of rfl (by decide) rfl ho rfl (tableRead_of (by omega) ?_)
    exact congrArg (Option.map _) (titleOfHandle_handle t)
  · refine exec_answer_of rfl (by decide) rfl ho rfl (tableRead_of (by omega) ?_)
    exact dif_pos i.isLt
  · refine exec_answer_of rfl (by decide) rfl ho rfl (tableRead_of (by omega) ?_)
    exact dif_pos i.isLt
  · refine exec_answer_of rfl (by decide) rfl ho rfl (tableRead_of (by omega) ?_)
    exact congrArg (Option.map _) (clipNo_val c)
  · exact exec_answer_of rfl (by decide) rfl ho rfl (tableRead_range hindex (tableEntry_none h))

/-! ### SET (R207) -/

theorem setClockParam_aud (f : AudClock → Nat → AudClock) (a : Aud) (v : Nat) (s : State) :
    setClockParam f (byte a.val).toNat v s = some (s.setClock a (f s.clock.auds[a] v)) := by
  unfold setClockParam
  rw [byte_toNat, audOf_byte]
  rfl

theorem setClockParam_none (f : AudClock → Nat → AudClock) {target : Nat} (h : 15 < target) (v : Nat) (s : State) :
    setClockParam f target v s = none := by
  unfold setClockParam
  rw [audOf_none (by omega)]
  rfl

theorem setAirParam_port (f : AirParams → Nat → AirParams) (p : Fin 2) (v : Nat) (s : State) :
    setAirParam f (byte (4 + p.val)).toNat v s =
      some { s with frame := { s.frame with air := setAt s.frame.air p (f s.frame.air[p] v) } } := by
  have hp : airTarget (byte (4 + p.val)).toNat = some p := by revert p; decide
  unfold setAirParam
  rw [hp]
  rfl

theorem setAirParam_none (f : AirParams → Nat → AirParams) {target : Nat} (h4 : target ≠ 4) (h5 : target ≠ 5) (v : Nat)
    (s : State) : setAirParam f target v s = none := by
  unfold setAirParam airTarget
  rw [if_neg h4, if_neg h5]
  rfl

theorem storeLead_port (p : Fin 2) (v : Nat) (s : State) : storeLead (byte (4 + p.val)).toNat v s =
    some (suspendTest { s with
      frame := { s.frame with air := setAt s.frame.air p { s.frame.air[p] with lead := v } } }) := by
  unfold storeLead
  rw [setAirParam_port]
  rfl

theorem storeLead_none {target : Nat} (h4 : target ≠ 4) (h5 : target ≠ 5) (v : Nat) (s : State) :
    storeLead target v s = none := by
  unfold storeLead
  rw [setAirParam_none _ h4 h5]
  rfl

theorem storeBitRate_none {target : Nat} (h : 6 < target) (v : Nat) (s : State) : storeBitRate target v s = none := by
  unfold storeBitRate portOfCode
  rw [dif_neg (by omega), if_neg (by omega), if_neg (by omega), if_neg (by omega)]
  rfl

/-- Settles O10: parameter by parameter. -/
theorem setStoresParameters : Obligations.SetStoresParameters := by
  refine ⟨fun tag target v s hv ho => ⟨?_, ?_, ?_⟩, fun tag a v s hv ho => ⟨?_, ?_, ?_⟩,
    fun tag p v s hv ho => ⟨?_, ?_, ?_, ?_⟩⟩
  · exact exec_set storeLoadIdleTime rfl rfl rfl ho hv (by decide) ⟨by decide, by decide⟩ rfl
  · exact exec_set storeKeepAlive rfl rfl rfl ho hv (by decide) ⟨by decide, by decide⟩ rfl
  · exact exec_set storeMargin rfl rfl rfl ho hv (by decide) ⟨by decide, by decide⟩ rfl
  · exact exec_set (setClockParam fun c v => { c with jump := v }) rfl rfl rfl ho hv (by decide) ⟨by decide, by decide⟩
      (setClockParam_aud _ a _ s)
  · exact exec_set (setClockParam fun c v => { c with gain := v }) rfl rfl rfl ho hv (by decide) ⟨by decide, by decide⟩
      (setClockParam_aud _ a _ s)
  · exact exec_set (setClockParam fun c v => { c with interval := v }) rfl rfl rfl ho hv (by decide)
      ⟨by decide, by decide⟩ (setClockParam_aud _ a _ s)
  · exact exec_set storeLead rfl rfl rfl ho hv (by decide) ⟨by decide, by decide⟩ (storeLead_port p _ s)
  · exact exec_set (setAirParam fun x v => { x with capacity := v }) rfl rfl rfl ho hv (by decide)
      ⟨by decide, by decide⟩ (setAirParam_port _ p _ s)
  · exact exec_set (setAirParam fun x v => { x with repeatPeriod := v }) rfl rfl rfl ho hv (by decide)
      ⟨by decide, by decide⟩ (setAirParam_port _ p _ s)
  · exact exec_set (setAirParam fun x v => { x with window := v }) rfl rfl rfl ho hv (by decide)
      ⟨by decide, by decide⟩ (setAirParam_port _ p _ s)

/-- A SET refused RANGE (R207). -/
theorem exec_set_range {i : Instr} {tag param target : Byte} {v lo hi : Nat} {s : State}
    (store : Nat → Nat → State → Option State) (hreq : asRequest i = some (⟨.m, tag, [param, target] ++ le 4 v⟩, 16))
    (hw : i.wellFormed = true) (hact : actOf i s = setParam lo hi store ⟨.m, tag, [param, target] ++ le 4 v⟩ s)
    (ho : s.owing .m = false)
    (h : param.toNat < 1 ∨ 11 < param.toNat ∨ ∀ v, store target.toNat v s = none) :
    exec i s = .next (answer .m 16 tag (Reply.of .range) s) :=
  exec_answer_of hreq (by decide) hw ho rfl (hact.trans (setParam_range h))

/-- A SET frame with a parameter outside 1 to 11 stands on every SET row (log 21). -/
theorem wellFormedSet_of_outside {tag param target : Byte} {v n : Nat} (h : param.toNat < 1 ∨ 11 < param.toNat) :
    Req.wellFormedSet ⟨.m, tag, [param, target] ++ le 4 v⟩ n = true := by
  have h0 : param.toNat = 0 ∨ 11 < param.toNat := by omega
  simp [Req.wellFormedSet, Req.bodyFits, Req.setsOwn, Config.maxRequestBody, or_assoc, h0]

/-- Settles O11: first a parameter outside 1 to 11, on each row; then a target outside its parameter's range. -/
theorem setRefusesWhatIsOutOfRange : Obligations.SetRefusesWhatIsOutOfRange := by
  intro tag param target v s ho
  refine ⟨fun h f hf => ?_, fun ht => ⟨fun e => ?_, fun e => ?_, fun e => ?_⟩,
    fun h4 h5 => ⟨fun e => ?_, fun e => ?_, fun e => ?_, fun e => ?_⟩, fun ht e => ?_⟩
  · have hout : param.toNat < 1 ∨ 11 < param.toNat := h.imp (fun e => by rw [e]; decide) id
    have hrange : ∀ store : Nat → Nat → State → Option State,
        param.toNat < 1 ∨ 11 < param.toNat ∨ ∀ v, store target.toNat v s = none := fun _ => hout.imp_right .inl
    simp only [List.mem_cons, List.not_mem_nil, or_false] at hf
    rcases hf with rfl | rfl | rfl | rfl | rfl | rfl | rfl | rfl | rfl | rfl | rfl
    · exact exec_set_range storeLoadIdleTime rfl (wellFormedSet_of_outside hout) rfl ho (hrange _)
    · exact exec_set_range storeKeepAlive rfl (wellFormedSet_of_outside hout) rfl ho (hrange _)
    · exact exec_set_range storeMargin rfl (wellFormedSet_of_outside hout) rfl ho (hrange _)
    · exact exec_set_range (setClockParam fun c v => { c with jump := v }) rfl (wellFormedSet_of_outside hout) rfl ho (hrange _)
    · exact exec_set_range (setClockParam fun c v => { c with gain := v }) rfl (wellFormedSet_of_outside hout) rfl ho (hrange _)
    · exact exec_set_range (setClockParam fun c v => { c with interval := v }) rfl (wellFormedSet_of_outside hout) rfl ho
        (hrange _)
    · exact exec_set_range storeLead rfl (wellFormedSet_of_outside hout) rfl ho (hrange _)
    · exact exec_set_range (setAirParam fun x v => { x with capacity := v }) rfl (wellFormedSet_of_outside hout) rfl ho
        (hrange _)
    · exact exec_set_range (setAirParam fun x v => { x with repeatPeriod := v }) rfl (wellFormedSet_of_outside hout) rfl ho
        (hrange _)
    · exact exec_set_range (setAirParam fun x v => { x with window := v }) rfl (wellFormedSet_of_outside hout) rfl ho
        (hrange _)
    · exact exec_set_range storeBitRate rfl (wellFormedSet_of_outside hout) rfl ho (hrange _)
  · subst e
    exact exec_set_range (setClockParam fun c v => { c with jump := v }) rfl rfl rfl ho
      (.inr (.inr fun _ => setClockParam_none _ ht _ s))
  · subst e
    exact exec_set_range (setClockParam fun c v => { c with gain := v }) rfl rfl rfl ho
      (.inr (.inr fun _ => setClockParam_none _ ht _ s))
  · subst e
    exact exec_set_range (setClockParam fun c v => { c with interval := v }) rfl rfl rfl ho
      (.inr (.inr fun _ => setClockParam_none _ ht _ s))
  · subst e
    exact exec_set_range storeLead rfl rfl rfl ho (.inr (.inr fun _ => storeLead_none h4 h5 _ s))
  · subst e
    exact exec_set_range (setAirParam fun x v => { x with capacity := v }) rfl rfl rfl ho
      (.inr (.inr fun _ => setAirParam_none _ h4 h5 _ s))
  · subst e
    exact exec_set_range (setAirParam fun x v => { x with repeatPeriod := v }) rfl rfl rfl ho
      (.inr (.inr fun _ => setAirParam_none _ h4 h5 _ s))
  · subst e
    exact exec_set_range (setAirParam fun x v => { x with window := v }) rfl rfl rfl ho
      (.inr (.inr fun _ => setAirParam_none _ h4 h5 _ s))
  · subst e
    exact exec_set_range storeBitRate rfl rfl rfl ho (.inr (.inr fun _ => storeBitRate_none ht _ s))

end Sys2Proof.Machine
end

/-! Time: the house tick, the silence boundary, the house second and the expiry pass (chapters 4 and 6). -/
section
namespace Sys2Proof.Machine

open Sys2Proof.Safety

/-! ### The house tick (R67, R69, R70) -/

/-- The clock of an auditorium after a house tick (R69). -/
def advanced (s : State) (a : Aud) : AudClock :=
  if s.shows[a].state = .running ∨ s.shows[a].state = .freewheel then
    { s.clock.auds[a] with
      pos := (min ((s.clock.auds[a].pos : Int) + 65536 + s.clock.auds[a].trim) (2 ^ 40 - 1)).toNat }
  else s.clock.auds[a]

/-- Does a house tick bring the clock of the auditorium to its limit (R70)? -/
def reachesEnd (s : State) (a : Aud) : Bool :=
  decide (s.clock.auds[a].pos < 2 ^ 40 - 1 ∧ (advanced s a).pos = 2 ^ 40 - 1)

/-- Does a house tick latch END of the auditorium on the feed port (R51, R70)? -/
def endsOn (s : State) (n : Fin 4) (a : Aud) : Bool := s.shows[a].feedOwner == some n && reachesEnd s a

theorem advances_iff {x : ShowState} : x.advances = true ↔ x = .running ∨ x = .freewheel := by
  cases x <;> simp [ShowState.advances]

theorem advancePos_eq (c : AudClock) :
    advancePos c = (min ((c.pos : Int) + 65536 + c.trim) (2 ^ 40 - 1)).toNat := by
  change min ((c.pos : Int) + 65536 + c.trim).toNat (2 ^ 40 - 1) = _
  omega

/-- The clock moves, and END is latched where it comes to its limit. -/
theorem advanceAud_eq (s : State) (a : Aud) : advanceAud s a =
    if reachesEnd s a then (s.setClock a (advanced s a)).latchAud .endReached a else s.setClock a (advanced s a) := by
  unfold advanceAud reachesEnd advanced
  by_cases h : s.shows[a].state.advances = true
  · simp only [h, if_true, if_pos (advances_iff.mp h), advancePos_eq, decide_eq_true_eq, and_comm]
    rfl
  · have hsame : s.setClock a s.clock.auds[a] = s := by simp [State.setClock]
    simp only [if_neg h, if_neg (mt advances_iff.mpr h), hsame]
    rw [if_neg (by simp; omega)]

theorem State.latchAud_some {s : State} {a : Aud} {n : Fin 4} {c : FeedCond} (h : s.shows[a].feedOwner = some n) :
    s.latchAud c a = { s with link := s.link.latchFeed n c a } := by
  unfold State.latchAud; rw [h]

theorem State.latchAud_none {s : State} {a : Aud} {c : FeedCond} (h : s.shows[a].feedOwner = none) :
    s.latchAud c a = s := by
  unfold State.latchAud; rw [h]

/-- What the advances of some auditoriums have done to the state `s`. -/
structure Advanced (s : State) (done : List Aud) (u : State) : Prop where
  clock : ∀ a : Aud, u.clock.auds[a] = if a ∈ done then advanced s a else s.clock.auds[a]
  h : u.clock.h = s.clock.h
  feed : ∀ n : Fin 4, u.link.feed[n] = { s.link.feed[n] with endReached := u.link.feed[n].endReached }
  ended : ∀ (n : Fin 4) (a : Aud), u.link.feed[n].endReached.getLsbD a.val =
    (s.link.feed[n].endReached.getLsbD a.val || (decide (a ∈ done) && endsOn s n a))
  line : ∀ n : Fin 4, u.link.attention[portIx (.feed n)] = (s.link.attention[portIx (.feed n)] || done.any (endsOn s n))
  lines : ∀ p : Port, (∀ n, p ≠ .feed n) → u.link.attention[portIx p] = s.link.attention[portIx p]
  link : u.link = { s.link with feed := u.link.feed, attention := u.link.attention }
  rest : u = { s with clock := u.clock, link := u.link }

theorem Advanced.start (s : State) : Advanced s [] s where
  clock a := by simp
  h := rfl
  feed n := rfl
  ended n a := by simp
  line n := by simp
  lines p _ := rfl
  link := rfl
  rest := rfl

section
variable {s u : State} {done : List Aud} {a : Aud}

theorem Advanced.advanced_eq (h : Advanced s done u) (ha : a ∉ done) : advanced u a = advanced s a := by
  unfold advanced
  rw [h.clock, if_neg ha, h.rest]

theorem Advanced.reachesEnd_eq (h : Advanced s done u) (ha : a ∉ done) : reachesEnd u a = reachesEnd s a := by
  unfold reachesEnd
  rw [h.advanced_eq ha, h.clock, if_neg ha]

/-- The clock of one more auditorium moves, with no END latched. -/
theorem Advanced.move (h : Advanced s done u) (hends : ∀ n, endsOn s n a = false) :
    Advanced s (a :: done) (u.setClock a (advanced s a)) where
  clock b := by
    by_cases e : a = b
    · subst e
      simp [State.setClock]
    · have hne : b ≠ a := fun x => e x.symm
      simpa [State.setClock, Fin.val_ne_of_ne e, hne] using h.clock b
  h := h.h
  feed := h.feed
  ended n b := by
    by_cases e : b = a
    · subst e
      simpa [hends n] using h.ended n b
    · simpa [e] using h.ended n b
  line n := by simpa [hends n] using h.line n
  lines := h.lines
  link := h.link
  rest := by rw [h.rest]; rfl

/-- The clock of one more auditorium moves to its limit, and END is latched on its feed owner. -/
theorem Advanced.latch {m : Fin 4} (h : Advanced s done u) (hm : s.shows[a].feedOwner = some m)
    (hreach : reachesEnd s a = true) :
    Advanced s (a :: done) { u.setClock a (advanced s a) with link := u.link.latchFeed m .endReached a } := by
  have hends : ∀ n, endsOn s n a = decide (m = n) := fun n => by
    rw [endsOn, hm, hreach, Bool.and_true]
    rfl
  have hlatch := u.link.latchFeed_eq m .endReached a
  have hfeed : ∀ n : Fin 4, (u.link.latchFeed m .endReached a).feed[n] =
      { u.link.feed[n] with endReached := if m = n then joinAud u.link.feed[n].endReached a else u.link.feed[n].endReached } :=
    fun n => by
      rw [hlatch]
      by_cases e : m = n
      · subst e
        simp [FeedFlags.latch]
      · simp [Fin.val_ne_of_ne e, e]
  refine ⟨?_, h.h, fun n => ?_, fun n b => ?_, fun n => ?_, fun p hp => ?_, ?_, ?_⟩
  · intro b
    by_cases e : a = b
    · subst e
      simp [State.setClock]
    · have hne : b ≠ a := fun x => e x.symm
      simpa [State.setClock, Fin.val_ne_of_ne e, hne] using h.clock b
  · change (u.link.latchFeed m .endReached a).feed[n] = { s.link.feed[n] with endReached := (u.link.latchFeed m .endReached a).feed[n].endReached }
    rw [hfeed, h.feed n]
  · change (u.link.latchFeed m .endReached a).feed[n].endReached.getLsbD b.val = _
    have hb := h.ended n b
    rw [hfeed]
    by_cases e : m = n
    · subst e
      by_cases e' : b = a
      · subst e'
        simp [joinAud_mem, hends]
      · rw [if_pos rfl, joinAud_mem, decide_eq_false e', Bool.or_false, hb]
        simp [e']
    · by_cases e' : b = a
      · subst e'
        simpa [hends, e] using hb
      · simpa [hends, e, e'] using hb
  · change (u.link.latchFeed m .endReached a).attention[portIx (.feed n)] = _
    have hn := h.line n
    rw [hlatch]
    by_cases e : m = n
    · subst e
      simp [hends]
    · have hne : (portIx (.feed m)).val ≠ (portIx (.feed n)).val := Fin.val_ne_of_ne fun x => e (by simpa using portIx_inj.mp (Fin.ext (congrArg Fin.val x)))
      simpa [hends, e, hne] using hn
  · change (u.link.latchFeed m .endReached a).attention[portIx p] = _
    have hne : (portIx (.feed m)).val ≠ (portIx p).val := fun x => hp m (portIx_inj.mp (Fin.ext x)).symm
    rw [hlatch]
    simpa [hne] using h.lines p hp
  · change u.link.latchFeed m .endReached a = _
    rw [hlatch, h.link]
  · rw [h.rest]; rfl

theorem Advanced.step (h : Advanced s done u) (ha : a ∉ done) : Advanced s (a :: done) (advanceAud u a) := by
  have hshows : u.shows = s.shows := by rw [h.rest]
  rw [advanceAud_eq, h.reachesEnd_eq ha, h.advanced_eq ha]
  cases hreach : reachesEnd s a with
  | false => exact h.move fun n => by simp [endsOn, hreach]
  | true =>
    rw [if_pos rfl]
    cases hm : s.shows[a].feedOwner with
    | none =>
      rw [State.latchAud_none (by rw [State.setClock_shows, hshows, hm])]
      exact h.move fun n => by rw [endsOn, hm]; rfl
    | some m =>
      rw [State.latchAud_some (n := m) (by rw [State.setClock_shows, hshows, hm])]
      exact h.latch hm hreach

end

theorem Advanced.foldl {s : State} {l : List Aud} : ∀ {done : List Aud} {u : State}, l.Nodup → (∀ a ∈ l, a ∉ done) →
    Advanced s done u → Advanced s (l.reverse ++ done) (l.foldl advanceAud u) := by
  induction l with
  | nil => exact fun _ _ h => h
  | cons a l ih =>
    intro done u hl hdone h
    obtain ⟨ha, hl⟩ := List.nodup_cons.mp hl
    have hstep := ih hl (fun b hb => ?_) (h.step (hdone a (.head l)))
    · simpa using hstep
    · have hb' := hdone b (.tail a hb)
      simp only [List.mem_cons, not_or]
      exact ⟨fun e => ha (e ▸ hb), hb'⟩

/-- Every auditorium has advanced. -/
theorem advanced_all (s : State) : Advanced s (allAuds.reverse ++ []) (allAuds.foldl advanceAud s) :=
  Advanced.foldl allAuds_nodup (fun _ _ h => (nomatch h)) (.start s)

/-- The state with H raised and what falls due marked, before the clocks move (R67). -/
def ticked (s : State) : State :=
  { s with clock := { s.clock with h := s.clock.h + 1 }, due := dueAt s (s.clock.h + 1) }

/-- Settles O16: the fold of the advances, auditorium by auditorium. -/
theorem houseTickAdvancesClocks : Obligations.HouseTickAdvancesClocks := by
  intro s
  have h := advanced_all (ticked s)
  have hexec : exec .houseTick s = .next (suspendTest (allAuds.foldl advanceAud (ticked s))) := rfl
  generalize allAuds.foldl advanceAud (ticked s) = t at h hexec
  have hclock : ∀ a : Aud, t.clock.auds[a] = advanced (ticked s) a := fun a => by
    rw [h.clock, if_pos (by simp [mem_allAuds])]
  have hends : ∀ n a, endsOn (ticked s) n a =
      decide (s.shows[a].feedOwner = some n ∧ s.clock.auds[a].pos < 2 ^ 40 - 1 ∧ t.clock.auds[a].pos = 2 ^ 40 - 1) :=
    fun n a => by
      rw [hclock, Bool.eq_iff_iff, endsOn, reachesEnd, Bool.and_eq_true, beq_iff_eq, decide_eq_true_iff, decide_eq_true_iff]
      rfl
  refine ⟨t, hexec, h.h, hclock, fun n => ⟨h.feed n, fun a => ?_, ?_⟩, h.link, h.lines, fun a => ?_, ?_, ?_, fun n => ?_, ?_⟩
  · rw [h.ended, hends]
    simp [mem_allAuds, ticked]
  · rw [h.line]
    congr 1
    rw [Bool.eq_iff_iff, List.any_eq_true, decide_eq_true_iff]
    simp only [hends, decide_eq_true_iff, List.append_nil, List.mem_reverse, mem_allAuds, true_and]
  all_goals rw [h.rest]
  · simp [ticked, dueAt, Bool.beq_eq_decide_eq]
  · simp [ticked, dueAt, Bool.beq_eq_decide_eq]
  · rfl
  · simp [ticked, dueAt, State.title, Bool.beq_eq_decide_eq]
  · exact ⟨rfl, rfl, rfl, rfl, rfl, rfl, rfl, rfl, rfl, rfl⟩

/-! ### Silence (R80, R81) -/

/-- Settles O17: by the state of the context and the new count. -/
theorem silenceBoundaryCountsSilence : Obligations.SilenceBoundaryCountsSilence := by
  intro a s hdue u n counted
  have hexec : exec (.silenceBoundary a) s = .next (if s.shows[a].state.advances then
      suspendTest (silenceReached a n counted) else u) := by
    change Host.Outcome.next (silenceBoundary a s) = _
    unfold silenceBoundary
    rw [if_pos hdue]
  have hadv := advances_iff (x := s.shows[a].state)
  have hshow : counted.shows[a].state = s.shows[a].state := rfl
  refine ⟨fun h1 h2 => ?_, fun h hn => ?_, fun h hn => ?_, fun h hn => ?_, fun h hn => ?_⟩
  · rw [hexec, if_neg (fun hx => (hadv.mp hx).elim h1 h2)]
  all_goals
    rw [hexec, if_pos (hadv.mpr (by simp only [h, true_or, or_true]))]
    unfold silenceReached
    rw [hshow, h]
  · rw [if_neg (fun hx => hn hx.2), if_neg (fun hx => (nomatch hx.1))]
  · rw [if_pos ⟨rfl, hn⟩]
    rfl
  · rw [if_neg (fun hx => (nomatch hx.1)), if_neg (fun hx => hn hx.2)]
  · rw [if_neg (fun hx => (nomatch hx.1)), if_pos ⟨rfl, hn⟩]
    rfl

/-! ### The expiry pass (R131 to R133) -/

theorem bumpBy_succ (n : Nat) (x : Stat) : bumpBy (n + 1) x = bump (bumpBy n x) := by
  induction n generalizing x with
  | zero => rfl
  | succ n ih => exact ih (bump x)

theorem bump_toNat (x : Stat) : (bump x).toNat = min (x.toNat + 1) 65535 := by
  unfold bump
  split
  · rename_i h
    subst h
    rfl
  · bv_omega

theorem bumpBy_toNat (n : Nat) (x : Stat) : (bumpBy n x).toNat = min (x.toNat + n) 65535 := by
  induction n with
  | zero =>
    have := x.isLt
    simp only [bumpBy]
    omega
  | succ n ih =>
    rw [bumpBy_succ, bump_toNat, ih]
    omega

/-- Is the record BOUND and older than `k` (R133)? -/
def expires (s : State) (k : Nat) (i : RecNo) : Bool :=
  s.rcv.recs[i].bound && decide (k < (s.rcv.seconds - s.rcv.recs[i].lastHeard).toNat)

/-- Does the record expire on the air port (R133)? -/
def expiresOn (s : State) (k : Nat) (p : Fin 2) (i : RecNo) : Bool := expires s k i && s.rcv.recs[i].airPort == some p

/-- What the expiry of some records has done to the state `s`. -/
structure Expired (s : State) (k : Nat) (done : List RecNo) (u : State) : Prop where
  recs : ∀ i : RecNo, u.rcv.recs[i] = if i ∈ done ∧ expires s k i = true then Receiver.free else s.rcv.recs[i]
  counts : CountLaw s → CountLaw u
  falls : ∀ (a : Aud) (t : TrackNo), u.rcv.counts[a][t] ≤ s.rcv.counts[a][t]
  expiries : ∀ p : Fin 2, u.rcv.expiries[p] = bumpBy (done.countP (expiresOn s k p)) s.rcv.expiries[p]
  flags : ∀ p : Fin 2, u.link.air[p] = { s.link.air[p] with expired := u.link.air[p].expired }
  expired : ∀ (p : Fin 2) (a : Aud), u.link.air[p].expired.getLsbD a.val =
    (s.link.air[p].expired.getLsbD a.val || done.any fun i => expiresOn s k p i && s.rcv.recs[i].aud == a)
  line : ∀ p : Fin 2, u.link.attention[portIx (.air p)] =
    (s.link.attention[portIx (.air p)] || done.any (expiresOn s k p))
  lines : ∀ q : Port, (∀ p, q ≠ .air p) → u.link.attention[portIx q] = s.link.attention[portIx q]
  link : u.link = { s.link with air := u.link.air, attention := u.link.attention }
  rcv : u.rcv = { s.rcv with recs := u.rcv.recs, counts := u.rcv.counts, expiries := u.rcv.expiries }
  rest : u = { s with rcv := u.rcv, link := u.link }

theorem Expired.start (s : State) (k : Nat) : Expired s k [] s where
  recs i := by simp
  counts := id
  falls _ _ := Nat.le_refl _
  expiries _ := rfl
  flags _ := rfl
  expired p a := by simp
  line p := by simp
  lines _ _ := rfl
  link := rfl
  rcv := rfl
  rest := rfl

theorem free_wants (a : Aud) (t : TrackNo) : Receiver.free.wants a t = false := rfl

theorem putRec_free_counts (s : State) (i : RecNo) (a : Aud) (t : TrackNo) :
    (s.putRec i Receiver.free).rcv.counts[a][t] ≤ s.rcv.counts[a][t] := by
  rw [putRec_counts, free_wants]
  exact Nat.sub_le _ _

section
variable {s u : State} {k : Nat} {done : List RecNo} {i : RecNo}

theorem Expired.rec_eq (h : Expired s k done u) (hi : i ∉ done) : u.rcv.recs[i] = s.rcv.recs[i] := by
  rw [h.recs, if_neg fun hx => hi hx.1]

theorem Expired.age_eq (h : Expired s k done u) (hi : i ∉ done) :
    (u.rcv.recs[i].bound && decide (k < age u u.rcv.recs[i])) = expires s k i := by
  unfold age
  rw [h.rec_eq hi, h.rcv]
  rfl

/-- One more record, which does not expire. -/
theorem Expired.skip (h : Expired s k done u) (hi : expires s k i = false) : Expired s k (i :: done) u := by
  have hon : ∀ p, expiresOn s k p i = false := fun p => by rw [expiresOn, hi]; rfl
  refine ⟨fun j => ?_, h.counts, h.falls, fun p => ?_, h.flags, fun p a => ?_, fun p => ?_, h.lines, h.link, h.rcv, h.rest⟩
  · rw [h.recs]
    by_cases e : j = i
    · subst e
      simp [hi]
    · simp [e]
  · rw [h.expiries, List.countP_cons_of_neg (by rw [hon p]; decide)]
  · rw [h.expired, List.any_cons, hon p]
    simp
  · rw [h.line, List.any_cons, hon p, Bool.false_or]

/-- The records once one more of them is freed. -/
theorem Expired.recs_free (h : Expired s k done u) (hi : expires s k i = true) (j : RecNo) :
    (u.putRec i Receiver.free).rcv.recs[j] =
      if j ∈ i :: done ∧ expires s k j = true then Receiver.free else s.rcv.recs[j] := by
  rw [putRec_recs, h.recs]
  by_cases e : i = j
  · subst e
    simp [hi]
  · have hne : j ≠ i := fun x => e x.symm
    simp [e, hne]

/-- One more record expires, which has no air port. -/
theorem Expired.free (h : Expired s k done u) (hi : expires s k i = true) (hport : s.rcv.recs[i].airPort = none) :
    Expired s k (i :: done) (u.putRec i Receiver.free) := by
  have hon : ∀ p, expiresOn s k p i = false := fun p => by rw [expiresOn, hport]; exact Bool.and_false _
  refine ⟨h.recs_free hi, fun hc => putRec_countLaw (h.counts hc) i _, fun a t => (putRec_free_counts u i a t).trans (h.falls a t),
    fun p => ?_, h.flags, fun p a => ?_, fun p => ?_, h.lines, h.link, ?_, ?_⟩
  · rw [List.countP_cons_of_neg (by rw [hon p]; decide)]
    exact h.expiries p
  · rw [List.any_cons, hon p, Bool.false_and, Bool.false_or]
    exact h.expired p a
  · rw [List.any_cons, hon p, Bool.false_or]
    exact h.line p
  · change ({ u.rcv with recs := _, counts := _ } : ReceiverBlock) = _
    rw [h.rcv]
    rfl
  · rw [h.rest]
    rfl

/-- One more record expires: EXPIRED is latched on its air port and counted. -/
theorem Expired.latch {q : Fin 2} (h : Expired s k done u) (hi : expires s k i = true)
    (hport : s.rcv.recs[i].airPort = some q) :
    Expired s k (i :: done) { u.putRec i Receiver.free with
      link := u.link.latchExpired q s.rcv.recs[i].aud
      rcv := { (u.putRec i Receiver.free).rcv with expiries := modAt u.rcv.expiries q bump } } := by
  have hon : ∀ p, expiresOn s k p i = decide (q = p) := fun p => by
    rw [expiresOn, hi, hport, Bool.true_and]
    rfl
  have hlatch := u.link.latchExpired_eq q s.rcv.recs[i].aud
  refine ⟨h.recs_free hi, fun hc => putRec_countLaw (h.counts hc) i _, fun a t => (putRec_free_counts u i a t).trans (h.falls a t),
    fun p => ?_, fun p => ?_, fun p a => ?_, fun p => ?_, fun p hp => ?_, ?_, ?_, ?_⟩
  · have hp := h.expiries p
    by_cases e : q = p
    · subst e
      rw [List.countP_cons_of_pos (by rw [hon q]; simp), bumpBy_succ, ← hp]
      simp
    · rw [List.countP_cons_of_neg (by rw [hon p]; simp [e])]
      simpa [Fin.val_ne_of_ne e] using hp
  · change (u.link.latchExpired q s.rcv.recs[i].aud).air[p] = _
    have hp := h.flags p
    rw [hlatch]
    by_cases e : q = p
    · subst e
      simp only [Fin.getElem_fin, setAt_get, if_true] at hp ⊢
      rw [hp]
    · simpa [Fin.val_ne_of_ne e] using hp
  · change (u.link.latchExpired q s.rcv.recs[i].aud).air[p].expired.getLsbD a.val = _
    have hp := h.expired p a
    rw [hlatch, List.any_cons, hon p]
    by_cases e : q = p
    · subst e
      simp only [Fin.getElem_fin, setAt_get, if_true] at hp ⊢
      rw [joinAud_mem, hp]
      simp only [decide_true, Bool.true_and, Bool.or_assoc]
      congr 1
      rw [Bool.or_comm]
      congr 1
      rw [Bool.eq_iff_iff, decide_eq_true_iff, beq_iff_eq]
      exact eq_comm
    · simpa [Fin.val_ne_of_ne e, e] using hp
  · change (u.link.latchExpired q s.rcv.recs[i].aud).attention[portIx (.air p)] = _
    have hp := h.line p
    rw [hlatch, List.any_cons, hon p]
    by_cases e : q = p
    · subst e
      simp
    · have hne : (portIx (.air q)).val ≠ (portIx (.air p)).val := by
        simpa [portIx] using Fin.val_ne_of_ne e
      simpa [hne, e] using hp
  · change (u.link.latchExpired q s.rcv.recs[i].aud).attention[portIx p] = _
    have hne : (portIx (.air q)).val ≠ (portIx p).val := fun x => hp q (portIx_inj.mp (Fin.ext x)).symm
    rw [hlatch]
    simpa [hne] using h.lines p hp
  · change u.link.latchExpired q s.rcv.recs[i].aud = _
    rw [hlatch, h.link]
  · change ({ u.rcv with recs := _, counts := _, expiries := _ } : ReceiverBlock) = _
    rw [h.rcv]
  · rw [h.rest]
    rfl

theorem Expired.step (h : Expired s k done u) (hi : i ∉ done) : Expired s k (i :: done) (expireRec k u i) := by
  have hage := h.age_eq hi
  unfold expireRec
  dsimp only
  rw [hage, h.rec_eq hi]
  cases hexp : expires s k i with
  | false => exact h.skip hexp
  | true =>
    rw [if_pos rfl]
    cases hport : s.rcv.recs[i].airPort with
    | none => exact h.free hexp hport
    | some q => exact h.latch hexp hport

end

theorem Expired.foldl {s : State} {k : Nat} {l : List RecNo} : ∀ {done : List RecNo} {u : State}, l.Nodup →
    (∀ i ∈ l, i ∉ done) → Expired s k done u → Expired s k (l.reverse ++ done) (l.foldl (expireRec k) u) := by
  induction l with
  | nil => exact fun _ _ h => h
  | cons i l ih =>
    intro done u hl hdone h
    obtain ⟨hi, hl⟩ := List.nodup_cons.mp hl
    have hstep := ih hl (fun j hj => ?_) (h.step (hdone i (.head l)))
    · simpa using hstep
    · simp only [List.mem_cons, not_or]
      exact ⟨fun e => hi (e ▸ hj), hdone j (.tail i hj)⟩

/-- Every record has been seen. -/
theorem expired_all (s : State) (k : Nat) : Expired s k (allRecs.reverse ++ []) (allRecs.foldl (expireRec k) s) :=
  Expired.foldl allRecs_nodup (fun _ _ h => (nomatch h)) (.start s k)

/-- Counts that only fall give no rising edge (R130). -/
theorem risingEdges_of_falls {before : Vector (Vector Nat 8) 16} {u : State}
    (h : ∀ (a : Aud) (t : TrackNo), u.rcv.counts[a][t] ≤ before[a][t]) : risingEdges before u = [] := by
  refine List.filter_eq_nil_iff.mpr fun p _ hp => ?_
  have := h p.1 p.2
  simp only [Bool.and_eq_true, beq_iff_eq, decide_eq_true_eq] at hp
  omega

theorem handEdges_of_falls {before : Vector (Vector Nat 8) 16} {u : State}
    (h : ∀ (a : Aud) (t : TrackNo), u.rcv.counts[a][t] ≤ before[a][t]) :
    handEdges before u = (fallingEdges before u).foldl releaseStream u := by
  rw [handEdges, risingEdges_of_falls h, List.foldl_nil]

/-- The falling edges, the tracks' kinds as before the event. -/
theorem fallingEdges_eq {before : Vector (Vector Nat 8) 16} {s u : State}
    (hkind : ∀ a t, isKind u .description a t = isKind s .description a t) : fallingEdges before u =
      allPairs.filter fun x => isKind s .description x.1 x.2 && decide (1 ≤ before[x.1][x.2]) &&
        decide (u.rcv.counts[x.1][x.2] = 0) :=
  List.filter_congr fun x _ => by rw [hkind]; rfl

/-- The records that an expiry pass leaves, before their edges are handed on. -/
theorem keepAliveExpiry_expired {s : State} {k : Nat} (hk : s.due.expiry = some k) :
    ∃ u, Expired { s with due := { s.due with expiry := none } } k (allRecs.reverse ++ []) u ∧
      keepAliveExpiry s = suspendTest (handEdges s.rcv.counts u) := by
  refine ⟨_, expired_all _ k, ?_⟩
  unfold keepAliveExpiry
  rw [hk]

/-- Settles O18: the boundary by its mark, the pass by the fold over the records. -/
theorem houseSecondAndExpiry : Obligations.HouseSecondAndExpiry := by
  refine ⟨fun s h => ?_, bumpBy_toNat, fun s k hk => ?_⟩
  · exact congrArg Host.Outcome.next (if_pos h)
  · obtain ⟨u, h, hexec⟩ := keepAliveExpiry_expired hk
    have hon : ∀ p, expiresOn { s with due := { s.due with expiry := none } } k p =
        fun i => (s.rcv.recs[i].bound && decide (k < (s.rcv.seconds - s.rcv.recs[i].lastHeard).toNat)) &&
          s.rcv.recs[i].airPort == some p := fun p => rfl
    have hkind : ∀ a t, isKind u .description a t = isKind s .description a t := fun a t => by rw [h.rest]; rfl
    have hrecs := h.recs
    have hexpiries := h.expiries
    have hexpired := h.expired
    have hline := h.line
    simp only [hon, List.append_nil, List.countP_reverse, List.any_reverse, List.mem_reverse, mem_allRecs, true_and]
      at hrecs hexpiries hexpired hline
    refine ⟨u, ?_, hrecs, fun hc => h.counts ((countLaw_iff _).mpr ((countLaw_iff s).mp hc)), hexpiries, fun p => ⟨?_, hexpired p, hline p⟩, h.link, h.lines, ?_, ?_, ?_, ?_, ?_, ?_⟩
    · refine congrArg Host.Outcome.next (hexec.trans ?_)
      rw [handEdges_of_falls h.falls, fallingEdges_eq hkind]
    · rw [h.flags]
    · rw [h.rcv]
    · rw [h.rcv]
    · rw [h.rcv]
    · rw [h.rest]
      exact ⟨rfl, rfl, rfl, rfl, rfl, rfl, rfl, rfl, rfl, rfl⟩
    · rw [h.rest]
    · rw [h.rest]

end Sys2Proof.Machine
end

/-! Position reports and the refusals of show requests (R52, R54, R71 to R78). -/
section
namespace Sys2Proof.Machine

open Sys2Proof.Safety

/-! ### Admission (R52) -/

section
variable {n : Fin 4} {tag : Byte} {body : List Byte} {len : Nat} {mToo : Bool} {s : State} {a : Aud}

theorem admitShow_range (hlen : body.length = len) (ha : 15 < at1 body 0) :
    admitShow ⟨.feed n, tag, body⟩ len mToo s = .error .range := by
  unfold admitShow
  rw [if_neg (not_not.mpr hlen), audOf_none (by exact ha)]

theorem admitShow_aud (hlen : body.length = len) (ha : at1 body 0 = a.val) :
    admitShow ⟨.feed n, tag, body⟩ len mToo s =
      if s.shows[a].feedOwner = some n then .ok a else .error .notOwner := by
  unfold admitShow ownsFeed
  rw [if_neg (not_not.mpr hlen), ha, audOf_val]
  have hm : (mToo && (Port.feed n == Port.m)) = false := Bool.and_false _
  simp only [hm, Bool.or_false, beq_iff_eq]

end

theorem byte_aud (a : Aud) : (byte a.val).toNat = a.val := by rw [byte_toNat]; omega

theorem byte_handle (t : TitleNo) : (byte (t.val + 1)).toNat = handle t := by
  have := handle_lt t
  rw [byte_toNat, handle] at *
  omega

/-! ### The interlock of ARM (R55) -/

theorem inSector_iff {d : ClipEntry} {sector : Nat} : d.inSector sector = true ↔ clipInSector d sector := by
  refine ⟨fun h => ?_, fun ⟨b, hb, e⟩ => e ▸ inSector_of_inExtent hb⟩
  simp only [ClipEntry.inSector, Bool.and_eq_true, decide_eq_true_eq] at h
  obtain ⟨⟨⟨hdef, hlen⟩, hlo⟩, hhi⟩ := h
  unfold Config.sectorPages at hlo hhi
  exact ⟨max d.first (16 * sector), ⟨hdef, Nat.le_max_left _ _, by omega⟩, by omega⟩

theorem targets_iff {op : Maintenance} {sector : Nat} : targets op sector ↔ op.targetSector = some sector := by
  cases op with
  | none => simp [targets, Maintenance.targetSector]
  | program st block data check => simp [targets, Maintenance.targetSector]
  | erase st n => simp [targets, Maintenance.targetSector]
  | verify st clip first length read failed => simp [targets, Maintenance.targetSector]

theorem clipEntry_val (s : State) (c : ClipNo) : clipEntry s c.val = s.store.directory[c] := dif_pos c.isLt

/-- A clip in a sector is one of the directory. -/
theorem clipEntry_inSector {s : State} {c sector : Nat} (h : (clipEntry s c).inSector sector = true) :
    ∃ d : ClipNo, d.val = c ∧ s.store.directory[d].inSector sector = true := by
  by_cases hc : c < 1024
  · exact ⟨⟨c, hc⟩, rfl, by rwa [clipEntry, dif_pos hc] at h⟩
  · rw [clipEntry, dif_neg hc] at h
    cases h

theorem armConflict_iff {s : State} {clips : List Nat} : armConflict s clips = true ↔ armConflicts s clips := by
  constructor
  · intro h
    unfold armConflict at h
    split at h
    · rename_i sector htarget
      obtain ⟨c, hc, hin⟩ := List.any_eq_true.mp h
      obtain ⟨d, rfl, hd⟩ := clipEntry_inSector hin
      exact ⟨d, sector, hc, targets_iff.mpr htarget, inSector_iff.mp hd⟩
    · cases h
  · rintro ⟨c, sector, hc, htarget, hin⟩
    unfold armConflict
    rw [targets_iff.mp htarget]
    exact List.any_eq_true.mpr ⟨c.val, hc, by rw [clipEntry_val]; exact inSector_iff.mpr hin⟩

/-! ### The body of a POSITION (R214) -/

section
variable {aud reel code : Byte} {frame : Nat}

theorem position_length : ([aud, reel] ++ le 3 frame ++ [code]).length = 6 := by simp

theorem position_aud : at1 ([aud, reel] ++ le 3 frame ++ [code]) 0 = aud.toNat := at1_cons_zero _ _

theorem position_reel : at1 ([aud, reel] ++ le 3 frame ++ [code]) 1 = reel.toNat := by simp

theorem position_code : at1 ([aud, reel] ++ le 3 frame ++ [code]) 5 = code.toNat := by simp [le]

theorem position_frame (h : frame < 2 ^ 24) : field ([aud, reel] ++ le 3 frame ++ [code]) 2 3 = frame := by
  simp only [List.cons_append, List.nil_append, field_cons_succ, field_zero_le]
  omega

end

theorem ticksPerFrame_none {n : Nat} (h : 5 < n) : ticksPerFrame n = none := by
  unfold ticksPerFrame
  split
  case h_7 => rfl
  all_goals omega

theorem ticksPerFrame_rate (code : Nat) (h : code ≤ 5) :
    ticksPerFrame code = some ([50, 48, 40, 25, 24, 20].getD code 0) := by
  interval_cases code <;> rfl

/-- A reel table's length, of the title that the auditorium holds. -/
def reelsOf (s : State) (a : Aud) : List Nat := ((titleOf s a).map (·.reels)).getD []

section
variable {n : Fin 4} {tag reel code : Byte} {frame : Nat} {s : State} {a : Aud}

/-- The body of a POSITION of the auditorium (R214). -/
abbrev positionReq (n : Fin 4) (tag : Byte) (a : Aud) (reel : Byte) (frame : Nat) (code : Byte) : Req :=
  ⟨.feed n, tag, [byte a.val, reel] ++ le 3 frame ++ [code]⟩

theorem position_error {r : Req} {c : Code} (h : admitPosition r s = .error c) : position r s = refuse c s := by
  unfold position; rw [h]

theorem admitPosition_error {r : Req} {c : Code} (h : admitShow r 6 false s = .error c) : admitPosition r s = .error c := by
  unfold admitPosition; rw [h]

theorem admitShow_position : admitShow (positionReq n tag a reel frame code) 6 false s =
    if s.shows[a].feedOwner = some n then .ok a else .error .notOwner :=
  admitShow_aud position_length (position_aud.trans (byte_aud a))

theorem admitPosition_notOwner (hown : s.shows[a].feedOwner ≠ some n) :
    admitPosition (positionReq n tag a reel frame code) s = .error .notOwner :=
  admitPosition_error (admitShow_position.trans (if_neg hown))

section
variable (hown : s.shows[a].feedOwner = some n)
include hown

theorem admitPosition_dark (hdark : s.shows[a].state = .dark) :
    admitPosition (positionReq n tag a reel frame code) s = .error .wrongState := by
  unfold admitPosition
  rw [admitShow_position, if_pos hown]
  exact if_pos hdark

theorem admitPosition_noRate (hdark : s.shows[a].state ≠ .dark) (hcode : 5 < code.toNat) :
    admitPosition (positionReq n tag a reel frame code) s = .error .range := by
  unfold admitPosition
  rw [admitShow_position, if_pos hown]
  simp only [position_code, if_neg hdark, ticksPerFrame_none hcode]

/-- A POSITION with a rate, by the checks of R71 that are left. -/
theorem admitPosition_rate (hframe : frame < 2 ^ 24) (hdark : s.shows[a].state ≠ .dark) (hcode : code.toNat ≤ 5) :
    admitPosition (positionReq n tag a reel frame code) s =
      if 1048575 < frame then .error .range
      else if (reelsOf s a).length ≤ reel.toNat then .error .reelUnknown
      else .ok (a, reelsOf s a, ⟨reel.toNat, frame, [50, 48, 40, 25, 24, 20].getD code.toNat 0⟩) := by
  unfold admitPosition
  rw [admitShow_position, if_pos hown]
  simp only [position_code, position_reel, position_frame hframe, if_neg hdark, ticksPerFrame_rate _ hcode]
  rfl

end

theorem exec_position {body : List Byte} {t : State} {x : Reply} (hlen : body.length = 6)
    (ho : s.owing (.feed n) = false) (h : position ⟨.feed n, tag, body⟩ s = (t, x)) :
    exec (.position ⟨.feed n, tag, body⟩) s = .next (answer (.feed n) 5 tag x t) := by
  refine exec_answer_of rfl (by decide) ?_ ho rfl h
  simp [Instr.wellFormed, Req.bodyFits, hlen, Config.maxRequestBody]

end

/-! ### The body of an ARM (R54, R214) -/

section
variable {n : Fin 4} {tag h : Byte} {a : Aud} {s : State}

theorem arm_error {r : Req} {c : Code} (h : admitShow r 2 false s = .error c) : arm r s = refuse c s := by
  unfold arm; rw [h]

theorem admitShow_arm : admitShow ⟨.feed n, tag, [byte a.val, h]⟩ 2 false s =
    if s.shows[a].feedOwner = some n then .ok a else .error .notOwner :=
  admitShow_aud rfl ((at1_cons_zero _ _).trans (byte_aud a))

section
variable (hown : s.shows[a].feedOwner = some n)
include hown

theorem arm_notDark (hdark : s.shows[a].state ≠ .dark) :
    arm ⟨.feed n, tag, [byte a.val, h]⟩ s = refuse .wrongState s := by
  unfold arm
  rw [admitShow_arm, if_pos hown]
  exact if_pos hdark

theorem arm_range (hdark : s.shows[a].state = .dark) (hh : 24 < h.toNat) :
    arm ⟨.feed n, tag, [byte a.val, h]⟩ s = refuse .range s := by
  unfold arm
  rw [admitShow_arm, if_pos hown]
  simp only [at1_cons_succ, at1_cons_zero, hdark, hh, ne_eq, not_true_eq_false, if_false, if_true]

theorem arm_noTitle (hdark : s.shows[a].state = .dark) :
    arm ⟨.feed n, tag, [byte a.val, 0]⟩ s = refuse .noTitle s := by
  unfold arm
  rw [admitShow_arm, if_pos hown]
  simp only [at1_cons_succ, at1_cons_zero, hdark, ne_eq, not_true_eq_false, if_false]
  rfl

/-- An ARM with a title's handle, by the checks of R54 that are left. -/
theorem arm_title (hdark : s.shows[a].state = .dark) (t : TitleNo) :
    arm ⟨.feed n, tag, [byte a.val, byte (t.val + 1)]⟩ s =
      if (s.title t).state ≠ .ready then refuse .noTitle s
      else if armConflict s (s.title t).clips then refuse .storageBusy s
      else (armTaken a t s, Reply.ok) := by
  have hle : ¬24 < handle t := by have := handle_lt t; omega
  unfold arm
  rw [admitShow_arm, if_pos hown]
  simp only [at1_cons_succ, at1_cons_zero, byte_handle, hdark, hle, ne_eq, not_true_eq_false, if_false,
    titleOfHandle_handle]

end

end

/-- Settles O19: the checks of R52, then those of R71 and of R54, each refusing before the next. -/
theorem showRequestRefusals : Obligations.ShowRequestRefusals := by
  refine ⟨fun n tag aud reel code frame s hframe ho => ?_, fun n tag aud h s ho => ?_⟩
  · intro refused
    refine ⟨fun h => ?_, fun a haud => ?_⟩
    · exact exec_position position_length ho (position_error (admitPosition_error
        (admitShow_range position_length (position_aud.symm ▸ h))))
    subst haud
    have hrefuse : ∀ c, admitPosition (positionReq n tag a reel frame code) s = .error c → refused c :=
      fun c h => exec_position position_length ho (position_error h)
    refine ⟨fun hown => hrefuse _ (admitPosition_notOwner hown), fun hown => ⟨fun hdark =>
      hrefuse _ (admitPosition_dark hown hdark), fun hdark => ⟨fun hcode => hrefuse _ (admitPosition_noRate hown hdark hcode),
      fun hcode hf => hrefuse _ ?_, fun hcode hf hreel => hrefuse _ ?_⟩⟩⟩
    · rw [admitPosition_rate hown hframe hdark hcode, if_pos hf]
    · rw [admitPosition_rate hown hframe hdark hcode, if_neg (Nat.not_lt.mpr hf)]
      exact if_pos hreel
  · intro refused
    refine ⟨fun ha => ?_, fun a haud => ?_⟩
    · exact exec_answer_of rfl (by decide) rfl ho rfl (arm_error (admitShow_range rfl ((at1_cons_zero _ _).symm ▸ ha)))
    subst haud
    have hrefuse : ∀ c, arm ⟨.feed n, tag, [byte a.val, h]⟩ s = refuse c s → refused c :=
      fun c h => exec_answer_of rfl (by decide) rfl ho rfl h
    refine ⟨fun hown => hrefuse _ (arm_error (admitShow_arm.trans (if_neg hown))), fun hown => ⟨fun hdark =>
      hrefuse _ (arm_notDark hown hdark), fun hdark => ⟨fun hh => hrefuse _ (arm_range hown hdark hh), fun hh =>
      hrefuse _ (hh ▸ arm_noTitle hown hdark), fun t ht => ?_⟩⟩⟩
    subst ht
    refine ⟨fun hready => hrefuse _ ?_, fun hready hbusy => hrefuse _ ?_⟩
    · rw [arm_title hown hdark, if_pos hready]
    · rw [arm_title hown hdark, if_neg (not_not.mpr hready), if_pos (armConflict_iff.mpr hbusy)]

/-! ### A taken POSITION (R72 to R77) -/

/-- A POSITION that no check refuses. -/
theorem position_taken {n : Fin 4} {tag reel : Byte} {a : Aud} {code : Fin 6} {frame : Nat} {ti : Title} {s : State}
    (hown : s.shows[a].feedOwner = some n) (hdark : s.shows[a].state ≠ .dark) (hti : titleOf s a = some ti)
    (hframe : frame ≤ 1048575) (hreel : reel.toNat < ti.reels.length) {m : Nat × Bool}
    (hm : reportedTime ti.reels reel.toNat frame ([50, 48, 40, 25, 24, 20].getD code.val 0) = m) :
    position (positionReq n tag a reel frame (byte code.val)) s = (positionTaken a m.1 m.2 s, Reply.okClamped m.2) := by
  have hcode : (byte code.val).toNat = code.val := by rw [byte_toNat]; omega
  have hreels : reelsOf s a = ti.reels := by unfold reelsOf; rw [hti]; rfl
  unfold position
  rw [admitPosition_rate hown (by omega) hdark (by omega), if_neg (by omega), hreels, if_neg (by omega), hcode]
  subst hm
  rfl

/-- The state a report is handled in: with the clamp of its reel, if there is one (R72). -/
def reelChecked (s : State) (a : Aud) (n : Fin 4) (clamped : Bool) : State := if clamped then reelClamped s a n else s

section
variable {s : State} {a : Aud} {n : Fin 4}

theorem clampReel_eq (hown : s.shows[a].feedOwner = some n) : clampReel a s = reelClamped s a n :=
  State.latchAud_some hown

theorem positionTaken_eq (hown : s.shows[a].feedOwner = some n) (r : Nat) (clamped : Bool) :
    positionTaken a r clamped s = suspendTest (clearSilence a (handleReport a r (reelChecked s a n clamped))) := by
  unfold positionTaken reelChecked
  rw [clampReel_eq hown]

theorem reelChecked_shows (clamped : Bool) : (reelChecked s a n clamped).shows = s.shows := by
  cases clamped <;> rfl

/-- The clamp changes a clock in its count of clamps alone. -/
theorem reelChecked_clock (clamped : Bool) : (reelChecked s a n clamped).clock.auds[a] =
    { s.clock.auds[a] with reelClamps := (reelChecked s a n clamped).clock.auds[a].reelClamps } := by
  cases clamped with
  | false => rfl
  | true => simp [reelChecked, reelClamped]

theorem setShow_same {c : Context} (h : s.shows[a] = c) : s.setShow a c = s := by
  subst h
  simp [State.setShow]

theorem setClock_setClock (c d : AudClock) : (s.setClock a c).setClock a d = s.setClock a d := by
  simp [State.setClock]

theorem setClock_self (c : AudClock) : (s.setClock a c).clock.auds[a] = c := by
  simp [State.setClock]

end

theorem errorOf_eq (c : AudClock) (r : Nat) : errorOf c r = (r : Int) * 65536 - c.pos := by
  unfold errorOf Config.subTicks
  push_cast
  rfl

theorem slew_eq (c : AudClock) (e : Int) : c.slew e = { c with
    pos := ((c.pos : Int) + e.tdiv 4).toNat
    trim := max (-655) (min 655 (c.trim + e.tdiv (2 ^ c.gain))) } := by
  rw [min_comm]
  rfl

/-- A report that does not jump slews the clock (R77). -/
theorem handleReport_slews {a : Aud} {r : Nat} {u : State} (hstate : u.shows[a].state = .running ∨ u.shows[a].state = .freewheel)
    (hjump : jumps u.clock.auds[a] r = false) : handleReport a r u =
      (u.setShow a { u.shows[a] with state := .running }).setClock a (u.clock.auds[a].slew (errorOf u.clock.auds[a] r)) := by
  unfold handleReport
  obtain h | h := hstate
  · have hsame : u.setShow a { u.shows[a] with state := .running } = u := setShow_same (by rw [← h])
    rw [hsame, h]
    dsimp only
    rw [hjump]
    rfl
  · rw [h]
    dsimp only
    rw [hjump]
    rfl

/-- Settles O20: a report whose error is below J slews. -/
theorem positionSlewsTheClock : Obligations.PositionSlewsTheClock := by
  intro n tag reel a code frame ti s ho hown hti hframe hreel m c e hstate hjump u
  have hdark : s.shows[a].state ≠ .dark := by obtain h | h := hstate <;> rw [h] <;> decide
  refine exec_position position_length ho ((position_taken hown hdark hti hframe hreel rfl).trans ?_)
  have hu : u = reelChecked s a n m.2 := rfl
  have hshow : u.shows = s.shows := by rw [hu, reelChecked_shows]
  have hclock : u.clock.auds[a] = { c with reelClamps := u.clock.auds[a].reelClamps } := by
    rw [hu]; exact reelChecked_clock m.2
  have herror : errorOf u.clock.auds[a] m.1 = e := by rw [errorOf_eq, hclock]
  have hslews : jumps u.clock.auds[a] m.1 = false := by
    refine decide_eq_false (Nat.not_le.mpr ?_)
    rw [herror, hclock]
    exact hjump
  have hhandle := handleReport_slews (r := m.1) (hshow ▸ hstate) hslews
  rw [positionTaken_eq hown, ← hu, hhandle, clearSilence, setClock_setClock, setClock_self, herror, hshow]
  refine congrArg (fun x => (suspendTest ((u.setShow a { s.shows[a] with state := .running }).setClock a x), Reply.okClamped m.2)) ?_
  rw [slew_eq, hclock]

/-- A step changes what a placement changes, and counts, flags and latches it (R74). -/
theorem clearSilence_stepClock (a : Aud) (r : Nat) (w : State) : clearSilence a (stepClock a r w) =
    let v := moveClock a r w
    ((v.setClock a { v.clock.auds[a] with silence := 0, steps := bump v.clock.auds[a].steps }).modFrame a
      fun f => { f with stepPending := true }).latchAud .step a := by
  generalize hv : moveClock a r w = v
  unfold stepClock clearSilence
  rw [hv]
  unfold State.latchAud
  dsimp only [State.setClock_shows, State.modFrame_shows, State.flagStep_shows]
  split
  · simp [State.setClock, State.flagStep, State.modFrame]
  · simp [State.setClock, State.flagStep, State.modFrame]

/-- The clock of the auditorium after its position moved (R74, R75). -/
theorem moveClock_clock (a : Aud) (r : Nat) (w : State) : (moveClock a r w).clock.auds[a] = w.clock.auds[a].place r := by
  unfold moveClock
  rw [(refillAud_frame a _).clock]
  exact setClock_self _

/-- A report that jumps, or comes in HELD or LOST, steps (R73, R76). -/
theorem handleReport_steps {a : Aud} {r : Nat} {u : State} (h : u.shows[a].state = .held ∨ u.shows[a].state = .lost ∨
    ((u.shows[a].state = .running ∨ u.shows[a].state = .freewheel) ∧ jumps u.clock.auds[a] r = true)) :
    handleReport a r u =
      stepClock a r (u.setShowState a (if u.shows[a].state = .held then .held else .running)) := by
  unfold handleReport
  obtain h | h | ⟨h | h, hj⟩ := h
  · have hsame : u.setShowState a .held = u := setShow_same (by rw [← h])
    rw [h]
    dsimp only
    rw [if_pos rfl, hsame]
  · rw [h]
    rfl
  · have hsame : u.setShowState a .running = u := setShow_same (by rw [← h])
    rw [h]
    dsimp only
    rw [if_pos hj, if_neg (by decide), hsame]
  · rw [h]
    dsimp only
    rw [if_pos hj, if_neg (by decide)]

theorem place_of_clamped {c x : AudClock} (h : x = { c with reelClamps := x.reelClamps }) (r : Nat) :
    x.place r = { x with pos := r * 65536, silence := c.silence, steps := c.steps } := by
  rw [h]
  rfl

/-- Settles O21: a step moves, counts, flags and latches; a pre-roll placement moves. -/
theorem positionStepsOrPlaces : Obligations.PositionStepsOrPlaces := by
  intro n tag reel a code frame ti s ho hown hti hframe hreel m c e u at_ moved gives
  have hu : u = reelChecked s a n m.2 := rfl
  have hshow : u.shows = s.shows := by rw [hu, reelChecked_shows]
  have hclock : u.clock.auds[a] = { c with reelClamps := u.clock.auds[a].reelClamps } := by
    rw [hu]; exact reelChecked_clock m.2
  have hplace : u.clock.auds[a].place m.1 = at_ c.silence c.steps := place_of_clamped hclock m.1
  have hmoved : ∀ y, moveClock a m.1 (u.setShowState a y) = moved y := fun y => by
    change refillAud a (((u.setShow a { u.shows[a] with state := y }).setClock a (u.clock.auds[a].place m.1)).clearCursors a) = _
    rw [hplace, hshow]
    rfl
  have hmoved_clock : ∀ y, (moved y).clock.auds[a] = at_ c.silence c.steps := fun y => by
    rw [← hmoved y, moveClock_clock]
    exact hplace
  have hgives : s.shows[a].state ≠ .dark → ∀ t, clearSilence a (handleReport a m.1 u) = t → gives t := fun hdark t ht => by
    refine exec_position position_length ho ((position_taken hown hdark hti hframe hreel rfl).trans ?_)
    rw [positionTaken_eq hown, ← hu, ht]
  refine ⟨fun h => ?_, fun h => ?_⟩
  · have hdark : s.shows[a].state ≠ .dark := by obtain h | h | ⟨h | h, -⟩ := h <;> rw [h] <;> decide
    have herror : errorOf u.clock.auds[a] m.1 = e := by rw [errorOf_eq, hclock]
    have hsteps := handleReport_steps (a := a) (r := m.1) (u := u) (by
      rw [hshow]
      refine h.imp_right (Or.imp_right (And.imp_right fun hj => decide_eq_true ?_))
      rw [herror, hclock]
      exact hj)
    refine hgives hdark _ ?_
    rw [hsteps, clearSilence_stepClock]
    dsimp only
    rw [hmoved, hmoved_clock, hshow]
  · refine hgives (by rw [h]; decide) _ ?_
    have hsame : u.setShowState a .armed = u := setShow_same (by rw [← h, hshow])
    have hplaces : handleReport a m.1 u = moveClock a m.1 u := by
      unfold handleReport
      rw [hshow, h]
    rw [hplaces, ← hmoved, hsame, clearSilence, moveClock_clock, hplace]

end Sys2Proof.Machine
end

/-! SUPPORT. Streams: which element a search of an ascending list returns, what a fill start leaves of the Stream Unit, and the grant and release of a stream entry (R162, R164, R165). -/
section
namespace Sys2Proof.Machine
open Sys2Proof.Safety

/-! ### Searches of ascending lists -/

/-- The first of a list that passes a test: it passes, and nothing before it in the list's order does. -/
theorem find?_eq_some_of_first {α : Type} {r : α → α → Prop} {l : List α} {p : α → Bool} {x : α} (hl : l.Pairwise r)
    (hx : x ∈ l) (hp : p x = true) (hfirst : ∀ y, r y x → p y = false) : l.find? p = some x := by
  obtain ⟨before, after, rfl⟩ := List.append_of_mem hx
  have hbefore : ∀ y ∈ before, r y x := fun y hy => (List.pairwise_append.1 hl).2.2 y hy x (by simp)
  exact List.find?_eq_some_iff_append.2 ⟨hp, before, after, rfl, fun y hy => by simp [hfirst y (hbefore y hy)]⟩

/-- An ascending list of all numbers is searched from the lowest. -/
theorem find?_eq_some_iff_lowest {n : Nat} {l : List (Fin n)} {p : Fin n → Bool} {i : Fin n}
    (hl : l.Pairwise (· < ·)) (hall : ∀ j, j ∈ l) :
    l.find? p = some i ↔ p i = true ∧ ∀ j, j < i → p j = false := by
  constructor
  · intro h
    obtain ⟨hp, before, after, rfl, hbefore⟩ := List.find?_eq_some_iff_append.1 h
    refine ⟨hp, fun j hj => ?_⟩
    have hmem : j ∈ before := by
      rcases List.mem_append.1 (hall j) with hj' | hj'
      · exact hj'
      · rcases List.mem_cons.1 hj' with rfl | hj'
        · exact absurd hj (lt_irrefl j)
        · have := List.rel_of_pairwise_cons (List.pairwise_append.1 hl).2.1 hj'
          exact absurd hj (lt_asymm this)
    simpa using hbefore j hmem
  · rintro ⟨hp, hlow⟩
    exact find?_eq_some_of_first hl (hall i) hp hlow

theorem all24_rising : all24.Pairwise (· < ·) := by decide

theorem allTracks_rising : allTracks.Pairwise (· < ·) := by decide

/-- The order of `allPairs`: by auditorium, then by track (R131). -/
def PairBefore (x y : Aud × TrackNo) : Prop := x.1 < y.1 ∨ x.1 = y.1 ∧ x.2 < y.2

theorem allAuds_rising : allAuds.Pairwise (· < ·) := by decide

theorem allPairs_rising : allPairs.Pairwise PairBefore := by
  unfold allPairs
  rw [List.pairwise_flatMap]
  refine ⟨fun a _ => ?_, allAuds_rising.imp fun {a b} hab => ?_⟩
  · rw [List.pairwise_map]
    exact allTracks_rising.imp fun h => Or.inr ⟨rfl, h⟩
  · intro x hx y hy
    obtain ⟨v, -, rfl⟩ := List.mem_map.1 hx
    obtain ⟨w, -, rfl⟩ := List.mem_map.1 hy
    exact Or.inl hab

theorem mem_allPairs (x : Aud × TrackNo) : x ∈ allPairs :=
  List.mem_flatMap.2 ⟨x.1, mem_allAuds x.1, List.mem_map.2 ⟨x.2, mem_allTracks x.2, rfl⟩⟩

/-! ### A fill start and the Stream Unit -/

/-- A fill start changes the Cue Locator, and the Stream Unit within the frame of its stream (R166, R169). -/
theorem startFill_spec (i : StreamNo) (s : State) :
    ∃ c b, startFill i s = { s with cues := c, stream := b } ∧ FillFrame i s.stream b := by
  unfold startFill
  dsimp only
  split
  · exact ⟨s.cues, s.stream, rfl, .rfl'⟩
  · rename_i x hx
    obtain ⟨b, hb, hframe⟩ := fill_spec i { s with
      cues := (lookup s s.stream.entries[i].aud s.stream.entries[i].track (airing s s.stream.entries[i].aud)).2
      stream := s.stream.setNext i (startPosition s x
        (lookup s s.stream.entries[i].aud s.stream.entries[i].track (airing s s.stream.entries[i].aud)).1
        (airing s s.stream.entries[i].aud)) }
    exact ⟨_, b, hb, (FillFrame.setNext i s.stream _).trans' hframe⟩

/-- What allocating entry `i` to a track leaves: the entry serves the track, and every other entry is as before (R164). -/
structure Allocated (i : StreamNo) (a : Aud) (v : TrackNo) (s u : State) : Prop where
  alloc : u.stream.entries[i].alloc = true
  aud : u.stream.entries[i].aud = a
  track : u.stream.entries[i].track = v
  generation : u.stream.entries[i].generation = s.stream.entries[i].generation
  others : ∀ j, j ≠ i → u.stream.entries[j] = s.stream.entries[j]
  unserved : u.stream.unserved = s.stream.unserved
  denials : u.stream.denials = s.stream.denials
  link : u.link = s.link
  blocks : otherBlocks s u

/-- A stream entry as it is granted to a track: empty, its generation and outstanding count kept (R164). -/
def Stream.granted (x : Stream) (a : Aud) (v : TrackNo) : Stream :=
  { x with alloc := true, aud := a, track := v, next := none, ring := [] }

theorem allocateStream_eq (i : StreamNo) (a : Aud) (v : TrackNo) (s : State) : allocateStream i a v s =
    startFill i { s with stream := s.stream.setEntry i (s.stream.entries[i].granted a v) } := rfl

theorem allocateStream_allocated (i : StreamNo) (a : Aud) (v : TrackNo) (s : State) :
    Allocated i a v s (allocateStream i a v s) := by
  rw [allocateStream_eq]
  obtain ⟨c, b, he, h⟩ :=
    startFill_spec i { s with stream := s.stream.setEntry i (s.stream.entries[i].granted a v) }
  have hself : (s.stream.setEntry i (s.stream.entries[i].granted a v)).entries[i] = s.stream.entries[i].granted a v :=
    setAt_self _ _ _
  rw [he]
  refine ⟨?_, ?_, ?_, ?_, fun j hj => ?_, h.unserved, h.denials, rfl,
    ⟨rfl, rfl, rfl, rfl, rfl, rfl, rfl, rfl, rfl, rfl⟩⟩
  · rw [h.alloc, hself, Stream.granted]
  · rw [h.aud, hself, Stream.granted]
  · rw [h.track, hself, Stream.granted]
  · rw [h.generation, hself, Stream.granted]
  · rw [h.others j hj]
    exact setAt_other _ _ hj.symm

/-! ### Requests and releases, case by case -/

theorem StreamBlock.lowestFree_eq_some {b : StreamBlock} {i : StreamNo} :
    b.lowestFree = some i ↔ b.entries[i].alloc = false ∧ ∀ j, j < i → b.entries[j].alloc = true := by
  unfold StreamBlock.lowestFree
  rw [find?_eq_some_iff_lowest all24_rising mem_all24]
  simp

theorem StreamBlock.lowestFree_eq_none {b : StreamBlock} : b.lowestFree = none ↔ ∀ i : StreamNo, b.entries[i].alloc = true := by
  unfold StreamBlock.lowestFree
  rw [List.find?_eq_none]
  simp [mem_all24]

theorem requestStream_granted {s : State} {i : StreamNo} (h : s.stream.lowestFree = some i) (p : Aud × TrackNo) :
    requestStream s p = allocateStream i p.1 p.2 s := by
  simp only [requestStream, h]

theorem requestStream_denied {s : State} (h : s.stream.lowestFree = none) (p : Aud × TrackNo) : requestStream s p =
    { s with
      stream := { s.stream.mark p.1 p.2 true with denials := bump s.stream.denials }
      link := s.link.latchStreamDenied p.1 } := by
  simp only [requestStream, h]

theorem releaseStream_unserved {s : State} {p : Aud × TrackNo} (h : s.stream.isUnserved p.1 p.2 = true) :
    releaseStream s p = { s with stream := s.stream.mark p.1 p.2 false } := by
  simp only [releaseStream, h, if_true]

theorem releaseStream_streamless {s : State} {p : Aud × TrackNo} (h : s.stream.isUnserved p.1 p.2 = false)
    (hp : s.stream.streamOf p.1 p.2 = none) : releaseStream s p = s := by
  simp only [releaseStream, h, hp, Bool.false_eq_true, if_false]

/-- The state with stream entry `i` released. -/
def State.freeStream (s : State) (i : StreamNo) : State :=
  { s with stream := s.stream.setEntry i s.stream.entries[i].release }

theorem releaseStream_frees {s : State} {p : Aud × TrackNo} {i : StreamNo} (h : s.stream.isUnserved p.1 p.2 = false)
    (hp : s.stream.streamOf p.1 p.2 = some i) : releaseStream s p = handOnEntry i (s.freeStream i) := by
  simp only [releaseStream, h, hp, Bool.false_eq_true, if_false, State.freeStream]

/-- A track waits for a stream: it is marked UNSERVED, with a subscriber (R165). -/
def Waits (s : State) (x : Aud × TrackNo) : Prop := s.stream.unserved[x.1][x.2] = true ∧ 1 ≤ s.rcv.counts[x.1][x.2]

theorem waitingTrack_test {s : State} {x : Aud × TrackNo} :
    (s.stream.isUnserved x.1 x.2 && decide (1 ≤ s.rcv.counts[x.1][x.2])) = true ↔ Waits s x := by
  simp [StreamBlock.isUnserved, Waits]

theorem waitingTrack_of_first {s : State} {x : Aud × TrackNo} (h : Waits s x) (hfirst : ∀ y, PairBefore y x → ¬Waits s y) :
    waitingTrack s = some x :=
  find?_eq_some_of_first allPairs_rising (mem_allPairs x) (waitingTrack_test.2 h) fun y hy =>
    Bool.eq_false_iff.2 fun e => hfirst y hy (waitingTrack_test.1 e)

theorem waitingTrack_waits {s : State} {x : Aud × TrackNo} (h : waitingTrack s = some x) : Waits s x :=
  waitingTrack_test.1
    (List.find?_some (p := fun y : Aud × TrackNo => s.stream.isUnserved y.1 y.2 && decide (1 ≤ s.rcv.counts[y.1][y.2])) h)

theorem waitingTrack_eq_none {s : State} : waitingTrack s = none ↔ ∀ x, ¬Waits s x := by
  unfold waitingTrack
  rw [List.find?_eq_none]
  exact ⟨fun h x hx => h x (mem_allPairs x) (waitingTrack_test.2 hx), fun h x _ e => h x (waitingTrack_test.1 e)⟩

theorem handOnEntry_none {s : State} (h : waitingTrack s = none) (i : StreamNo) : handOnEntry i s = s := by
  simp only [handOnEntry, h]

theorem handOnEntry_some {s : State} {x : Aud × TrackNo} (h : waitingTrack s = some x) (i : StreamNo) :
    handOnEntry i s = allocateStream i x.1 x.2 { s with stream := s.stream.mark x.1 x.2 false } := by
  simp only [handOnEntry, h]

/-- Whether a track waits does not depend on the stream entries. -/
theorem waits_freeStream {s : State} {i : StreamNo} {x : Aud × TrackNo} : Waits (s.freeStream i) x ↔ Waits s x := Iff.rfl

theorem StreamBlock.mark_eq (b : StreamBlock) (a : Aud) (v : TrackNo) (x : Bool) :
    b.mark a v x = { b with unserved := setAt b.unserved a (setAt b.unserved[a] v x) } := rfl

/-- The entry of a release that hands it on, as one change of the entry (R164, R165). -/
theorem freeStream_allocate (s : State) (i : StreamNo) (a : Aud) (v : TrackNo) :
    allocateStream i a v { s.freeStream i with stream := (s.freeStream i).stream.mark a v false } =
      startFill i { s with stream := { s.stream with
        entries := setAt s.stream.entries i { s.stream.entries[i] with
          alloc := true, aud := a, track := v, generation := s.stream.entries[i].generation + 1, next := none, ring := [] }
        unserved := setAt s.stream.unserved a (setAt s.stream.unserved[a] v false) } } := by
  have hself : ((s.freeStream i).stream.mark a v false).entries[i] = s.stream.entries[i].release := setAt_self _ _ _
  unfold allocateStream
  dsimp only
  rw [hself]
  simp [State.freeStream, StreamBlock.setEntry, StreamBlock.mark_eq, Stream.release, Stream.flush]

/-- Settles O45: a request by the lowest FREE entry, a release by the mark and by the first waiting track. -/
theorem streamsAreGrantedAndReleased : Obligations.StreamsAreGrantedAndReleased := by
  unfold Obligations.StreamsAreGrantedAndReleased
  intro a v s
  refine ⟨fun i hfree hlow => ?_, fun hfull => ?_, fun hmark => ?_, fun i hmark hstream => ?_⟩
  · have hgrant := requestStream_granted (StreamBlock.lowestFree_eq_some.2 ⟨hfree, hlow⟩) (a, v)
    have h := allocateStream_allocated i a v s
    dsimp only
    rw [hgrant]
    exact ⟨rfl, h.alloc, h.aud, h.track, h.generation, h.others, h.unserved, h.denials, h.link, h.blocks⟩
  · exact requestStream_denied (StreamBlock.lowestFree_eq_none.2 hfull) (a, v)
  · exact releaseStream_unserved (p := (a, v)) hmark
  · have hrelease := releaseStream_frees (p := (a, v)) hmark hstream
    refine ⟨fun hnone => ?_, fun b w hw hfirst => ?_⟩
    · rw [hrelease, handOnEntry_none (waitingTrack_eq_none.2 fun x hx => hnone x.1 x.2 (waits_freeStream.1 hx))]
      rfl
    · have hwaiting : waitingTrack (s.freeStream i) = some (b, w) := by
        refine waitingTrack_of_first hw fun y hy hyw => ?_
        have h1 := hfirst y.1 y.2 hyw
        simp only [PairBefore, Fin.lt_def, Fin.ext_iff, Fin.le_def] at h1 hy
        omega
      have h := allocateStream_allocated i b w
        { s.freeStream i with stream := (s.freeStream i).stream.mark b w false }
      have hself : ((s.freeStream i).stream.mark b w false).entries[i] = s.stream.entries[i].release := setAt_self _ _ _
      dsimp only
      rw [hrelease, handOnEntry_some hwaiting]
      refine ⟨freeStream_allocate s i b w, h.alloc, h.aud, h.track, ?_, fun j hj => ?_, h.unserved, h.link, h.blocks⟩
      · rw [h.generation, hself]
        rfl
      · rw [h.others j hj]
        exact setAt_other _ _ hj.symm

end Sys2Proof.Machine
end

/-! SUPPORT. The fill, one block at a time, and the next fetch position that the blocks of a track give (R166, R167, R169). -/
section
namespace Sys2Proof.Machine
open Sys2Proof.Safety

/-! ### The next block a track supplies (R167) -/

section
variable {s : State} {x : TitleTrack} {e k : Nat} {next : Option (Nat × Nat)}

/-- The next block is the first of the blocks that the track still supplies; it leaves the same blocks. -/
theorem blocksFrom_of_comesNext (h : comesNext s x e k next) :
    (next = none ∧ blocksFrom s x e k = []) ∨
      ∃ j l, next = some (j, l) ∧ l < (descAt s x j).first + supplyAt s x j ∧ blocksFrom s x e k = blocksFrom s x j l := by
  obtain ⟨hhere, hpast⟩ := h
  by_cases hk : k < (descAt s x e).first + supplyAt s x e
  · exact Or.inr ⟨e, k, hhere hk, hk, rfl⟩
  · have hk : (descAt s x e).first + supplyAt s x e ≤ k := Nat.le_of_not_lt hk
    obtain ⟨hnone, hlater⟩ := hpast hk
    by_cases hz : ∀ j, e < j → j < x.track.n → supplyAt s x j = 0
    · exact Or.inl ⟨hnone hz, blocksFrom_ended hk hz⟩
    · have hex : ∃ j, e < j ∧ j < x.track.n ∧ supplyAt s x j ≠ 0 := by
        simpa only [not_forall, exists_prop] using hz
      classical
      obtain ⟨hej, hjn, hj⟩ := Nat.find_spec hex
      have hleast : ∀ l, e < l → l < Nat.find hex → supplyAt s x l = 0 := fun l hl hlj =>
        not_not.1 fun hne => Nat.find_min hex hlj ⟨hl, by omega, hne⟩
      exact Or.inr ⟨_, _, hlater _ hej hjn hj hleast,
        Nat.lt_add_of_pos_right (Nat.pos_of_ne_zero hj), blocksFrom_later hk hej hjn hleast⟩

theorem head?_blocksFrom_of_comesNext (h : comesNext s x e k next) : (blocksFrom s x e k).head? = next := by
  rcases blocksFrom_of_comesNext h with ⟨rfl, hb⟩ | ⟨j, l, rfl, hl, hb⟩
  · rw [hb, List.head?_nil]
  · rw [hb, blocksFrom_cons hl, List.head?_cons]

end

/-! ### A fill (R169) -/

section
variable {i : StreamNo} {x : TitleTrack} {e k : Nat} {s : State}

theorem fill_of_next (halloc : s.stream.entries[i].alloc = true) (hnext : s.stream.entries[i].next = some (e, k))
    (hx : trackOf s s.stream.entries[i].aud s.stream.entries[i].track = some x) :
    fill i s = { s with stream := fillBlocks s i x (blocksFrom s x e k) s.stream } := by
  simp only [fill, hnext, hx, halloc, if_true]

theorem fill_of_idle (h : s.stream.entries[i].alloc = false ∨ s.stream.entries[i].next = none) : fill i s = s := by
  unfold fill
  dsimp only
  split
  · rfl
  · rename_i hnext
    split
    · rfl
    · rcases h with h | h
      · rw [h]
        rfl
      · rw [h] at hnext
        cases hnext

/-- A fill from the next block is the fill of the blocks that remain. -/
theorem fill_of_comesNext {next : Option (Nat × Nat)} {b : StreamBlock} (halloc : b.entries[i].alloc = true)
    (hx : trackOf s b.entries[i].aud b.entries[i].track = some x) (h : comesNext s x e k next) :
    fill i { s with stream := b.setNext i next } = { s with stream := fillBlocks s i x (blocksFrom s x e k) b } := by
  have hentry : (b.setNext i next).entries[i] = { b.entries[i] with next := next } := setAt_self _ _ _
  rcases blocksFrom_of_comesNext h with ⟨rfl, hb⟩ | ⟨j, l, rfl, hl, hb⟩
  · rw [fill_of_idle (Or.inr (by dsimp only; rw [hentry])), hb]
    rfl
  · rw [fill_of_next (s := { s with stream := b.setNext i (some (j, l)) }) (x := x) (e := j) (k := l)
      (by dsimp only; rw [hentry]; exact halloc) (by dsimp only; rw [hentry])
      (by dsimp only; rw [hentry]; exact hx)]
    dsimp only
    rw [fillBlocks_setNext, hb,
      fillBlocks_congr (s := s) (u := { s with stream := b.setNext i (some (j, l)) }) rfl rfl rfl rfl rfl]
    rfl

/-- An entry of the Stream Unit given the next fetch position that it has. -/
theorem StreamBlock.setNext_same {b : StreamBlock} {next : Option (Nat × Nat)} (h : b.entries[i].next = next) :
    b.setNext i next = b := by
  subst h
  change { b with entries := setAt b.entries i b.entries[i] } = b
  rw [Fin.getElem_fin, setAt_same]

section
variable {b : StreamBlock} {rest : List (Nat × Nat)}

theorem fillBlocks_full (h : 8 ≤ b.entries[i].ring.length) :
    fillBlocks s i x ((e, k) :: rest) b = b.setNext i (some (e, k)) := by
  simp only [fillBlocks]
  rw [if_pos h]

variable (hroom : b.entries[i].ring.length < 8)
include hroom

theorem fillBlocks_late (h : playTime (descAt s x e) k + 96 ≤ airing s b.entries[i].aud) :
    fillBlocks s i x ((e, k) :: rest) b =
      fillBlocks s i x rest (b.count b.entries[i].aud fun c => { c with late := bump c.late }) := by
  simp only [fillBlocks]
  rw [if_neg (Nat.not_le.2 hroom), if_pos h]

variable (hdue : airing s b.entries[i].aud < playTime (descAt s x e) k + 96)
include hdue

theorem fillBlocks_silent (h : (clipEntry s (descAt s x e).clip).defined = false) :
    fillBlocks s i x ((e, k) :: rest) b = fillBlocks s i x rest
      ((b.push i ⟨playTime (descAt s x e) k, .silent, (descAt s x e).clip, k, 0, (descAt s x e).level⟩).count
        b.entries[i].aud fun c => { c with silent := bump c.silent }) := by
  simp only [fillBlocks]
  rw [if_neg (Nat.not_le.2 hroom), if_neg (Nat.not_le.2 hdue), h]
  rfl

variable (hdir : (clipEntry s (descAt s x e).clip).defined = true)
include hdir

theorem fillBlocks_fetch (h : b.pool.length < 32) :
    fillBlocks s i x ((e, k) :: rest) b = fillBlocks s i x rest (b.placeFetch i
      ⟨playTime (descAt s x e) k, .outstanding, (descAt s x e).clip, k, (clipEntry s (descAt s x e).clip).first + k,
        (descAt s x e).level⟩) := by
  simp only [fillBlocks]
  rw [if_neg (Nat.not_le.2 hroom), if_neg (Nat.not_le.2 hdue), hdir, if_neg (by simp), if_pos h]

theorem fillBlocks_wait (h : 32 ≤ b.pool.length) :
    fillBlocks s i x ((e, k) :: rest) b = b.setNext i (some (e, k)) := by
  simp only [fillBlocks]
  rw [if_neg (Nat.not_le.2 hroom), if_neg (Nat.not_le.2 hdue), hdir, if_neg (by simp), if_neg (Nat.not_lt.2 h)]

end

/-! ### The statistic of silent positions -/

theorem le_bump (n : Stat) : n ≤ bump n := by
  rw [BitVec.le_def, bump_toNat]
  have := n.isLt
  omega

theorem lt_bump {n : Stat} (h : n ≠ 65535) : n < bump n := by
  have hne : n.toNat ≠ 65535 := fun e => h (BitVec.eq_of_toNat_eq e)
  rw [BitVec.lt_def, bump_toNat]
  have := n.isLt
  omega

/-- Counting never lowers the silent positions counted. -/
theorem StreamBlock.count_silent_le {f : StreamStats → StreamStats} (hf : ∀ c, c.silent ≤ (f c).silent)
    (b : StreamBlock) (a a' : Aud) : b.stats[a'].silent ≤ (b.count a f).stats[a'].silent := by
  by_cases h : a = a'
  · subst h
    simp only [StreamBlock.count, modAt]
    rw [setAt_self]
    exact hf _
  · simp only [StreamBlock.count, modAt]
    rw [setAt_other _ _ h]
    exact BitVec.le_refl _

theorem fillBlocks_silent_le (l : List (Nat × Nat)) (b : StreamBlock) (a : Aud) :
    b.stats[a].silent ≤ (fillBlocks s i x l b).stats[a].silent := by
  induction l generalizing b with
  | nil => exact BitVec.le_refl _
  | cons ek rest ih =>
    obtain ⟨e, k⟩ := ek
    have hlate := StreamBlock.count_silent_le (f := fun c => { c with late := bump c.late })
      (fun c => BitVec.le_refl c.silent)
    have hsilent := StreamBlock.count_silent_le (f := fun c => { c with silent := bump c.silent })
      (fun c => le_bump c.silent)
    unfold fillBlocks
    dsimp only
    split
    · exact BitVec.le_refl _
    · split
      · exact BitVec.le_trans (hlate b _ a) (ih _)
      · split
        · exact BitVec.le_trans (hsilent (b.push i _) _ a) (ih _)
        · split
          · exact ih (b.placeFetch i _)
          · exact BitVec.le_refl _

end

/-! ### What the first position of a fill leaves (R169, step 3) -/

section
variable {i : StreamNo} {e k : Nat} {x : TitleTrack} {s : State} {c : ClipNo}
variable (halloc : s.stream.entries[i].alloc = true) (hnext : s.stream.entries[i].next = some (e, k))
variable (hx : trackOf s s.stream.entries[i].aud s.stream.entries[i].track = some x)
variable (hsupply : k < (descAt s x e).first + supplyAt s x e)
include halloc hnext hx hsupply

/-- A fill begins with its next fetch position. -/
theorem fill_first : fill i s = { s with stream := fillBlocks s i x ((e, k) :: blocksFrom s x e (k + 1)) s.stream } := by
  rw [fill_of_next halloc hnext hx, blocksFrom_cons hsupply]

/-- A fill that cannot place its next fetch position waits: it changes nothing. -/
theorem fill_waits (h : fillBlocks s i x ((e, k) :: blocksFrom s x e (k + 1)) s.stream =
    s.stream.setNext i (some (e, k))) : fill i s = s := by
  rw [fill_first halloc hnext hx hsupply, h, StreamBlock.setNext_same hnext]

variable (hroom : s.stream.entries[i].ring.length < 8)
variable (hdue : airing s s.stream.entries[i].aud < playTime (descAt s x e) k + 96)
include hroom hdue

/-- An undefined clip gives a SILENT position, counted. -/
theorem fill_places_silent (hdir : (clipEntry s (descAt s x e).clip).defined = false) :
    s.stream.entries[i].ring ++ [⟨playTime (descAt s x e) k, .silent, (descAt s x e).clip, k, 0, (descAt s x e).level⟩]
        <+: (fill i s).stream.entries[i].ring ∧
      (s.stream.stats[s.stream.entries[i].aud].silent ≠ 65535 →
        s.stream.stats[s.stream.entries[i].aud].silent < (fill i s).stream.stats[s.stream.entries[i].aud].silent) := by
  rw [fill_first halloc hnext hx hsupply]
  dsimp only
  rw [fillBlocks_silent hroom hdue hdir]
  generalize hb : (s.stream.push i ⟨playTime (descAt s x e) k, .silent, (descAt s x e).clip, k, 0,
    (descAt s x e).level⟩).count s.stream.entries[i].aud (fun c => { c with silent := bump c.silent }) = b
  have hring : b.entries[i].ring = s.stream.entries[i].ring ++
      [⟨playTime (descAt s x e) k, .silent, (descAt s x e).clip, k, 0, (descAt s x e).level⟩] := by
    rw [← hb]
    exact congrArg Stream.ring (setAt_self _ _ _)
  have hsilent : b.stats[s.stream.entries[i].aud].silent = bump s.stream.stats[s.stream.entries[i].aud].silent := by
    rw [← hb]
    exact congrArg StreamStats.silent (setAt_self _ _ _)
  refine ⟨hring ▸ (fillBlocks_frame s i x _ b).ring, fun hmax => ?_⟩
  have hcounted := BitVec.lt_def.1 (lt_bump hmax)
  rw [← hsilent] at hcounted
  exact BitVec.lt_def.2 (Nat.lt_of_lt_of_le hcounted (BitVec.le_def.1 (fillBlocks_silent_le _ b _)))

/-- A defined clip gives an OUTSTANDING position and a fetch record, where the pool has a place. -/
theorem fill_places_fetch (hdir : (clipEntry s (descAt s x e).clip).defined = true) (hpool : s.stream.pool.length < 32) :
    s.stream.pool ++ [⟨i, s.stream.entries[i].aud, s.stream.entries[i].generation,
        (clipEntry s (descAt s x e).clip).first + k, playTime (descAt s x e) k⟩] <+: (fill i s).stream.pool ∧
      s.stream.entries[i].ring ++ [⟨playTime (descAt s x e) k, .outstanding, (descAt s x e).clip, k,
        (clipEntry s (descAt s x e).clip).first + k, (descAt s x e).level⟩] <+: (fill i s).stream.entries[i].ring ∧
      s.stream.entries[i].outstanding < (fill i s).stream.entries[i].outstanding := by
  rw [fill_first halloc hnext hx hsupply]
  dsimp only
  rw [fillBlocks_fetch hroom hdue hdir hpool]
  generalize hb : s.stream.placeFetch i ⟨playTime (descAt s x e) k, .outstanding, (descAt s x e).clip, k,
    (clipEntry s (descAt s x e).clip).first + k, (descAt s x e).level⟩ = b
  have hentry : b.entries[i] = { s.stream.entries[i] with
      ring := s.stream.entries[i].ring ++ [⟨playTime (descAt s x e) k, .outstanding, (descAt s x e).clip, k,
        (clipEntry s (descAt s x e).clip).first + k, (descAt s x e).level⟩]
      outstanding := s.stream.entries[i].outstanding + 1 } := by
    rw [← hb]
    exact setAt_self _ _ _
  have hp : b.pool = s.stream.pool ++ [⟨i, s.stream.entries[i].aud, s.stream.entries[i].generation,
      (clipEntry s (descAt s x e).clip).first + k, playTime (descAt s x e) k⟩] := by
    rw [← hb]
    rfl
  have h := fillBlocks_frame s i x (blocksFrom s x e (k + 1)) b
  refine ⟨hp ▸ h.pool, ?_, ?_⟩
  · have := h.ring
    rwa [hentry] at this
  · have := h.outstanding
    rw [hentry] at this
    exact this

end

end Sys2Proof.Machine
end

/-! SUPPORT. The fill is one position after another, and where a fill start begins (R166, R167, R169, R176). -/
section
namespace Sys2Proof.Machine
open Sys2Proof.Safety

theorem supplyAt_defined {s : State} {x : TitleTrack} {e : Nat}
    (h : (clipEntry s (descAt s x e).clip).defined = true) : supplyAt s x e =
      min (ceilDiv (descAt s x e).dur 96) ((clipEntry s (descAt s x e).clip).length - (descAt s x e).first) := by
  simp only [supplyAt, supply, h, if_true]

theorem supplyAt_undefined {s : State} {x : TitleTrack} {e : Nat}
    (h : (clipEntry s (descAt s x e).clip).defined = false) :
    supplyAt s x e = min (ceilDiv (descAt s x e).dur 96) (4096 - (descAt s x e).first) := by
  simp only [supplyAt, supply, h, Bool.false_eq_true, if_false]

section
variable {i : StreamNo} {e k : Nat} {x : TitleTrack} {next : Option (Nat × Nat)} {s : State}
variable (halloc : s.stream.entries[i].alloc = true) (hnext : s.stream.entries[i].next = some (e, k))
variable (hx : trackOf s s.stream.entries[i].aud s.stream.entries[i].track = some x)
variable (hsupply : k < (descAt s x e).first + supplyAt s x e) (h : comesNext s x e (k + 1) next)
include halloc hnext hx hsupply h

/-- After its first block a fill goes on as a fill from the next one. -/
theorem fill_goes_on {b : StreamBlock}
    (hb : fillBlocks s i x ((e, k) :: blocksFrom s x e (k + 1)) s.stream =
      fillBlocks s i x (blocksFrom s x e (k + 1)) b)
    (hentry : b.entries[i].alloc = s.stream.entries[i].alloc ∧ b.entries[i].aud = s.stream.entries[i].aud ∧
      b.entries[i].track = s.stream.entries[i].track) :
    fill i s = fill i { s with stream := b.setNext i next } := by
  obtain ⟨h1, h2, h3⟩ := hentry
  rw [fill_first halloc hnext hx hsupply, hb, fill_of_comesNext (h1.trans halloc) (by rw [h2, h3]; exact hx) h]

/-- The fill of one block, by what the block meets: a full ring, lateness, an undefined clip, a full pool (R169). -/
theorem fill_one :
    let b := s.stream
    let st := b.entries[i]
    let d := descAt s x e
    let dir := clipEntry s d.clip
    let goesOn := fun (st' : Stream) (pool : List FetchRecord) (f : StreamStats → StreamStats) =>
      fill i { s with stream := { b with
        entries := setAt b.entries i { st' with next := next }
        pool := pool
        stats := setAt b.stats st.aud (f b.stats[st.aud]) } }
    (8 ≤ st.ring.length → fill i s = s) ∧
    (st.ring.length < 8 →
      (playTime d k + 96 ≤ airing s st.aud → fill i s = goesOn st b.pool fun n => { n with late := bump n.late }) ∧
      (airing s st.aud < playTime d k + 96 →
        (dir.defined = false → fill i s =
          goesOn { st with ring := st.ring ++ [⟨playTime d k, .silent, d.clip, k, 0, d.level⟩] } b.pool
            fun n => { n with silent := bump n.silent }) ∧
        (dir.defined = true → b.pool.length < 32 → fill i s = goesOn
          { st with
            ring := st.ring ++ [⟨playTime d k, .outstanding, d.clip, k, dir.first + k, d.level⟩]
            outstanding := st.outstanding + 1 }
          (b.pool ++ [⟨i, st.aud, st.generation, dir.first + k, playTime d k⟩]) id) ∧
        (dir.defined = true → 32 ≤ b.pool.length → fill i s = s))) := by
  dsimp only
  refine ⟨fun hfull => fill_waits halloc hnext hx hsupply (fillBlocks_full hfull), fun hroom =>
    ⟨fun hlate => ?_, fun hdue => ⟨fun hdir => ?_, fun hdir hpool => ?_, fun hdir hpool =>
      fill_waits halloc hnext hx hsupply (fillBlocks_wait hroom hdue hdir hpool)⟩⟩⟩
  · rw [fill_goes_on halloc hnext hx hsupply h (fillBlocks_late hroom hlate) ⟨rfl, rfl, rfl⟩]
    rfl
  · have hself : (s.stream.push i ⟨playTime (descAt s x e) k, .silent, (descAt s x e).clip, k, 0,
        (descAt s x e).level⟩).entries[i] = { s.stream.entries[i] with ring := s.stream.entries[i].ring ++
          [⟨playTime (descAt s x e) k, .silent, (descAt s x e).clip, k, 0, (descAt s x e).level⟩] } := setAt_self _ _ _
    rw [fill_goes_on halloc hnext hx hsupply h (fillBlocks_silent hroom hdue hdir)
      (by simp only [StreamBlock.count]; rw [hself]; exact ⟨rfl, rfl, rfl⟩)]
    simp only [StreamBlock.count, StreamBlock.setNext, StreamBlock.setEntry]
    rw [hself]
    simp only [StreamBlock.push, StreamBlock.setEntry, setAt_twice, modAt]
  · have hself : (s.stream.placeFetch i ⟨playTime (descAt s x e) k, .outstanding, (descAt s x e).clip, k,
        (clipEntry s (descAt s x e).clip).first + k, (descAt s x e).level⟩).entries[i] = { s.stream.entries[i] with
          ring := s.stream.entries[i].ring ++ [⟨playTime (descAt s x e) k, .outstanding, (descAt s x e).clip, k,
            (clipEntry s (descAt s x e).clip).first + k, (descAt s x e).level⟩]
          outstanding := s.stream.entries[i].outstanding + 1 } := setAt_self _ _ _
    rw [fill_goes_on halloc hnext hx hsupply h (fillBlocks_fetch hroom hdue hdir hpool)
      (by rw [hself]; exact ⟨rfl, rfl, rfl⟩)]
    simp only [StreamBlock.setNext, StreamBlock.setEntry]
    rw [hself]
    simp only [StreamBlock.placeFetch, setAt_twice, id_eq, Fin.getElem_fin, setAt_same]

end

theorem startPosition_of_comesNext {s : State} {x : TitleTrack} {f : Found} {sair : Nat} {next : Option (Nat × Nat)}
    (hin : f.index < x.track.n → comesNext s x f.index
      (if f.active then (descAt s x f.index).first + (sair - (descAt s x f.index).start) / 96
        else (descAt s x f.index).first) next)
    (hout : x.track.n ≤ f.index → next = none) : startPosition s x f sair = next := by
  unfold startPosition
  split
  · rename_i hlt
    exact head?_blocksFrom_of_comesNext (hin hlt)
  · rename_i hge
    exact (hout (Nat.le_of_not_lt hge)).symm

theorem startFill_of_track {s : State} {i : StreamNo} {x : TitleTrack}
    (hx : trackOf s s.stream.entries[i].aud s.stream.entries[i].track = some x) : startFill i s =
      let sair := airing s s.stream.entries[i].aud
      let r := lookup s s.stream.entries[i].aud s.stream.entries[i].track sair
      fill i { s with cues := r.2, stream := s.stream.setNext i (startPosition s x r.1 sair) } := by
  simp only [startFill, hx]

/-- Settles O46: a fill block by block, and the fill starts of a flush in track order. -/
theorem fillMakesThePosition : Obligations.FillMakesThePosition := by
  unfold Obligations.FillMakesThePosition
  refine ⟨?_, fun i s h => fill_of_idle h, ?_, ?_, fun a s => ?_⟩
  · intro i e k x s
    dsimp only
    intro halloc hnext hx hroom hdue c hclip hk
    have hdir : clipEntry s (descAt s x e).clip = s.store.directory[c] := by
      rw [← clipEntry_val s c, ← hclip]
      rfl
    obtain ⟨b, hb, hframe⟩ := fill_spec i s
    have hrest : (fill i s).stream.entries[i].ring.length ≤ 8 ∧
        (fill i s).stream.entries[i].generation = s.stream.entries[i].generation ∧
        ∀ j, j ≠ i → (fill i s).stream.entries[j] = s.stream.entries[j] := by
      rw [hb]
      exact ⟨hframe.ringSize (Nat.le_of_lt hroom), hframe.generation, hframe.others⟩
    rw [← hdir, ← hclip]
    refine ⟨fun hdef hs => ?_, fun hdef hs => ?_, hrest⟩
    · have hs : k < (descAt s x e).first + supplyAt s x e := supplyAt_defined hdef ▸ hs
      exact ⟨fun hpool => fill_places_fetch halloc hnext hx hs hroom hdue hdef hpool, fun hpool =>
        fill_waits halloc hnext hx hs (fillBlocks_wait hroom hdue hdef hpool)⟩
    · have hs : k < (descAt s x e).first + supplyAt s x e := supplyAt_undefined hdef ▸ hs
      exact fill_places_silent halloc hnext hx hs hroom hdue hdef
  · intro i e k x next s
    dsimp only
    intro halloc hnext hx hk hs h
    exact fill_one halloc hnext hx hs h
  · intro i x next s
    dsimp only
    intro hx hin hout
    have hstart := startPosition_of_comesNext (sair := airing s s.stream.entries[i].aud)
      (f := (lookup s s.stream.entries[i].aud s.stream.entries[i].track (airing s s.stream.entries[i].aud)).1) hin hout
    rw [startFill_of_track hx]
    dsimp only
    rw [hstart]
    rfl
  · rfl

end Sys2Proof.Machine
end

/-! SUPPORT. The clip directory and the maintenance requests: what each answers, check by check (R183 to R195). -/
section
namespace Sys2Proof.Machine
open Sys2Proof.Safety

/-! ### The bodies of the CLIP requests (R214) -/

theorem field_pair {n : Nat} (h : n < 65536) (bs : List Byte) : field (le 2 n ++ bs) 0 2 = n := by
  rw [field_zero_le]
  exact Nat.mod_eq_of_lt h

theorem field_pair_alone {n : Nat} (h : n < 65536) : field (le 2 n) 0 2 = n := by
  rw [field_all]
  exact Nat.mod_eq_of_lt h

theorem field_second {n m : Nat} (h : m < 65536) (bs : List Byte) : field (le 2 n ++ le 2 m ++ bs) 2 2 = m := by
  have := field_append (le 2 n) (le 2 m ++ bs) 0 2
  rw [le_length, Nat.add_zero, ← List.append_assoc] at this
  rw [this]
  exact field_pair h bs

theorem field_third {n m l : Nat} (h : l < 65536) : field (le 2 n ++ le 2 m ++ le 2 l) 4 2 = l := by
  have := field_append (le 2 n ++ le 2 m) (le 2 l) 0 2
  rw [List.length_append, le_length, le_length] at this
  rw [this]
  exact field_pair_alone h

/-! ### CLIP.DEFINE and CLIP.DELETE (R184, R185) -/

section
variable {tag : Byte} {first length : Nat} {s : State}

/-- A definition's own number: its effect by the checks in order. -/
theorem clipDefine_clip (hfirst : first < 65536) (hlength : length < 65536) (c : ClipNo) :
    clipDefine ⟨.m, tag, le 2 c.val ++ le 2 first ++ le 2 length⟩ s =
      if length < 1 || 4096 < length || 65536 < first + length then refuse .range s
      else if s.store.inUse[c] ≠ 0 then refuse .inUse s
      else if allClips.any fun d => d != c && overlaps first length s.store.directory[d] then refuse .overlap s
      else (s.setClip c ⟨true, first, length⟩, Reply.ok) := by
  have hc : c.val < 65536 := Nat.lt_trans c.isLt (by decide)
  unfold clipDefine
  rw [if_neg (by simp)]
  simp only [List.append_assoc, field_pair hc, clipNo_val]
  simp only [← List.append_assoc, field_second hfirst, field_third hlength]

theorem clipDefine_noClip {clip : Nat} (hclip : clip < 65536) (h : 1023 < clip) :
    clipDefine ⟨.m, tag, le 2 clip ++ le 2 first ++ le 2 length⟩ s = refuse .range s := by
  unfold clipDefine
  rw [if_neg (by simp)]
  simp only [List.append_assoc, field_pair hclip, clipNo_none h]

theorem clipDefine_range {clip : Nat} (hclip : clip < 65536) (hfirst : first < 65536) (hlength : length < 65536)
    (h : 1023 < clip ∨ length = 0 ∨ 4096 < length ∨ 65536 < first + length) :
    clipDefine ⟨.m, tag, le 2 clip ++ le 2 first ++ le 2 length⟩ s = refuse .range s := by
  by_cases hc : clip < 1024
  · have := clipDefine_clip (tag := tag) (s := s) hfirst hlength ⟨clip, hc⟩
    dsimp only at this
    rw [this, if_pos]
    simp only [Bool.or_eq_true, decide_eq_true_eq]
    omega
  · exact clipDefine_noClip hclip (by omega)

theorem clipDelete_clip (c : ClipNo) : clipDelete ⟨.m, tag, le 2 c.val⟩ s =
    if s.store.inUse[c] ≠ 0 then refuse .inUse s else (s.setClip c ClipEntry.clear, Reply.ok) := by
  have hc : c.val < 65536 := Nat.lt_trans c.isLt (by decide)
  unfold clipDelete
  rw [if_neg (by simp)]
  simp only [field_pair_alone hc, clipNo_val]

theorem clipDelete_range {clip : Nat} (hclip : clip < 65536) (h : 1023 < clip) :
    clipDelete ⟨.m, tag, le 2 clip⟩ s = refuse .range s := by
  unfold clipDelete
  rw [if_neg (by simp)]
  simp only [field_pair_alone hclip, clipNo_none h]

/-- Extents that are not empty overlap where they share a block (R184). -/
theorem overlaps_iff {d : ClipEntry} (hlength : 1 ≤ length) (hd : d.defined = true → 1 ≤ d.length) :
    overlaps first length d = true ↔ ∃ b, inExtent d b ∧ first ≤ b ∧ b < first + length := by
  constructor
  · intro h
    simp only [overlaps, Bool.and_eq_true, decide_eq_true_eq] at h
    obtain ⟨⟨hdef, h1⟩, h2⟩ := h
    have := hd hdef
    exact ⟨max first d.first, ⟨hdef, by omega, by omega⟩, by omega, by omega⟩
  · rintro ⟨b, hb, h1, h2⟩
    exact overlaps_of_inExtent h1 h2 hb

theorem overlapping_iff {c : ClipNo} (hlength : 1 ≤ length) (hdir : DirectoryLaw s) :
    (allClips.any fun d => d != c && overlaps first length s.store.directory[d]) = true ↔
      ∃ (d : ClipNo) (b : Nat), d ≠ c ∧ inExtent s.store.directory[d] b ∧ first ≤ b ∧ b < first + length := by
  have hlen : ∀ d : ClipNo, s.store.directory[d].defined = true → 1 ≤ s.store.directory[d].length := fun d hd => by
    have := hdir.1 d
    rw [if_pos hd] at this
    exact this.1
  simp only [List.any_eq_true, Bool.and_eq_true, bne_iff_ne, mem_allClips, true_and,
    overlaps_iff hlength (hlen _), ← exists_and_left]

end

theorem clipProtect_eq {tag : Byte} {v : Nat} {s : State} (hv : v < 65536) : clipProtect ⟨.m, tag, le 2 v⟩ s =
    ({ s with store := { s.store with floor := max s.store.floor (min v 4096) } },
      Reply.okClamped (decide (4096 < v ∨ v < s.store.floor))) := by
  unfold clipProtect
  dsimp only
  rw [if_neg (by simp), field_pair_alone hv, Bool.decide_or]

/-- Settles O47: the checks of each request in order, then what it writes. -/
theorem directoryRequests : Obligations.DirectoryRequests := by
  unfold Obligations.DirectoryRequests
  intro tag clip first length v s ho hclip hfirst hlength hv
  have hdefine : ∀ {k : Nat} {t : State} {x : Reply},
      clipDefine ⟨.m, tag, le 2 k ++ le 2 first ++ le 2 length⟩ s = (t, x) →
        exec (.clipDefine ⟨.m, tag, le 2 k ++ le 2 first ++ le 2 length⟩) s = .next (answer .m 21 tag x t) :=
    fun h => exec_answer_of rfl (by decide) rfl ho rfl h
  have hdelete : ∀ {k : Nat} {t : State} {x : Reply}, clipDelete ⟨.m, tag, le 2 k⟩ s = (t, x) →
      exec (.clipDelete ⟨.m, tag, le 2 k⟩) s = .next (answer .m 22 tag x t) :=
    fun h => exec_answer_of rfl (by decide) rfl ho rfl h
  refine ⟨fun h => hdefine (clipDefine_range hclip hfirst hlength h), fun h => hdelete (clipDelete_range hclip h),
    fun c hc => ?_, ?_, exec_answer_of rfl (by decide) rfl ho rfl rfl⟩
  · subst hc
    refine ⟨fun huse => hdelete ?_, fun huse => hdelete ?_, fun h1 h2 h3 => ⟨fun huse => hdefine ?_, fun huse hdir =>
      ⟨fun hover => hdefine ?_, fun hover => hdefine ?_⟩⟩⟩
    · rw [clipDelete_clip, if_pos huse]
      rfl
    · rw [clipDelete_clip, if_neg (not_not.2 huse)]
      rfl
    all_goals
      rw [clipDefine_clip hfirst hlength, if_neg (by simp only [Bool.or_eq_true, decide_eq_true_eq]; omega)]
    · rw [if_pos huse]
      rfl
    · rw [if_neg (not_not.2 huse), if_pos ((overlapping_iff h1 hdir).2 hover)]
      rfl
    · rw [if_neg (not_not.2 huse), if_neg (mt (overlapping_iff h1 hdir).1 hover)]
      rfl
  · exact exec_answer_of rfl (by decide) rfl ho rfl (clipProtect_eq hv)

/-! ### The check word of a page (R182) -/

/-- The sum of the words of `n` pairs of bytes. -/
theorem wordSum_eq (n : Nat) (data : List Byte) (h : data.length = 2 * n) : wordSum data =
    ((List.range n).map fun j => (data.getD (2 * j) 0).toNat + 256 * (data.getD (2 * j + 1) 0).toNat).sum := by
  induction n generalizing data with
  | zero =>
    rw [List.length_eq_zero_iff.1 h]
    rfl
  | succ n ih =>
    match data, h with
    | x :: y :: rest, h =>
      have hrest : rest.length = 2 * n := by simpa [Nat.mul_succ] using h
      rw [wordSum, ih rest hrest, List.range_succ_eq_map, List.map_cons, List.sum_cons, List.map_map]
      rfl

theorem checkWord_eq (data : List Byte) (h : data.length = 512) : checkWord data = 65535 - ((List.range 256).map fun j =>
    (data.getD (2 * j) 0).toNat + 256 * (data.getD (2 * j + 1) 0).toNat).sum % 65536 := by
  rw [checkWord, wordSum_eq 256 data h]

/-! ### CLIP.PROGRAM, CLIP.ERASE and CLIP.VERIFY (R187, R189 to R192, R195) -/

theorem isProtected_iff {s : State} {sector : Nat} : isProtected s sector = true ↔ sectorProtected s sector := by
  simp only [isProtected, sectorProtected, Bool.or_eq_true, decide_eq_true_eq, List.any_eq_true, Bool.and_eq_true,
    bne_iff_ne, mem_allClips, true_and, inSector_iff]

section
variable {tag : Byte} {n : Nat} {s : State} (hn : n < 65536)
include hn

theorem clipProgram_eq {data : List Byte} (hdata : data.length = 512) : clipProgram ⟨.m, tag, le 2 n ++ data⟩ s =
    if !s.store.latch then refuse .notEnabled (s.setLatch false)
    else if isProtected s (n / 16) then refuse .isProtected (s.setLatch false)
    else if s.store.op ≠ .none then refuse .busy (s.setLatch false)
    else ((s.setLatch false).setOp (.program .waiting n data (checkWord data)), Reply.of .accepted) := by
  unfold clipProgram
  dsimp only
  rw [if_neg (by simp [hdata]), field_pair hn, List.drop_left' (le_length 2 n)]

theorem clipErase_eq : clipErase ⟨.m, tag, le 2 n⟩ s =
    if 4096 ≤ n then refuse .range (s.setLatch false)
    else if !s.store.latch then refuse .notEnabled (s.setLatch false)
    else if isProtected s n then refuse .isProtected (s.setLatch false)
    else if s.store.op ≠ .none then refuse .busy (s.setLatch false)
    else ((s.setLatch false).setOp (.erase .waiting n), Reply.of .accepted) := by
  unfold clipErase
  dsimp only
  rw [if_neg (by simp), field_pair_alone hn]

theorem clipVerify_range (h : 1023 < n) : clipVerify ⟨.m, tag, le 2 n⟩ s = refuse .range s := by
  unfold clipVerify
  rw [if_neg (by simp)]
  simp only [field_pair_alone hn, clipNo_none h]

end

theorem clipVerify_clip {tag : Byte} {s : State} (c : ClipNo) : clipVerify ⟨.m, tag, le 2 c.val⟩ s =
    if !s.store.directory[c].defined then refuse .wrongState s
    else if s.store.op ≠ .none then refuse .busy s
    else (s.setOp (.verify .waiting c.val s.store.directory[c].first s.store.directory[c].length 0 0),
      Reply.of .accepted) := by
  have hc : c.val < 65536 := Nat.lt_trans c.isLt (by decide)
  unfold clipVerify
  rw [if_neg (by simp)]
  simp only [field_pair_alone hc, clipNo_val]

/-- Settles O48: the checks of each request in order, then the operation WAITING. -/
theorem maintenanceIsAccepted : Obligations.MaintenanceIsAccepted := by
  unfold Obligations.MaintenanceIsAccepted
  refine ⟨checkWord_eq, fun tag n data s ho hn hdata => ?_⟩
  have hprogram : ∀ {t : State} {x : Reply}, clipProgram ⟨.m, tag, le 2 n ++ data⟩ s = (t, x) →
      exec (.clipProgram ⟨.m, tag, le 2 n ++ data⟩) s = .next (answer .m 24 tag x t) := fun h =>
    exec_answer_of rfl (by decide) (by simp [Instr.wellFormed, Req.bodyFits, hdata, Config.maxRequestBody]) ho rfl h
  have herase : ∀ {t : State} {x : Reply}, clipErase ⟨.m, tag, le 2 n⟩ s = (t, x) →
      exec (.clipErase ⟨.m, tag, le 2 n⟩) s = .next (answer .m 25 tag x t) :=
    fun h => exec_answer_of rfl (by decide) rfl ho rfl h
  have hverify : ∀ {t : State} {x : Reply}, clipVerify ⟨.m, tag, le 2 n⟩ s = (t, x) →
      exec (.clipVerify ⟨.m, tag, le 2 n⟩) s = .next (answer .m 26 tag x t) :=
    fun h => exec_answer_of rfl (by decide) rfl ho rfl h
  have hfree : ∀ {sector : Nat}, ¬sectorProtected s sector → ¬isProtected s sector = true := mt isProtected_iff.1
  refine ⟨fun hlatch => hprogram ?_, fun hlatch => ⟨fun hp => hprogram ?_, fun hp =>
    ⟨fun hop => hprogram ?_, fun hop => hprogram ?_⟩⟩, fun h => herase ?_, fun h => ⟨fun hlatch => herase ?_,
    fun hlatch => ⟨fun hp => herase ?_, fun hp => ⟨fun hop => herase ?_, fun hop => herase ?_⟩⟩⟩,
    fun h => hverify (clipVerify_range hn h), fun c hc => ?_⟩
  · rw [clipProgram_eq hn hdata, hlatch]
    rfl
  · rw [clipProgram_eq hn hdata, hlatch, if_pos (isProtected_iff.2 hp)]
    rfl
  · rw [clipProgram_eq hn hdata, hlatch, if_neg (hfree hp), if_pos hop]
    rfl
  · rw [clipProgram_eq hn hdata, hlatch, if_neg (hfree hp), if_neg (not_not.2 hop)]
    rfl
  · rw [clipErase_eq hn, if_pos (Nat.succ_le_of_lt h)]
    rfl
  · rw [clipErase_eq hn, if_neg (by omega), hlatch]
    rfl
  · rw [clipErase_eq hn, if_neg (by omega), hlatch, if_pos (isProtected_iff.2 hp)]
    rfl
  · rw [clipErase_eq hn, if_neg (by omega), hlatch, if_neg (hfree hp), if_pos hop]
    rfl
  · rw [clipErase_eq hn, if_neg (by omega), hlatch, if_neg (hfree hp), if_neg (not_not.2 hop)]
    rfl
  · subst hc
    refine ⟨fun hdef => hverify ?_, fun hdef => ⟨fun hop => hverify ?_, fun hop => hverify ?_⟩⟩
    · rw [clipVerify_clip, hdef]
      rfl
    · rw [clipVerify_clip, hdef, if_pos hop]
      rfl
    · rw [clipVerify_clip, hdef, if_neg (not_not.2 hop)]
      rfl

end Sys2Proof.Machine
end

/-! SUPPORT. The completions: a fetch into its ring position, and the end of a program, an erase and a verify turn (R171, R175, R181, R191, R192, R196). -/
section
namespace Sys2Proof.Machine
open Sys2Proof.Safety

/-! ### The position a fetch was placed for (R171) -/

section
variable {r : FetchRecord}

theorem FetchRecord.fits_iff {x : RingPos} :
    r.fits x = true ↔ x.state = .outstanding ∧ x.play = r.play ∧ x.flashBlock = r.flashBlock := by
  simp only [FetchRecord.fits, Bool.and_eq_true, beq_iff_eq, and_assoc]

/-- The first position that the record fits is the one filled. -/
theorem fillPosition_append {x : RingPos} {before after : List RingPos} (y : RingState)
    (hbefore : ∀ p ∈ before, r.fits p = false) (hx : r.fits x = true) :
    fillPosition r y (before ++ x :: after) = before ++ { x with state := y } :: after := by
  induction before with
  | nil => simp only [List.nil_append, fillPosition, hx, if_true]
  | cons p before ih =>
    obtain ⟨hp, hrest⟩ := List.forall_mem_cons.1 hbefore
    simp only [List.cons_append, fillPosition, hp, Bool.false_eq_true, if_false, ih hrest]

theorem isStale_iff {s : State} : isStale s r = true ↔
    s.stream.entries[r.stream].alloc = false ∨ s.stream.entries[r.stream].generation ≠ r.generation ∨
      ∀ x ∈ s.stream.entries[r.stream].ring, r.fits x = false := by
  simp only [isStale, Bool.or_eq_true, Bool.not_eq_true', bne_iff_ne, or_assoc, List.any_eq_false,
    Bool.not_eq_true]

end

/-! ### The page a fetch reads (R174, R181) -/

theorem readPage_length (b : StoreBlock) (block : Nat) : (readPage b block).length = 514 := by
  unfold readPage
  split
  · exact List.length_replicate
  · exact Memory.readRun_length _ _ _ _

/-- A page with 0xFF bytes where an erase has started, and the stored bytes elsewhere, is the page read. -/
theorem readPage_eq {b : StoreBlock} {block : Nat} {page : List Byte} (hlen : page.length = 514)
    (h : ∀ k (hk : k < page.length), ((∃ n, b.op.erasing = some n ∧ block / 16 = n) → page[k] = 0xFF) ∧
      (¬(∃ n, b.op.erasing = some n ∧ block / 16 = n) →
        page[k] = Memory.read flashEmpty b.flash (528 * block + k))) : readPage b block = page := by
  refine List.ext_getElem (by rw [readPage_length, hlen]) fun k h1 h2 => ?_
  obtain ⟨hblank, hstored⟩ := h k h2
  by_cases he : b.op.erasing = some (block / 16)
  · rw [hblank ⟨_, he, rfl⟩]
    simp only [readPage, Config.sectorPages, he, if_true, List.getElem_replicate]
  · rw [hstored fun ⟨n, hn, hb⟩ => he (hb ▸ hn)]
    simp only [readPage, Config.sectorPages, he, if_false, Memory.readRun_get, Config.pageBytes, Nat.mul_comm block]

/-! ### The completion of a fetch (R175) -/

section
variable {r : FetchRecord} {s : State}

theorem fetchCompletion_of_fetch (h : s.store.use = .fetch r) :
    fetchCompletion s = { s.setUse .idle with stream := completeFetch s r } := by
  simp only [fetchCompletion, h]

/-- A stale result is discarded and counted. -/
theorem completeFetch_stale (h : isStale s r = true) : completeFetch s r = { s.stream with
    entries := setAt s.stream.entries r.stream
      { s.stream.entries[r.stream] with outstanding := s.stream.entries[r.stream].outstanding - 1 }
    discarded := bump s.stream.discarded } := by
  simp only [completeFetch, h, if_true]
  rfl

variable (h : isStale s r = false)
include h

theorem completeFetch_passes (hp : pagePasses (readPage s.store r.flashBlock) = true) :
    completeFetch s r = { s.stream with entries := setAt s.stream.entries r.stream { s.stream.entries[r.stream] with
      outstanding := s.stream.entries[r.stream].outstanding - 1
      ring := fillPosition r (.present ((readPage s.store r.flashBlock).take 512)) s.stream.entries[r.stream].ring } } := by
  simp only [completeFetch, h, hp, Bool.false_eq_true, if_true, if_false]
  rfl

theorem completeFetch_fails (hp : pagePasses (readPage s.store r.flashBlock) = false) :
    completeFetch s r = { s.stream with
      entries := setAt s.stream.entries r.stream { s.stream.entries[r.stream] with
        outstanding := s.stream.entries[r.stream].outstanding - 1
        ring := fillPosition r .bad s.stream.entries[r.stream].ring }
      stats := setAt s.stream.stats s.stream.entries[r.stream].aud
        { s.stream.stats[s.stream.entries[r.stream].aud] with
          checkErrors := bump s.stream.stats[s.stream.entries[r.stream].aud].checkErrors } } := by
  simp only [completeFetch, h, hp, Bool.false_eq_true, if_false]
  rfl

end

theorem pagePasses_iff {page : List Byte} : pagePasses page = true ↔ leVal (page.drop 512) = checkWord (page.take 512) :=
  beq_iff_eq

/-- Settles O50: a stale result, then a page that passes and one that fails. -/
theorem fetchCompletionFillsTheRing : Obligations.FetchCompletionFillsTheRing := by
  unfold Obligations.FetchCompletionFillsTheRing
  intro r s huse
  have hexec : ∀ {b : StreamBlock}, completeFetch s r = b → exec .fetchCompletion s =
      .next { s with store := { s.store with use := .idle }, stream := b } := fun hb => by
    rw [← hb]
    exact congrArg _ (fetchCompletion_of_fetch huse)
  refine ⟨fun hstale => hexec (completeFetch_stale (isStale_iff.2 ?_)),
    fun halloc hgen before x after hring hx hbefore page hlen hpage => ?_⟩
  · rcases hstale with h | h | h
    · exact Or.inl h
    · exact Or.inr (Or.inl h)
    · exact Or.inr (Or.inr fun y hy => Bool.eq_false_iff.2 fun e => h y hy (FetchRecord.fits_iff.1 e))
  · have hfits : r.fits x = true := FetchRecord.fits_iff.2 hx
    have hnone : ∀ y ∈ before, r.fits y = false := fun y hy =>
      Bool.eq_false_iff.2 fun e => hbefore y hy (FetchRecord.fits_iff.1 e)
    have hfresh : isStale s r = false := Bool.eq_false_iff.2 fun e => by
      rcases isStale_iff.1 e with h | h | h
      · exact Bool.noConfusion (halloc.symm.trans h)
      · exact h hgen
      · have := h x (by rw [hring]; exact List.mem_append_right _ List.mem_cons_self)
        exact Bool.noConfusion (hfits.symm.trans this)
    have hread : readPage s.store r.flashBlock = page := readPage_eq hlen hpage
    refine ⟨fun hpass => hexec ?_, fun hfail => hexec ?_⟩
    · rw [completeFetch_passes hfresh (by rw [hread]; exact pagePasses_iff.2 hpass), hread, hring,
        fillPosition_append _ hnone hfits]
    · rw [completeFetch_fails hfresh (by rw [hread]; exact Bool.eq_false_iff.2 (mt pagePasses_iff.1 hfail)), hring,
        fillPosition_append _ hnone hfits]

/-! ### The completions of maintenance (R191, R192, R196) -/

section
variable {s : State}

theorem programCompletion_ends {block check : Nat} {data : List Byte} (hr : s.link.resetTag = none)
    (h : s.store.op = .program .inFlight block data check) : programCompletion s =
      { s with
        store := s.store.done (programPage s.store.flash block data check)
        link := s.link.latchProgramDone block } := by
  simp only [programCompletion, h, hr, Option.isSome_none, Bool.false_eq_true, if_false]

theorem eraseCompletion_ends {sector : Nat} (hr : s.link.resetTag = none) (h : s.store.op = .erase .inFlight sector) :
    eraseCompletion s =
      { s with store := s.store.done (eraseSector s.store.flash sector), link := s.link.latchEraseDone sector } := by
  simp only [eraseCompletion, h, hr, Option.isSome_none, Bool.false_eq_true, if_false]

/-- While a verify turn has the flash, no sector reads as erased. -/
theorem readPage_verify {clip first length read failed : Nat} {st : OpState}
    (h : s.store.op = .verify st clip first length read failed) (block : Nat) :
    readPage s.store block = Memory.readRun flashEmpty s.store.flash (528 * block) 514 := by
  simp only [readPage, h, Maintenance.erasing, Config.pageBytes, Nat.mul_comm block, reduceCtorEq, if_false]

theorem verifyTurnCompletion_of {clip first length read failed : Nat}
    (h : s.store.op = .verify .inFlight clip first length read failed) : verifyTurnCompletion s =
      let failed' := if pagePasses (readPage s.store (first + read)) then failed else failed + 1
      if read + 1 < length then
        (s.setOp (.verify .waiting clip first length (read + 1) failed')).setUse .idle
      else { s with store := s.store.done s.store.flash, link := s.link.latchVerifyDone clip failed' } := by
  simp only [verifyTurnCompletion, h]

end

/-- Settles O51: a program, an erase and a verify turn. -/
theorem maintenanceCompletes : Obligations.MaintenanceCompletes := by
  unfold Obligations.MaintenanceCompletes
  intro s hr
  refine ⟨fun block data check hop hdata => ⟨_, congrArg _ (programCompletion_ends hr hop),
    programPage_programmed hdata _ _ _⟩, fun sector hop => ⟨_, congrArg _ (eraseCompletion_ends hr hop),
    eraseSector_erased _ _⟩, fun clip first length read failed hop => ?_⟩
  have hturn := verifyTurnCompletion_of hop
  rw [readPage_verify hop] at hturn
  simp only [pagePasses_iff] at hturn
  refine ⟨fun hmore => ?_, fun hlast => ?_⟩
  · rw [if_pos hmore] at hturn
    exact congrArg _ hturn
  · rw [if_neg (Nat.not_lt.2 hlast)] at hturn
    exact congrArg _ hturn

end Sys2Proof.Machine
end

/-! SUPPORT. The arbiter: the least of a list, the streams that wait for room, and the rounds of a grant (R169, R170, R173, R193). -/
section
namespace Sys2Proof.Machine
open Sys2Proof.Safety

/-! ### The least of a list -/

section
variable {α : Type} {m : α → Int}

theorem leastBy_eq_none {l : List α} : leastBy m l = none ↔ l = [] := by
  cases l with
  | nil => simp [leastBy]
  | cons x xs =>
    simp only [leastBy]
    split
    · simp
    · split <;> simp

theorem leastBy_mem {l : List α} {x : α} (h : leastBy m l = some x) : x ∈ l := by
  induction l generalizing x with
  | nil => simp [leastBy] at h
  | cons y ys ih =>
    simp only [leastBy] at h
    split at h
    · simp_all
    · rename_i z hz
      split at h
      · exact List.mem_cons_of_mem _ (ih (hz.trans h))
      · simp_all

/-- The element below all before it and not above any after it is the least, the earliest of equals. -/
theorem leastBy_append {before after : List α} {r : α} (hbefore : ∀ x ∈ before, m r < m x)
    (hafter : ∀ x ∈ after, m r ≤ m x) : leastBy m (before ++ r :: after) = some r := by
  induction before with
  | nil =>
    simp only [List.nil_append, leastBy]
    split
    · rfl
    · rename_i y hy
      rw [if_neg (not_lt.2 (hafter y (leastBy_mem hy)))]
  | cons x before ih =>
    obtain ⟨hx, hrest⟩ := List.forall_mem_cons.1 hbefore
    simp only [List.cons_append, leastBy, ih hrest, hx, if_true]

end

/-! ### The streams that wait for room (R169, R170) -/

section
variable {s : State} {i : StreamNo}

theorem waitingSlack_eq_some {d : Int} : waitingSlack s i = some d ↔ waitsWith s i d := by
  unfold waitingSlack waitsWith
  dsimp only
  constructor
  · intro h
    split at h
    · rename_i hroom
      simp only [Bool.and_eq_true, decide_eq_true_eq] at hroom
      split at h
      · rename_i e k x hnext hx
        exact ⟨e, k, x, hroom.1, hroom.2, hnext, hx, (Option.some.inj h).symm⟩
      · cases h
    · cases h
  · rintro ⟨e, k, x, halloc, hring, hnext, hx, rfl⟩
    rw [if_pos (Bool.and_eq_true_iff.2 ⟨halloc, decide_eq_true hring⟩)]
    simp only [hnext, hx]
    rfl

theorem waitingSlack_eq_none (h : ∀ i d, ¬waitsWith s i d) (i : StreamNo) : waitingSlack s i = none :=
  Option.eq_none_iff_forall_ne_some.2 fun d e => h i d (waitingSlack_eq_some.1 e)

/-- The slack a stream waits with is read from its entry, the clocks, titles, lead and shows. -/
theorem waitingSlack_congr {u : State} (he : u.stream.entries[i] = s.stream.entries[i]) (hc : u.clock = s.clock)
    (ht : u.titles = s.titles) (hf : u.frame = s.frame) (hsh : u.shows = s.shows) :
    waitingSlack u i = waitingSlack s i := by
  have hdesc : descAt u = descAt s := by funext a b; unfold descAt; rw [ht]
  have hair : airing u = airing s := by funext a; unfold airing lead; rw [hc, hf, hsh]
  have htrack : trackOf u = trackOf s := by
    funext a v
    simp only [trackOf, titleOf, hsh, show u.title = s.title from funext fun t => by unfold State.title; rw [ht]]
  unfold waitingSlack
  rw [he, hdesc, hair, htrack]

theorem leastWaiting_eq_none : leastWaiting s = none ↔ ∀ i, waitingSlack s i = none := by
  unfold leastWaiting
  rw [leastBy_eq_none, List.filter_eq_nil_iff]
  simp only [mem_all24, true_implies, Bool.not_eq_true, Option.isSome_eq_false_iff, Option.isNone_iff_eq_none]

theorem leastWaiting_waits (h : leastWaiting s = some i) : (waitingSlack s i).isSome = true :=
  (List.mem_filter.1 (leastBy_mem h)).2

/-- The waiting stream of least slack, the lowest of equals (R170). -/
theorem leastWaiting_eq_some {d : Int} (h : waitsWith s i d)
    (hleast : ∀ j d', waitsWith s j d' → d < d' ∨ (d = d' ∧ i ≤ j)) : leastWaiting s = some i := by
  have hi := waitingSlack_eq_some.2 h
  have hmem : i ∈ all24.filter fun j => (waitingSlack s j).isSome := List.mem_filter.2 ⟨mem_all24 i, by rw [hi]; rfl⟩
  obtain ⟨before, after, hsplit⟩ := List.append_of_mem hmem
  have hrising : (before ++ i :: after).Pairwise (· < ·) := hsplit ▸ all24_rising.filter _
  have hwaits : ∀ j, j ∈ before ∨ j ∈ after → ∃ d', waitsWith s j d' := fun j hj => by
    have hj : j ∈ all24.filter fun j => (waitingSlack s j).isSome := by rw [hsplit]; simp only [List.mem_append, List.mem_cons]; tauto
    obtain ⟨d', hd'⟩ := Option.isSome_iff_exists.1 (List.mem_filter.1 hj).2
    exact ⟨d', waitingSlack_eq_some.1 hd'⟩
  unfold leastWaiting
  rw [hsplit]
  refine leastBy_append (fun j hj => ?_) fun j hj => ?_
  · obtain ⟨d', hd'⟩ := hwaits j (Or.inl hj)
    rw [hi, waitingSlack_eq_some.2 hd', Option.getD_some, Option.getD_some]
    have hlt : j < i := (List.pairwise_append.1 hrising).2.2 j hj i List.mem_cons_self
    rcases hleast j d' hd' with hd | ⟨-, hle⟩
    · exact hd
    · exact absurd hlt (not_lt.2 hle)
  · obtain ⟨d', hd'⟩ := hwaits j (Or.inr hj)
    rw [hi, waitingSlack_eq_some.2 hd', Option.getD_some, Option.getD_some]
    rcases hleast j d' hd' with hd | ⟨hd, -⟩
    · exact le_of_lt hd
    · exact le_of_eq hd

end

/-! ### The rounds of a grant (R170) -/

/-- A fill ends at the end of its track, at a full ring or at a full pool (R169). -/
theorem fillBlocks_ends (s : State) (i : StreamNo) (x : TitleTrack) (l : List (Nat × Nat)) (b : StreamBlock) :
    (fillBlocks s i x l b).entries[i].next = none ∨ 8 ≤ (fillBlocks s i x l b).entries[i].ring.length ∨
      32 ≤ (fillBlocks s i x l b).pool.length := by
  have hself : ∀ (c : StreamBlock) next, (c.setNext i next).entries[i] = { c.entries[i] with next := next } :=
    fun c next => setAt_self _ _ _
  induction l generalizing b with
  | nil => exact Or.inl (congrArg Stream.next (hself b none))
  | cons ek rest ih =>
    obtain ⟨e, k⟩ := ek
    unfold fillBlocks
    dsimp only
    split
    · rename_i hfull
      exact Or.inr (Or.inl (by rw [hself]; exact hfull))
    · split
      · exact ih _
      · split
        · exact ih _
        · split
          · exact ih _
          · rename_i hpool
            exact Or.inr (Or.inr (Nat.le_of_not_lt hpool))

section
variable {s : State} {i : StreamNo}

theorem waitingSlack_eq_none_of_entry
    (h : s.stream.entries[i].next = none ∨ 8 ≤ s.stream.entries[i].ring.length) : waitingSlack s i = none := by
  refine Option.eq_none_iff_forall_ne_some.2 fun d hd => ?_
  obtain ⟨e, k, x, -, hring, hnext, -, -⟩ := waitingSlack_eq_some.1 hd
  rcases h with h | h
  · rw [h] at hnext
    cases hnext
  · omega

/-- A stream that waits and fills no longer waits, unless the pool is full (R170). -/
theorem fill_ends_waiting (h : (waitingSlack s i).isSome = true) :
    32 ≤ (fill i s).stream.pool.length ∨ waitingSlack (fill i s) i = none := by
  obtain ⟨d, hd⟩ := Option.isSome_iff_exists.1 h
  obtain ⟨e, k, x, halloc, hring, hnext, hx, -⟩ := waitingSlack_eq_some.1 hd
  rw [fill_of_next halloc hnext hx]
  rcases fillBlocks_ends s i x (blocksFrom s x e k) s.stream with hn | hr | hp
  · exact Or.inr (waitingSlack_eq_none_of_entry (Or.inl hn))
  · exact Or.inr (waitingSlack_eq_none_of_entry (Or.inr hr))
  · exact Or.inl hp

theorem fill_waitingSlack_other {j : StreamNo} (hj : j ≠ i) : waitingSlack (fill i s) j = waitingSlack s j := by
  obtain ⟨b, hb, hframe⟩ := fill_spec i s
  rw [hb]
  exact waitingSlack_congr (hframe.others j hj) rfl rfl rfl rfl

end

/-- How many streams wait for room. -/
def waitingCount (s : State) : Nat := all24.countP fun i => (waitingSlack s i).isSome

theorem waitingCount_le (s : State) : waitingCount s ≤ 24 := List.countP_le_length

theorem waitingCount_eq_zero {s : State} : waitingCount s = 0 ↔ ∀ i, waitingSlack s i = none := by
  unfold waitingCount
  rw [List.countP_eq_zero]
  simp only [mem_all24, true_implies, Bool.not_eq_true, Option.isSome_eq_false_iff, Option.isNone_iff_eq_none]

theorem fill_waitingCount {s : State} {i : StreamNo} (h : (waitingSlack s i).isSome = true)
    (hnone : waitingSlack (fill i s) i = none) : waitingCount (fill i s) + 1 = waitingCount s := by
  have hchange := countP_change all24_nodup (fun j => (waitingSlack s j).isSome)
    (fun j => (waitingSlack (fill i s) j).isSome) (mem_all24 i) fun j hj => by rw [fill_waitingSlack_other hj]
  rw [if_pos h, hnone] at hchange
  exact hchange

section
variable {s : State}

theorem grantRoom_full (h : 32 ≤ s.stream.pool.length) (n : Nat) : grantRoom n s = s := by
  cases n with
  | zero => rfl
  | succ n =>
    simp only [grantRoom]
    rw [if_pos h]

theorem grantRoom_idle (h : ∀ i, waitingSlack s i = none) (n : Nat) : grantRoom n s = s := by
  cases n with
  | zero => rfl
  | succ n => simp only [grantRoom, leastWaiting_eq_none.2 h, ite_self]

theorem grantRoom_round {i : StreamNo} (hpool : s.stream.pool.length < 32) (hi : leastWaiting s = some i) (n : Nat) :
    grantRoom (n + 1) s = grantRoom n (fill i s) := by
  simp only [grantRoom, hi]
  rw [if_neg (Nat.not_le.2 hpool)]

end

/-- A grant of as many rounds as streams wait fills the pool or ends all waiting (R170; log 12). -/
theorem grantRoom_ends {n : Nat} : ∀ {s : State}, waitingCount s ≤ n →
    32 ≤ (grantRoom n s).stream.pool.length ∨ ∀ i, waitingSlack (grantRoom n s) i = none := by
  induction n with
  | zero => exact fun h => Or.inr (waitingCount_eq_zero.1 (Nat.le_zero.1 h))
  | succ n ih =>
    intro s h
    by_cases hpool : 32 ≤ s.stream.pool.length
    · rw [grantRoom_full hpool]
      exact Or.inl hpool
    · cases hi : leastWaiting s with
      | none =>
        have hnone := leastWaiting_eq_none.1 hi
        rw [grantRoom_idle hnone]
        exact Or.inr hnone
      | some i =>
        rw [grantRoom_round (Nat.lt_of_not_le hpool) hi]
        have hwaits := leastWaiting_waits hi
        rcases fill_ends_waiting hwaits with hfull | hnone
        · rw [grantRoom_full hfull]
          exact Or.inl hfull
        · have := fill_waitingCount hwaits hnone
          exact ih (by omega)

/-- A grant changes the Stream Unit alone, and takes no record out of the pool (R170). -/
theorem grantRoom_spec (n : Nat) : ∀ s : State,
    ∃ b, grantRoom n s = { s with stream := b } ∧ s.stream.pool <+: b.pool := by
  induction n with
  | zero => exact fun s => ⟨s.stream, rfl, List.prefix_refl _⟩
  | succ n ih =>
    intro s
    by_cases hpool : 32 ≤ s.stream.pool.length
    · exact ⟨s.stream, grantRoom_full hpool _, List.prefix_refl _⟩
    · cases hi : leastWaiting s with
      | none => exact ⟨s.stream, grantRoom_idle (leastWaiting_eq_none.1 hi) _, List.prefix_refl _⟩
      | some i =>
        obtain ⟨b, hb, hframe⟩ := fill_spec i s
        obtain ⟨c, hc, hprefix⟩ := ih (fill i s)
        rw [grantRoom_round (Nat.lt_of_not_le hpool) hi, hc, hb]
        rw [hb] at hprefix
        exact ⟨c, rfl, hframe.pool.trans hprefix⟩

/-! ### The choice (R173) -/

theorem urgent_iff {s : State} : urgent s = true ↔ ∃ r ∈ s.stream.pool, slack s r < s.store.margin := by
  simp only [urgent, List.any_eq_true, decide_eq_true_eq]

section
variable {s : State}

theorem arbiterChoice_busy (h : s.store.use ≠ .idle) : arbiterChoice s = s := by
  unfold arbiterChoice
  rw [if_neg h]

theorem arbiterChoice_maintenance (h : s.store.use = .idle) (hm : maintenanceTurn s = true) :
    arbiterChoice s = startTurn s := by
  unfold arbiterChoice
  rw [if_pos h, if_pos hm]

theorem arbiterChoice_fetch {r : FetchRecord} (h : s.store.use = .idle) (hm : maintenanceTurn s = false)
    (hr : leastRecord s = some r) : arbiterChoice s = suspendTest (startFetch r s) := by
  simp only [arbiterChoice, h, hm, hr, if_true, Bool.false_eq_true, if_false]

theorem arbiterChoice_nothing (h : s.store.use = .idle) (hop : s.store.op = .none) (hpool : s.stream.pool = []) :
    arbiterChoice s = s := by
  have hm : maintenanceTurn s = false := by simp [maintenanceTurn, hop, Maintenance.waiting]
  have hr : leastRecord s = none := by rw [leastRecord, leastBy_eq_none, hpool]
  simp only [arbiterChoice, h, hm, hr, if_true, Bool.false_eq_true, if_false]

/-- The maintenance operation takes the flash where no record is urgent, or a RESET waits for a started one (R173, R199). -/
theorem maintenanceTurn_iff : maintenanceTurn s = true ↔
    s.store.op.waiting = true ∧ (urgent s = false ∨ s.link.resetTag ≠ none ∧ s.store.op.started = true) := by
  simp only [maintenanceTurn, Bool.and_eq_true, Bool.or_eq_true, Bool.not_eq_true', Option.isSome_iff_ne_none]

/-- The record below all before it, by slack and then by stream, and not above any after it, is chosen (R173). -/
theorem leastRecord_append {before after : List FetchRecord} {r : FetchRecord} (hpool : s.stream.pool = before ++ r :: after)
    (hbefore : ∀ q ∈ before, slack s r < slack s q ∨ slack s r = slack s q ∧ r.stream < q.stream)
    (hafter : ∀ q ∈ after, slack s r < slack s q ∨ slack s r = slack s q ∧ r.stream ≤ q.stream) :
    leastRecord s = some r := by
  unfold leastRecord
  rw [hpool]
  refine leastBy_append (fun q hq => ?_) fun q hq => ?_
  · have := hbefore q hq
    rw [Fin.lt_def] at this
    omega
  · have := hafter q hq
    rw [Fin.le_def] at this
    omega

/-- A record that stands before none of its equals is taken out of its place. -/
theorem erase_append {before after : List FetchRecord} {r : FetchRecord} (h : r ∉ before) :
    (before ++ r :: after).erase r = before ++ after := by
  rw [List.erase_append_right _ h, List.erase_cons_head]

end

/-- The grant of room after a fetch starts, where no erase is in flight (R170). -/
theorem grantRoom_granted {v : State} (hop : ∀ sector, v.store.op ≠ .erase .inFlight sector) :
    ∃ u, suspendTest (grantRoom 24 v) = u ∧ u = grantRoom 24 v ∧ u.store = v.store ∧
      v.stream.pool <+: u.stream.pool ∧ (32 ≤ u.stream.pool.length ∨ ∀ i : StreamNo, waitingSlack u i = none) ∧
      u.link = v.link ∧ u.cues = v.cues ∧ otherBlocks v u := by
  have hends := grantRoom_ends (waitingCount_le v)
  obtain ⟨b, hb, hprefix⟩ := grantRoom_spec 24 v
  rw [hb] at hends ⊢
  exact ⟨_, suspendTest_none (Or.inl hop), rfl, rfl, hprefix, hends, rfl, rfl,
    ⟨rfl, rfl, rfl, rfl, rfl, rfl, rfl, rfl, rfl, rfl⟩⟩

/-- The fetch chosen leaves the pool. -/
theorem startFetch_eq {s : State} {before after : List FetchRecord} {r : FetchRecord}
    (hpool : s.stream.pool = before ++ r :: after) (hr : r ∉ before) : startFetch r s = grantRoom 24 { s with
      store := { s.store with use := .fetch r }
      stream := { s.stream with pool := before ++ after } } := by
  rw [← erase_append hr, ← hpool]
  rfl

/-- Settles O49: the suspension test, the choice by what waits, and the rounds of a grant. -/
theorem arbiterGivesTheFlash : Obligations.ArbiterGivesTheFlash := by
  unfold Obligations.ArbiterGivesTheFlash
  refine ⟨fun s => ⟨⟨fun n hop hu hr => suspendTest_suspends hop (urgent_iff.2 hu) hr, fun h => suspendTest_none ?_⟩,
    fun huse => congrArg _ (arbiterChoice_busy huse), fun huse hlaw => ?_⟩, fun n s => ⟨fun h => ?_,
    fun hpool i d hi hleast => grantRoom_round hpool (leastWaiting_eq_some hi hleast) n⟩⟩
  · rcases h with h | h | h
    · exact Or.inl h
    · exact Or.inr (Or.inl (Bool.eq_false_iff.2 fun e => h (urgent_iff.1 e)))
    · exact Or.inr (Or.inr h)
  · have hidle : s.store.op = .none ∨ s.store.op.waiting = true := by
      have := (flashLaw_iff s).1 hlaw
      unfold StoreBlock.Agrees at this
      rw [huse] at this
      exact this
    refine ⟨fun hturn => ?_, fun hturn before r after hpool hbefore hafter => ?_⟩
    · have hstart : s.store.op ≠ .none → exec .flashArbiterChoice s = .next (startTurn s) := fun hne => by
        refine congrArg _ (arbiterChoice_maintenance huse (maintenanceTurn_iff.2 ⟨hidle.resolve_left hne, ?_⟩))
        exact hturn.imp_left fun h => Bool.eq_false_iff.2 fun e => h (urgent_iff.1 e)
      refine ⟨fun hop hpool => congrArg _ (arbiterChoice_nothing huse hop hpool), fun st b data check hop => ?_,
        fun st n hop => ?_, fun st c f l m n hop => ?_⟩
      all_goals
        rw [hstart (by rw [hop]; simp)]
        simp only [startTurn, hop]
        rfl
    · have hm : maintenanceTurn s = false := Bool.eq_false_iff.2 fun e => by
        obtain ⟨hw, ht⟩ := maintenanceTurn_iff.1 e
        rcases hturn with hop | ⟨hu, hres⟩
        · rw [hop] at hw
          exact Bool.noConfusion hw
        · rcases ht with ht | ht
          · exact Bool.noConfusion ((urgent_iff.2 hu).symm.trans ht)
          · exact hres ht
      have hop : ∀ sector, s.store.op ≠ .erase .inFlight sector := fun sector e => by
        rw [e] at hidle
        rcases hidle with h | h
        · cases h
        · exact Bool.noConfusion h
      have hnot : r ∉ before := fun hr => by
        rcases hbefore r hr with h | ⟨-, h⟩
        · exact absurd h (lt_irrefl _)
        · exact absurd h (lt_irrefl _)
      obtain ⟨u, hu, heq, hstore, hprefix, hends, hlink, hcues, htitles, hloader, hshows, hclock, hrcv, hframe, -, hdue,
        hfree, hpending⟩ := grantRoom_granted (v := { s with
          store := { s.store with use := .fetch r }
          stream := { s.stream with pool := before ++ after } }) hop
      refine ⟨u, ?_, heq, hstore, hprefix, hends, hlink, hcues,
        ⟨htitles, hloader, hshows, hclock, hrcv, hframe, rfl, hdue, hfree, hpending⟩⟩
      rw [← hu, ← startFetch_eq hpool hnot]
      exact congrArg _ (arbiterChoice_fetch huse hm (leastRecord_append hpool hbefore hafter))
  · rcases h with h | h
    · exact grantRoom_full h n
    · exact grantRoom_idle (waitingSlack_eq_none h) n

end Sys2Proof.Machine
end

/-! SUPPORT. The text of a caption, cut back to a whole character (R33). -/
section
namespace Sys2Proof.Machine
open Sys2Proof.Safety

theorem charBytes_le (b : Byte) : charBytes b ≤ 4 := by
  unfold charBytes
  dsimp only
  split
  · omega
  · split
    · omega
    · split <;> omega

/-- At most the last three bytes are cut: they stand for a character that needs a fourth. -/
theorem cutBack_le (n passed : Nat) (l : List Byte) : cutBack n passed l ≤ 3 := by
  have hshort : ∀ b p, (if p + 1 < charBytes b then p + 1 else 0) ≤ 3 := fun b p => by
    have := charBytes_le b
    split <;> omega
  induction n generalizing passed l with
  | zero =>
    cases l with
    | nil => simp [cutBack]
    | cons b bs =>
      simp only [cutBack]
      split
      · omega
      · exact hshort b passed
  | succ n ih =>
    cases l with
    | nil => simp [cutBack]
    | cons b bs =>
      simp only [cutBack]
      split
      · exact ih _ _
      · exact hshort b passed

/-- What is cut where a character's first byte stands after `j` continuation bytes, from the end. -/
theorem cutBack_of_first {n j : Nat} {l : List Byte} (hj : j ≤ n) (hlen : j < l.length)
    (hcont : ∀ k, k < j → isContinuation (l.getD k 0) = true) (hfirst : isContinuation (l.getD j 0) = false)
    (passed : Nat) :
    cutBack n passed l = if passed + j + 1 < charBytes (l.getD j 0) then passed + j + 1 else 0 := by
  induction j generalizing n passed l with
  | zero =>
    obtain ⟨b, bs, rfl⟩ := List.exists_cons_of_length_pos hlen
    rw [List.getD_cons_zero] at hfirst ⊢
    cases n <;> simp only [cutBack, hfirst, Bool.false_eq_true, if_false, Nat.add_zero]
  | succ j ih =>
    obtain ⟨b, bs, rfl⟩ := List.exists_cons_of_length_pos (Nat.lt_of_le_of_lt (Nat.zero_le _) hlen)
    obtain ⟨n, rfl⟩ : ∃ m, n = m + 1 := ⟨n - 1, by omega⟩
    have hb : isContinuation b = true := hcont 0 (Nat.succ_pos j)
    have hrest := ih (n := n) (l := bs) (by omega) (by simpa using hlen)
      (fun k hk => by simpa using hcont (k + 1) (by omega)) (by simpa using hfirst) (passed + 1)
    simp only [cutBack, hb, if_true, hrest, List.getD_cons_succ]
    rw [show passed + 1 + j + 1 = passed + (j + 1) + 1 by omega]

/-- Nothing is cut where the bytes looked at are all continuation bytes. -/
theorem cutBack_of_continuations {n : Nat} {l : List Byte} (hlen : n < l.length)
    (hcont : ∀ k, k ≤ n → isContinuation (l.getD k 0) = true) (passed : Nat) : cutBack n passed l = 0 := by
  induction n generalizing passed l with
  | zero =>
    obtain ⟨b, bs, rfl⟩ := List.exists_cons_of_length_pos hlen
    have hb : isContinuation b = true := hcont 0 (Nat.le_refl 0)
    simp only [cutBack, hb, if_true]
  | succ n ih =>
    obtain ⟨b, bs, rfl⟩ := List.exists_cons_of_length_pos (Nat.lt_of_le_of_lt (Nat.zero_le _) hlen)
    have hb : isContinuation b = true := hcont 0 (Nat.zero_le _)
    simp only [cutBack, hb, if_true]
    exact ih (by simpa using hlen) (fun k hk => by simpa using hcont (k + 1) (by omega)) (passed + 1)

/-- The bytes of a cut text, counted from its end. -/
theorem getD_reverse_take {text : List Byte} (h : 96 < text.length) {k : Nat} (hk : k < 96) :
    (text.take 96).reverse.getD k 0 = text.getD (95 - k) 0 := by
  have hlen : (text.take 96).length = 96 := by rw [List.length_take]; omega
  rw [List.getD_eq_getElem _ _ (by rw [List.length_reverse, hlen]; exact hk), List.getElem_reverse, List.getElem_take,
    List.getD_eq_getElem _ _ (by omega)]
  congr 1
  omega

/-- Settles O24: a text is cut by what stands before its 96th byte. -/
theorem cutTextEndsOnCharacter : Obligations.CutTextEndsOnCharacter := by
  unfold Obligations.CutTextEndsOnCharacter
  refine fun text => ⟨fun h => by simp only [prepareText, h, if_true], fun h => ?_⟩
  have hlen : (text.take 96).reverse.length = 96 := by rw [List.length_reverse, List.length_take]; omega
  have hle := cutBack_le 3 0 (text.take 96).reverse
  refine ⟨96 - cutBack 3 0 (text.take 96).reverse, by omega, by omega, ?_, fun j hj hcont hfirst => ?_, fun hcont => ?_⟩
  · simp only [prepareText, Nat.not_le.2 h, if_false, List.take_take]
    rw [Nat.min_eq_left (by omega)]
  · have hcut := cutBack_of_first (l := (text.take 96).reverse) hj (by omega)
      (fun k hk => by rw [getD_reverse_take h (by omega)]; exact hcont k hk)
      (by rw [getD_reverse_take h (by omega)]; exact hfirst) 0
    rw [getD_reverse_take h (by omega)] at hcut
    rw [hcut, Nat.zero_add]
    split <;> omega
  · rw [cutBack_of_continuations (by omega) (fun k hk => by rw [getD_reverse_take h (by omega)]; exact hcont k (by omega))]

end Sys2Proof.Machine
end

/-! SUPPORT. The loading requests: the entries of a body read back, the admission checks, and the release of a load (R25, R26, R31, R34, R41, R214). -/
section
namespace Sys2Proof.Machine
open Sys2Proof.Safety

/-! ### Little-endian bytes, written back -/

/-- The bytes of a value are the bytes it was read from. -/
theorem le_leVal (bs : List Byte) : le bs.length (leVal bs) = bs := by
  induction bs with
  | nil => rfl
  | cons b bs ih =>
    have hb : byte (leVal (b :: bs)) = b := BitVec.eq_of_toNat_eq (by
      have := b.isLt
      rw [byte_toNat, leVal_cons]
      omega)
    have hbs : leVal (b :: bs) / 256 = leVal bs := by
      have := b.isLt
      rw [leVal_cons]
      omega
    rw [List.length_cons, le, hb, hbs, ih]

/-! ### The entries of a LOAD.DATA body (R31, R214) -/

theorem readEntries_caption {start dur bits : Nat} {text : List Byte} (c : Nat) (rest : List Byte)
    (h : entryFits .caption (.caption start dur bits text)) :
    readEntries .caption (c + 1) (entryBytes (.caption start dur bits text) ++ rest) =
      (readEntries .caption c rest).map (.caption start dur bits text :: ·) := by
  obtain ⟨-, hstart, hdur, hbits, htext⟩ := h
  have hshape : entryBytes (.caption start dur bits text) ++ rest =
      le 3 start ++ (le 2 dur ++ (byte bits :: byte text.length :: (text ++ rest))) := by simp [entryBytes]
  have hs : field (le 3 start ++ (le 2 dur ++ (byte bits :: byte text.length :: (text ++ rest)))) 0 3 = start := by
    rw [field_zero_le]
    exact Nat.mod_eq_of_lt hstart
  have hd : field (le 3 start ++ (le 2 dur ++ (byte bits :: byte text.length :: (text ++ rest)))) 3 2 = dur := by
    have := field_append (le 3 start) (le 2 dur ++ (byte bits :: byte text.length :: (text ++ rest))) 0 2
    rw [le_length] at this
    rw [this, field_zero_le]
    exact Nat.mod_eq_of_lt hdur
  have hb : at1 (le 3 start ++ (le 2 dur ++ (byte bits :: byte text.length :: (text ++ rest)))) 5 = bits := by
    simp [le, Nat.mod_eq_of_lt hbits]
  have hl : at1 (le 3 start ++ (le 2 dur ++ (byte bits :: byte text.length :: (text ++ rest)))) 6 = text.length := by
    simp [le, Nat.mod_eq_of_lt htext]
  rw [hshape]
  simp only [readEntries, hs, hd, hb, hl]
  rw [if_neg (by simp; omega), Nat.add_comm 7]
  simp [le]

theorem readEntries_description {start dur clipBlock level : Nat} (c : Nat) (rest : List Byte)
    (h : entryFits .description (.description start dur clipBlock level)) :
    readEntries .description (c + 1) (entryBytes (.description start dur clipBlock level) ++ rest) =
      (readEntries .description c rest).map (.description start dur clipBlock level :: ·) := by
  obtain ⟨-, hstart, hdur, hclip, hlevel⟩ := h
  have hshape : entryBytes (.description start dur clipBlock level) ++ rest =
      le 3 start ++ (le 2 dur ++ (le 3 clipBlock ++ (byte level :: rest))) := by simp [entryBytes]
  have hs : field (le 3 start ++ (le 2 dur ++ (le 3 clipBlock ++ (byte level :: rest)))) 0 3 = start := by
    rw [field_zero_le]
    exact Nat.mod_eq_of_lt hstart
  have hd : field (le 3 start ++ (le 2 dur ++ (le 3 clipBlock ++ (byte level :: rest)))) 3 2 = dur := by
    have := field_append (le 3 start) (le 2 dur ++ (le 3 clipBlock ++ (byte level :: rest))) 0 2
    rw [le_length] at this
    rw [this, field_zero_le]
    exact Nat.mod_eq_of_lt hdur
  have hc : field (le 3 start ++ (le 2 dur ++ (le 3 clipBlock ++ (byte level :: rest)))) 5 3 = clipBlock := by
    have := field_append (le 3 start ++ le 2 dur) (le 3 clipBlock ++ (byte level :: rest)) 0 3
    rw [List.length_append, le_length, le_length, List.append_assoc] at this
    rw [this, field_zero_le]
    exact Nat.mod_eq_of_lt hclip
  have hl : at1 (le 3 start ++ (le 2 dur ++ (le 3 clipBlock ++ (byte level :: rest)))) 8 = level := by
    simp [le, Nat.mod_eq_of_lt hlevel]
  rw [hshape]
  simp only [readEntries, hs, hd, hc, hl]
  rw [if_neg (by simp; omega)]
  simp [le]

/-- Entries laid out for a track are read back (R31). -/
theorem readEntries_entryBytes {k : TrackKind} {es : List RawEntry} (h : ∀ e ∈ es, entryFits k e) :
    readEntries k es.length (es.flatMap entryBytes) = some es := by
  induction es with
  | nil => rfl
  | cons e es ih =>
    obtain ⟨he, hes⟩ := List.forall_mem_cons.1 h
    rw [List.flatMap_cons, List.length_cons]
    cases e with
    | caption start dur bits text =>
      obtain rfl : k = .caption := he.1
      rw [readEntries_caption _ _ he, ih hes]
      rfl
    | description start dur clipBlock level =>
      obtain rfl : k = .description := he.1
      rw [readEntries_description _ _ he, ih hes]
      rfl

theorem le_field {bs : List Byte} {i k : Nat} (h : i + k ≤ bs.length) : le k (field bs i k) = (bs.drop i).take k := by
  have := le_leVal ((bs.drop i).take k)
  rwa [show ((bs.drop i).take k).length = k by simp; omega] at this

theorem byte_at1 {bs : List Byte} {i : Nat} (h : i < bs.length) : [byte (at1 bs i)] = (bs.drop i).take 1 :=
  le_field (k := 1) h

theorem field_lt (bs : List Byte) (i k : Nat) : field bs i k < 256 ^ k :=
  (leVal_lt _).trans_le (Nat.pow_le_pow_right (by decide) (by simp))

/-- The caption entry at the front of a body is its bytes (R214). -/
theorem entryBytes_front_caption {bs : List Byte} (h : 7 + at1 bs 6 ≤ bs.length) :
    entryFits .caption (.caption (field bs 0 3) (field bs 3 2) (at1 bs 5) ((bs.drop 7).take (at1 bs 6))) ∧
      entryBytes (.caption (field bs 0 3) (field bs 3 2) (at1 bs 5) ((bs.drop 7).take (at1 bs 6))) =
        bs.take (7 + at1 bs 6) := by
  have htext : ((bs.drop 7).take (at1 bs 6)).length = at1 bs 6 := by simp; omega
  refine ⟨⟨rfl, field_lt bs 0 3, field_lt bs 3 2, at1_lt bs 5, by rw [htext]; exact at1_lt bs 6⟩, ?_⟩
  simp only [entryBytes, htext]
  rw [le_field (by omega), le_field (by omega),
    show [byte (at1 bs 5), byte (at1 bs 6)] = [byte (at1 bs 5)] ++ [byte (at1 bs 6)] from rfl, byte_at1 (by omega),
    byte_at1 (by omega), show 7 + at1 bs 6 = 3 + 2 + 1 + 1 + at1 bs 6 by omega]
  simp only [List.take_add, List.drop_zero, List.append_assoc]

/-- The description entry at the front of a body is its bytes (R214). -/
theorem entryBytes_front_description {bs : List Byte} (h : 9 ≤ bs.length) :
    entryFits .description (.description (field bs 0 3) (field bs 3 2) (field bs 5 3) (at1 bs 8)) ∧
      entryBytes (.description (field bs 0 3) (field bs 3 2) (field bs 5 3) (at1 bs 8)) = bs.take 9 := by
  refine ⟨⟨rfl, field_lt bs 0 3, field_lt bs 3 2, field_lt bs 5 3, at1_lt bs 8⟩, ?_⟩
  simp only [entryBytes]
  rw [le_field (by omega), le_field (by omega), le_field (by omega), byte_at1 (by omega),
    show 9 = 3 + 2 + 3 + 1 from rfl]
  simp only [List.take_add, List.drop_zero, List.append_assoc]

/-- What is read from a body is laid out in it, item by item (R31). -/
theorem readEntries_some {k : TrackKind} {c : Nat} {bs : List Byte} {es : List RawEntry} (h : readEntries k c bs = some es) :
    es.length = c ∧ (∀ e ∈ es, entryFits k e) ∧ bs = es.flatMap entryBytes := by
  induction c generalizing bs es with
  | zero =>
    unfold readEntries at h
    split at h
    · rename_i hbs
      cases h
      exact ⟨rfl, by simp, hbs⟩
    · cases h
  | succ c ih =>
    unfold readEntries at h
    cases k with
    | caption =>
      dsimp only at h
      split at h
      · cases h
      · rename_i hlen
        obtain ⟨rest, hrest, rfl⟩ := Option.map_eq_some_iff.1 h
        obtain ⟨hcount, hfits, hbytes⟩ := ih hrest
        obtain ⟨hfit, hfront⟩ := entryBytes_front_caption (Nat.le_of_not_lt hlen)
        exact ⟨by simp [hcount], List.forall_mem_cons.2 ⟨hfit, hfits⟩,
          by rw [List.flatMap_cons, hfront, ← hbytes, List.take_append_drop]⟩
    | description =>
      dsimp only at h
      split at h
      · cases h
      · rename_i hlen
        obtain ⟨rest, hrest, rfl⟩ := Option.map_eq_some_iff.1 h
        obtain ⟨hcount, hfits, hbytes⟩ := ih hrest
        obtain ⟨hfit, hfront⟩ := entryBytes_front_description (Nat.le_of_not_lt hlen)
        exact ⟨by simp [hcount], List.forall_mem_cons.2 ⟨hfit, hfits⟩,
          by rw [List.flatMap_cons, hfront, ← hbytes, List.take_append_drop]⟩

end Sys2Proof.Machine
end

/-! SUPPORT. The admission of a loading request and the release of a load (R25, R26, R31, R34, R41). -/
section
namespace Sys2Proof.Machine
open Sys2Proof.Safety

/-! ### Loading ports and admission (R25, R26) -/

/-- The loading kinds are valid on every loading port (R205). -/
theorem validKind_load {p : Port} {q : LoadPort} (hp : loadPort p = some q) {k : Byte} (hlo : 6 ≤ k.toNat)
    (hhi : k.toNat ≤ 10) : validKind p k = true := by
  cases p with
  | feed n => simp [validKind]; omega
  | air n => cases hp
  | m => simp [validKind]; omega

theorem admitLoad_range {p : Port} {h : Nat} {state : TitleState → Bool} {s : State} (hh : h = 0 ∨ 24 < h) :
    admitLoad p true h state s = .error .range := by
  simp [admitLoad, titleOfHandle_none hh]

section
variable {p : Port} {t : TitleNo} {state : TitleState → Bool} {s : State}

theorem admitLoad_free (h : (s.title t).state = .free) : admitLoad p true (handle t) state s = .error .wrongState := by
  simp [admitLoad, h]

theorem admitLoad_notOwner (h : (s.title t).state ≠ .free) (hp : (s.title t).loader ≠ loadPort p) :
    admitLoad p true (handle t) state s = .error .notOwner := by
  simp [admitLoad, h, hp]

theorem admitLoad_wrongState (hp : (s.title t).loader = loadPort p) (h : state (s.title t).state = false) :
    admitLoad p true (handle t) state s = .error .wrongState := by
  simp [admitLoad, hp, h]

theorem admitLoad_admits (h : (s.title t).state ≠ .free) (hp : (s.title t).loader = loadPort p)
    (hs : state (s.title t).state = true) : admitLoad p true (handle t) state s = .ok t := by
  simp [admitLoad, h, hp, hs]

end

/-! ### The entries a LOAD.DATA carries (R31) -/

section
variable {s : State}

theorem dataEntries_short {body : List Byte} (h : body.length < 3) : dataEntries body s = none := by
  simp [dataEntries, h]

variable {h tn count : Byte} {rest : List Byte}

theorem dataEntries_noTitle (hh : h = 0 ∨ 24 < h.toNat) : dataEntries ([h, tn, count] ++ rest) s = some [] := by
  have hnone : titleOfHandle h.toNat = none := titleOfHandle_none (hh.imp_left fun e => by rw [e]; rfl)
  simp [dataEntries, hnone]

variable {t : TitleNo}

theorem dataEntries_free (hfree : (s.title t).state = .free) :
    dataEntries ([byte (t.val + 1), tn, count] ++ rest) s = some [] := by
  simp [dataEntries, hfree]

theorem dataEntries_noTrack (hfree : (s.title t).state ≠ .free) (htn : (s.title t).tracks.length ≤ tn.toNat) :
    dataEntries ([byte (t.val + 1), tn, count] ++ rest) s = some [] := by
  simp [dataEntries, hfree, htn]

theorem dataEntries_track {tr : Track} (hfree : (s.title t).state ≠ .free)
    (htr : (s.title t).tracks[tn.toNat]? = some tr) :
    dataEntries ([byte (t.val + 1), tn, count] ++ rest) s = readEntries tr.kind count.toNat rest := by
  simp [dataEntries, hfree, htr]

end

/-! ### LOAD.DATA (R31, R34) -/

section
variable {p : Port} {q : LoadPort} {tag : Byte} {t : TitleNo} {s : State}

theorem loadData_error {r : Req} {c : Code}
    (h : admitLoad r.port (dataEntries r.body s).isSome (at1 r.body 0) (· == .loading) s = .error c) :
    loadData r s = refuse c s := by
  simp only [loadData, h]

/-- A LOAD.DATA whose entries do not add up is refused first (R26). -/
theorem loadData_badLength {body : List Byte} (h : dataEntries body s = none) :
    loadData ⟨p, tag, body⟩ s = refuse .badLength s :=
  loadData_error (by rw [h]; rfl)

/-- A taken LOAD.DATA, by its track number and entry count (R31). -/
theorem loadData_taken {body : List Byte} {es : List RawEntry} (hp : loadPort p = some q)
    (hstate : (s.title t).state = .loading) (hloader : (s.title t).loader = some q) (h0 : at1 body 0 = handle t)
    (hes : dataEntries body s = some es) : loadData ⟨p, tag, body⟩ s =
      if (s.title t).tracks.length ≤ at1 body 1 then (failLoad t .range (touchTitle t s), Reply.of .range)
      else if 16 < at1 body 2 then refuse .range (touchTitle t s)
      else appendEntries t (at1 body 1) es false (touchTitle t s) := by
  have hadmit : admitLoad p true (handle t) (· == .loading) s = .ok t :=
    admitLoad_admits (by rw [hstate]; simp) (by rw [hloader, hp]) (by rw [hstate]; rfl)
  simp only [loadData, h0, hes, Option.isSome_some, hadmit, Option.getD_some]

/-- A taken LOAD.DATA of at most 16 entries for a track of the title takes them in order (R31). -/
theorem loadData_takes {tn : TrackNo} {tr : Track} {es : List RawEntry} (hp : loadPort p = some q)
    (hstate : (s.title t).state = .loading) (hloader : (s.title t).loader = some q)
    (htr : (s.title t).tracks[tn.val]? = some tr) (hes : ∀ e ∈ es, entryFits tr.kind e) (hcount : es.length ≤ 16) :
    loadData ⟨p, tag, [byte (t.val + 1), byte tn.val, byte es.length] ++ es.flatMap entryBytes⟩ s =
      appendEntries t tn.val es false (touchTitle t s) := by
  have htn : (byte tn.val).toNat = tn.val := by rw [byte_toNat]; omega
  have hlen : (byte es.length).toNat = es.length := by rw [byte_toNat]; omega
  have hread : dataEntries ([byte (t.val + 1), byte tn.val, byte es.length] ++ es.flatMap entryBytes) s = some es := by
    rw [dataEntries_track (tr := tr) (by rw [hstate]; simp) (by rw [htn]; exact htr), hlen, readEntries_entryBytes hes]
  have h0 : at1 ([byte (t.val + 1), byte tn.val, byte es.length] ++ es.flatMap entryBytes) 0 = handle t := by
    rw [List.cons_append, at1_cons_zero, byte_handle]
  have h1 : at1 ([byte (t.val + 1), byte tn.val, byte es.length] ++ es.flatMap entryBytes) 1 = tn.val := by
    rw [List.cons_append, List.cons_append, at1_cons_succ, at1_cons_zero, htn]
  have h2 : at1 ([byte (t.val + 1), byte tn.val, byte es.length] ++ es.flatMap entryBytes) 2 = es.length := by
    rw [List.cons_append, List.cons_append, List.cons_append, at1_cons_succ, at1_cons_succ, at1_cons_zero, hlen]
  have hin : tn.val < (s.title t).tracks.length := (List.getElem?_eq_some_iff.1 htr).1
  rw [loadData_taken hp hstate hloader h0 hread, h1, h2, if_neg (by omega), if_neg (by omega)]

theorem exec_loadData {body : List Byte} {u : State} {x : Reply} (hp : loadPort p = some q) (ho : s.owing p = false)
    (hlen : body.length ≤ 1024) (h : loadData ⟨p, tag, body⟩ s = (u, x)) :
    exec (.loadData ⟨p, tag, body⟩) s = .next (answer p 7 tag x u) :=
  exec_answer_of rfl (by decide) (by simp [Instr.wellFormed, Req.bodyFits, Config.maxRequestBody, hlen]) ho
    (validKind_load hp (by decide) (by decide)) h

/-- The bytes of one entry fit a body with its header. -/
theorem entryBytes_length {k : TrackKind} {e : RawEntry} (h : entryFits k e) : (entryBytes e).length ≤ 262 := by
  cases e with
  | caption start dur bits text =>
    obtain ⟨-, -, -, -, htext⟩ := h
    simp [entryBytes]
    omega
  | description start dur clipBlock level => simp [entryBytes]

end

/-! ### The release of a load (R2, R25, R41) -/

section
variable {s : State} {t : TitleNo} {q : LoadPort}

theorem touchTitle_self : (touchTitle t s).title t = { s.title t with lastActivity := s.clock.h } := setAt_self _ _ _

/-- A load that its context names is released: the record FREE, the region back, the context closed. -/
theorem freeTitle_loaded (hloader : (s.title t).loader = some q)
    (hctx : s.loader.ctx[q] = .loading t ∨ s.loader.ctx[q] = .finishing t) : s.freeTitle t = loadReleased s t q := by
  have hclosed : s.loader.ctx[q].closeFor t = .closed := by rcases hctx with h | h <;> simp [h, LoadContext.closeFor]
  have hclose : s.closeLoad t = { s with loader := { s.loader with ctx := setAt s.loader.ctx q .closed } } := by
    simp only [State.closeLoad, hloader, modAt, hclosed]
  simp only [State.freeTitle, hclose, loadReleased]

theorem failLoad_loaded (hloader : (s.title t).loader = some q)
    (hctx : s.loader.ctx[q] = .loading t ∨ s.loader.ctx[q] = .finishing t) (reason : FailReason) :
    failLoad t reason s = loadFailed s t q reason := by
  simp only [failLoad, hloader, freeTitle_loaded hloader hctx]
  rfl

/-- A load that fails after its last activity is set fails as it would have before. -/
theorem failLoad_touched (hloader : (s.title t).loader = some q) (hctx : s.loader.ctx[q] = .loading t)
    (reason : FailReason) : failLoad t reason (touchTitle t s) = loadFailed s t q reason := by
  rw [failLoad_loaded (s := touchTitle t s) (q := q) (by rw [touchTitle_self]; exact hloader) (Or.inl hctx)]
  simp only [loadFailed, loadReleased, touchTitle_self]
  simp only [touchTitle, State.setTitle, setAt_twice]

end

/-! ### One entry (R32) -/

section
variable {s : State} {t : TitleNo} {tn : TrackNo} {tr : Track} {e : RawEntry}
variable (htr : (s.title t).tracks[tn.val]? = some tr)
include htr

theorem appendEntry_full (h : tr.nDecl ≤ tr.n) : appendEntry t tn.val e s = .error .overflow := by
  simp only [appendEntry, htr, h, if_true]

variable (hroom : tr.n < tr.nDecl)
include hroom

theorem appendEntry_range (h : e.inRange = false) : appendEntry t tn.val e s = .error .range := by
  simp only [appendEntry, htr, Nat.not_le.2 hroom, h, if_false, Bool.not_false, if_true]

variable (hrange : e.inRange = true)
include hrange

theorem appendEntry_order (h1 : 1 ≤ tr.n) (h2 : e.start < entryStart s.titles.cue (s.title t) tr (tr.n - 1)) :
    appendEntry t tn.val e s = .error .order := by
  simp [appendEntry, htr, Nat.not_le.2 hroom, hrange, h1, h2]

omit hrange in
theorem appendEntry_caption {start dur bits : Nat} {raw : List Byte} (hbits : bits < 4)
    (horder : 1 ≤ tr.n → entryStart s.titles.cue (s.title t) tr (tr.n - 1) ≤ start) :
    appendEntry t tn.val (.caption start dur bits raw) s =
      if (s.title t).textBytes < (s.title t).fill + (prepareText raw).1.length then .error .overflow
      else .ok (storeEntry t tn.val { s.title t with fill := (s.title t).fill + (prepareText raw).1.length } tr start
        (⟨start, dur, bit bits 0, bit bits 1, (s.title t).fill, (prepareText raw).1.length⟩ : CaptionEntry).bytes
        (placeText (s.title t) (prepareText raw).1 s), (prepareText raw).2) := by
  have hinOrder : ¬(decide (1 ≤ tr.n) && decide
      ((RawEntry.caption start dur bits raw).start < entryStart s.titles.cue (s.title t) tr (tr.n - 1))) = true := by
    simp only [Bool.and_eq_true, decide_eq_true_eq, not_and, not_lt]
    exact horder
  have hrange : RawEntry.inRange (.caption start dur bits raw) = true := decide_eq_true hbits
  simp only [appendEntry, htr, Nat.not_le.2 hroom, hrange, if_false, Bool.not_true, Bool.false_eq_true, hinOrder]

omit hrange in
theorem appendEntry_description {start dur clipBlock level : Nat} (hlevel : level ≤ 15)
    (hclip : clipBlock / 1024 % 4 = 0)
    (horder : 1 ≤ tr.n → entryStart s.titles.cue (s.title t) tr (tr.n - 1) ≤ start) :
    appendEntry t tn.val (.description start dur clipBlock level) s =
      .ok (storeEntry t tn.val (s.title t) tr start
        (⟨start, dur, clipOf clipBlock, blockOf clipBlock, level⟩ : DescEntry).bytes s, false) := by
  have hinOrder : ¬(decide (1 ≤ tr.n) && decide
      ((RawEntry.description start dur clipBlock level).start <
        entryStart s.titles.cue (s.title t) tr (tr.n - 1))) = true := by
    simp only [Bool.and_eq_true, decide_eq_true_eq, not_and, not_lt]
    exact horder
  have hrange : RawEntry.inRange (.description start dur clipBlock level) = true :=
    Bool.and_eq_true_iff.2 ⟨decide_eq_true hlevel, beq_iff_eq.2 hclip⟩
  simp only [appendEntry, htr, Nat.not_le.2 hroom, hrange, if_false, Bool.not_true, Bool.false_eq_true, hinOrder]

end

end Sys2Proof.Machine
end

/-! SUPPORT. How loads fail, finish and end, and how a title is unloaded (R22, R31 to R43). -/
section
namespace Sys2Proof.Machine
open Sys2Proof.Safety

/-! ### A LOAD.DATA of one entry (R31, R32) -/

section
variable {p : Port} {q : LoadPort} {tag : Byte} {t : TitleNo} {tn : TrackNo} {tr : Track} {e : RawEntry} {s : State}
variable (hp : loadPort p = some q) (hstate : (s.title t).state = .loading) (hloader : (s.title t).loader = some q)
variable (htr : (s.title t).tracks[tn.val]? = some tr)
include hp hstate hloader htr

theorem loadData_one (hfits : entryFits tr.kind e) :
    loadData ⟨p, tag, [byte (t.val + 1), byte tn.val, 1] ++ entryBytes e⟩ s =
      appendEntries t tn.val [e] false (touchTitle t s) := by
  have := loadData_takes (tag := tag) (es := [e]) hp hstate hloader htr (by simpa using hfits) (by simp)
  rwa [List.flatMap_singleton] at this

theorem exec_loadData_one (hfits : entryFits tr.kind e) (ho : s.owing p = false) {u : State} {x : Reply}
    (h : appendEntries t tn.val [e] false (touchTitle t s) = (u, x)) :
    exec (.loadData ⟨p, tag, [byte (t.val + 1), byte tn.val, 1] ++ entryBytes e⟩) s = .next (answer p 7 tag x u) := by
  have hlen := entryBytes_length hfits
  refine exec_loadData hp ho (by rw [List.length_append]; simp; omega) ?_
  rw [loadData_one hp hstate hloader htr hfits, h]

/-- An entry that fails ends the load with its reason (R34, R41). -/
theorem exec_loadData_fails (hfits : entryFits tr.kind e) (ho : s.owing p = false) (hctx : s.loader.ctx[q] = .loading t)
    {reason : FailReason} (h : appendEntry t tn.val e (touchTitle t s) = .error reason) :
    exec (.loadData ⟨p, tag, [byte (t.val + 1), byte tn.val, 1] ++ entryBytes e⟩) s =
      .next (answer p 7 tag (Reply.of reason.code) (loadFailed s t q reason)) := by
  refine exec_loadData_one hp hstate hloader htr hfits ho ?_
  simp only [appendEntries, h, failLoad_touched hloader hctx]

end

/-- A track number that the title does not have fails the load (R31). -/
theorem loadData_noTrack {p : Port} {q : LoadPort} {tag tn count : Byte} {t : TitleNo} {rest : List Byte} {s : State}
    (hp : loadPort p = some q) (hstate : (s.title t).state = .loading) (hloader : (s.title t).loader = some q)
    (hctx : s.loader.ctx[q] = .loading t) (htn : (s.title t).tracks.length ≤ tn.toNat) :
    loadData ⟨p, tag, [byte (t.val + 1), tn, count] ++ rest⟩ s = (loadFailed s t q .range, Reply.of .range) := by
  rw [loadData_taken hp hstate hloader (by rw [List.cons_append, at1_cons_zero, byte_handle])
    (dataEntries_noTrack (by rw [hstate]; simp) htn),
    show at1 ([byte (t.val + 1), tn, count] ++ rest) 1 = tn.toNat by simp, if_pos htn, failLoad_touched hloader hctx]

/-- Settles O27: a bad track number, the steps of R32 for one entry, and the idle time. -/
theorem loadFailsWithReason : Obligations.LoadFailsWithReason := by
  unfold Obligations.LoadFailsWithReason
  intro p q tag t s hp hloader ti hstate hctx
  refine ⟨fun ho => ⟨fun tn count rest htn hrest => ?_, fun tn tr e htr hfits => ?_⟩, fun hdue hidle => ?_⟩
  · exact exec_loadData hp ho (by simp; omega) (loadData_noTrack hp hstate hloader hctx htn)
  · have hfails := fun {reason : FailReason} => exec_loadData_fails (tag := tag) (reason := reason) hp hstate hloader htr
      hfits ho hctx
    have htr' : ((touchTitle t s).title t).tracks[tn.val]? = some tr := by rw [touchTitle_self]; exact htr
    have hstart : entryStart (touchTitle t s).titles.cue ((touchTitle t s).title t) tr (tr.n - 1) =
        entryStart s.titles.cue (s.title t) tr (tr.n - 1) := by
      rw [touchTitle_self]
      rfl
    refine ⟨fun hfull => hfails (appendEntry_full htr' hfull), fun hroom => ⟨fun hrange => ?_, fun hrange =>
      ⟨fun h1 h2 => ?_, fun horder start dur bits text he htext => ?_⟩⟩⟩
    · refine hfails (appendEntry_range htr' hroom (Bool.eq_false_iff.2 fun h => hrange ?_))
      cases e <;> simpa [RawEntry.inRange] using h
    · refine hfails (appendEntry_order htr' hroom ?_ h1 (by rw [hstart]; exact h2))
      cases e <;> simpa [RawEntry.inRange] using hrange
    · subst he
      refine hfails ?_
      rw [appendEntry_caption htr' hroom hrange (by rw [hstart]; exact horder), if_pos]
      rw [touchTitle_self]
      exact htext
  · have hexpired : idleExpired s t = true := by
      simp only [idleExpired, Bool.and_eq_true, beq_iff_eq, decide_eq_true_eq]
      exact ⟨hstate, hidle⟩
    have hfails : loadIdleTimeout t s = loadFailed s t q .timeout := by
      simp only [loadIdleTimeout, hdue, hexpired, Bool.and_self, if_true, failLoad_loaded hloader (Or.inl hctx)]
    exact congrArg Host.Outcome.next hfails

/-! ### LOAD.FINISH and LOAD.ABORT (R35, R40) -/

section
variable {p : Port} {q : LoadPort} {tag : Byte} {t : TitleNo} {s : State}

theorem loadFinish_error {h : Byte} {c : Code} (he : admitLoad p true h.toNat (· == .loading) s = .error c) :
    loadFinish ⟨p, tag, [h]⟩ s = refuse c s := by
  simp [loadFinish, he]

theorem loadAbort_error {h : Byte} {c : Code}
    (he : admitLoad p true h.toNat (fun x => x == .loading || x == .finishing) s = .error c) :
    loadAbort ⟨p, tag, [h]⟩ s = refuse c s := by
  simp [loadAbort, he]

theorem loadFinish_taken (hp : loadPort p = some q) (hstate : (s.title t).state = .loading)
    (hloader : (s.title t).loader = some q) : loadFinish ⟨p, tag, [byte (t.val + 1)]⟩ s =
      ({ s with
        titles := { s.titles with
          recs := setAt s.titles.recs t { s.title t with state := .finishing, lastActivity := s.clock.h } }
        loader := { s.loader with ctx := setAt s.loader.ctx q (.finishing t) } }, Reply.of .accepted) := by
  have hadmit : admitLoad p true (byte (t.val + 1)).toNat (· == .loading) s = .ok t := by
    rw [byte_handle]
    exact admitLoad_admits (by rw [hstate]; simp) (by rw [hloader, hp]) (by rw [hstate]; rfl)
  simp only [loadFinish, List.length_singleton, decide_true, at1_cons_zero, hadmit, hloader, touchTitle_self]
  simp only [touchTitle, State.setTitle, setAt_twice]

theorem loadAbort_taken (hp : loadPort p = some q) (hloader : (s.title t).loader = some q)
    (h : ((s.title t).state = .loading ∧ s.loader.ctx[q] = .loading t) ∨
      ((s.title t).state = .finishing ∧ s.loader.ctx[q] = .finishing t)) :
    loadAbort ⟨p, tag, [byte (t.val + 1)]⟩ s = (loadReleased s t q, Reply.ok) := by
  have hadmit : admitLoad p true (byte (t.val + 1)).toNat (fun x => x == .loading || x == .finishing) s = .ok t := by
    rw [byte_handle]
    rcases h with ⟨h, -⟩ | ⟨h, -⟩
    · exact admitLoad_admits (by rw [h]; simp) (by rw [hloader, hp]) (by rw [h]; rfl)
    · exact admitLoad_admits (by rw [h]; simp) (by rw [hloader, hp]) (by rw [h]; rfl)
  simp only [loadAbort, List.length_singleton, decide_true, at1_cons_zero, hadmit,
    freeTitle_loaded hloader (h.imp And.right And.right)]

theorem loadData_header {h : Byte} {c : Code} {es : List RawEntry} (hes : dataEntries [h, 0, 0] s = some es)
    (he : admitLoad p true h.toNat (· == .loading) s = .error c) : loadData ⟨p, tag, [h, 0, 0]⟩ s = refuse c s :=
  loadData_error (by rw [hes]; simpa using he)

/-- A header alone always adds up (R31). -/
theorem dataEntries_header (t : TitleNo) (s : State) : dataEntries [byte (t.val + 1), 0, 0] s = some [] := by
  by_cases hfree : (s.title t).state = .free
  · exact dataEntries_free (rest := []) hfree
  · cases htr : (s.title t).tracks[(0 : Byte).toNat]? with
    | none => exact dataEntries_noTrack (rest := []) hfree (List.getElem?_eq_none_iff.1 htr)
    | some tr =>
      have := dataEntries_track (count := 0) (rest := []) hfree htr
      rw [List.append_nil] at this
      rw [this]
      rfl

end

/-- Settles O28: the refusals of R26 in order, then what a taken request does. -/
theorem loadFinishAndAbort : Obligations.LoadFinishAndAbort := by
  unfold Obligations.LoadFinishAndAbort
  intro p q tag s hp ho
  have hdata : ∀ {h : Byte} {u : State} {x : Reply}, loadData ⟨p, tag, [h, 0, 0]⟩ s = (u, x) →
      exec (.loadData ⟨p, tag, [h, 0, 0]⟩) s = .next (answer p 7 tag x u) :=
    fun h => exec_loadData hp ho (by simp) h
  have hfinish : ∀ {h : Byte} {u : State} {x : Reply}, loadFinish ⟨p, tag, [h]⟩ s = (u, x) →
      exec (.loadFinish ⟨p, tag, [h]⟩) s = .next (answer p 8 tag x u) :=
    fun h => exec_answer_of rfl (by decide) rfl ho (validKind_load hp (by decide) (by decide)) h
  have habort : ∀ {h : Byte} {u : State} {x : Reply}, loadAbort ⟨p, tag, [h]⟩ s = (u, x) →
      exec (.loadAbort ⟨p, tag, [h]⟩) s = .next (answer p 9 tag x u) :=
    fun h => exec_answer_of rfl (by decide) rfl ho (validKind_load hp (by decide) (by decide)) h
  refine ⟨fun body hlen => exec_loadData hp ho (by omega) (loadData_badLength (dataEntries_short hlen)), fun h hh => ?_,
    fun t => ?_⟩
  · have hrange : ∀ state, admitLoad p true h.toNat state s = .error .range := fun state =>
      admitLoad_range (hh.imp_left fun e => by rw [e]; rfl)
    exact ⟨hdata (loadData_header (dataEntries_noTitle (rest := []) hh) (hrange _)),
      hfinish (loadFinish_error (hrange _)), habort (loadAbort_error (hrange _))⟩
  · have hheader := dataEntries_header t s
    refine ⟨fun hfree => ?_, fun tn tr count rest hfree htr hrest => ⟨fun hnot => ?_, fun hadds hcount hstate hloader => ?_⟩,
      fun hfree hloader => ?_, fun hloader => ⟨fun hstate => ?_, fun hstate => ?_, fun hstate => ?_, fun h => ?_⟩⟩
    · have he : ∀ state, admitLoad p true (byte (t.val + 1)).toNat state s = .error .wrongState := fun state => by
        rw [byte_handle]
        exact admitLoad_free hfree
      exact ⟨hdata (loadData_header hheader (he _)), hfinish (loadFinish_error (he _)), habort (loadAbort_error (he _))⟩
    · have htn : (byte tn.val).toNat = tn.val := by rw [byte_toNat]; omega
      refine exec_loadData hp ho (by simp; omega) (loadData_badLength ?_)
      rw [dataEntries_track hfree (by rw [htn]; exact htr)]
      refine Option.eq_none_iff_forall_ne_some.2 fun es hes => hnot ⟨es, readEntries_some hes⟩
    · have htn : (byte tn.val).toNat = tn.val := by rw [byte_toNat]; omega
      obtain ⟨es, hlen, hfits, rfl⟩ := hadds
      have hin : tn.val < (s.title t).tracks.length := (List.getElem?_eq_some_iff.1 htr).1
      refine exec_loadData hp ho (by simp only [List.length_append, List.length_cons, List.length_nil]; omega) ?_
      rw [loadData_taken hp hstate hloader (by rw [List.cons_append, at1_cons_zero, byte_handle])
        (by rw [dataEntries_track hfree (by rw [htn]; exact htr), ← hlen, readEntries_entryBytes hfits]),
        if_neg (by simp; omega), if_pos (by simpa using hcount)]
      rfl
    · have he : ∀ state, admitLoad p true (byte (t.val + 1)).toNat state s = .error .notOwner := fun state => by
        rw [byte_handle]
        exact admitLoad_notOwner hfree (by rw [hp]; exact hloader)
      exact ⟨hdata (loadData_header hheader (he _)), hfinish (loadFinish_error (he _)), habort (loadAbort_error (he _))⟩
    · have he : admitLoad p true (byte (t.val + 1)).toNat (· == .loading) s = .error .wrongState := by
        rw [byte_handle]
        exact admitLoad_wrongState (by rw [hloader, hp]) (by rw [hstate]; rfl)
      exact ⟨hdata (loadData_header hheader he), hfinish (loadFinish_error he)⟩
    · have he : ∀ state : TitleState → Bool, state .ready = false →
          admitLoad p true (byte (t.val + 1)).toNat state s = .error .wrongState := fun state h => by
        rw [byte_handle]
        exact admitLoad_wrongState (by rw [hloader, hp]) (by rw [hstate]; exact h)
      exact ⟨hdata (loadData_header hheader (he _ rfl)), hfinish (loadFinish_error (he _ rfl)),
        habort (loadAbort_error (he _ rfl))⟩
    · exact hfinish (loadFinish_taken hp hstate hloader)
    · exact habort (loadAbort_taken hp hloader h)

end Sys2Proof.Machine
end

/-! SUPPORT. The end of a load and of a title: the finishing work and UNLOAD (R13, R14, R22, R36 to R38). -/
section
namespace Sys2Proof.Machine
open Sys2Proof.Safety

/-! ### The finishing work (R36 to R38) -/

/-- Two strictly rising lists with the same members are equal. -/
theorem eq_of_rising {l l' : List Nat} (h : l.Pairwise (· < ·)) (h' : l'.Pairwise (· < ·)) (hmem : ∀ c, c ∈ l ↔ c ∈ l') :
    l = l' := by
  have hperm : l.Perm l' := (List.perm_ext_iff_of_nodup (h.imp Nat.ne_of_lt) (h'.imp Nat.ne_of_lt)).2 hmem
  exact hperm.eq_of_pairwise (fun a b _ _ h1 h2 => absurd h1 (Nat.lt_asymm h2)) h h'

section
variable {s : State} {t : TitleNo} {q : LoadPort}
variable (hstate : (s.title t).state = .finishing)
include hstate

theorem finishingCompletion_completes (hloader : (s.title t).loader = some q) (hctx : s.loader.ctx[q] = .finishing t)
    (hlen : (clipList s.titles.cue (s.title t)).length ≤ 256) : finishingCompletion t s = { s with
      titles := { s.titles with
        cue := (s.title t).tracks.foldl (writeAnchors (s.title t)) s.titles.cue
        recs := setAt s.titles.recs t ((s.title t).complete (clipList s.titles.cue (s.title t))) }
      loader := { s.loader with ctx := setAt s.loader.ctx q .closed }
      link := s.link.latchLoadDone q t } := by
  have hclosed : s.loader.ctx[q].closeFor t = .closed := by simp [hctx, LoadContext.closeFor]
  have hclose : s.closeLoad t = { s with loader := { s.loader with ctx := setAt s.loader.ctx q .closed } } := by
    simp only [State.closeLoad, hloader, modAt, hclosed]
  simp only [finishingCompletion]
  rw [if_pos ⟨hstate, hlen⟩]
  simp only [hclose, hloader]

omit hstate in
theorem finishingCompletion_waits (hlen : 256 < (clipList s.titles.cue (s.title t)).length) :
    finishingCompletion t s = s := by
  simp only [finishingCompletion]
  rw [if_neg fun h => Nat.not_lt.2 h.2 hlen]

theorem clipListOverflow_fails (hlen : 256 < (clipList s.titles.cue (s.title t)).length) :
    clipListOverflow t s = failLoad t .overflow s := by
  simp only [clipListOverflow]
  rw [if_pos ⟨hstate, hlen⟩]

end

/-- The start read from an anchor's bytes. -/
theorem field_anchorBytes {n : Nat} (h : n < 2 ^ 24) : field (anchorBytes n) 0 3 = n := by
  rw [anchorBytes, field_zero_le]
  exact Nat.mod_eq_of_lt h

theorem entryStart_lt (m : List Host.Cell) (ti : Title) (tr : Track) (i : Nat) : entryStart m ti tr i < 2 ^ 24 :=
  field_lt _ 0 3

/-- Settles O29: completion with the clip list, or the overflow of a 257th clip. -/
theorem finishingCompletes : Obligations.FinishingCompletes := by
  unfold Obligations.FinishingCompletes
  intro t q s hstate hloader hctx
  refine ⟨fun clips hlaid hrising hclips hlen => ?_, fun ⟨clips, hnodup, hlen, hnamed⟩ => ?_⟩
  · have heq : clipList s.titles.cue (s.title t) = clips :=
      eq_of_rising (clipList_rising _ _) hrising fun c => mem_clipList.trans (hclips c).symm
    subst heq
    refine ⟨_, congrArg _ (finishingCompletion_completes hstate hloader hctx hlen), fun i tr k htr hk => ?_, fun a ha => ?_⟩
    · rw [anchorAt, foldl_writeAnchors_anchor hlaid htr _ hk]
      exact field_anchorBytes (entryStart_lt _ _ _ _)
    · refine foldl_writeAnchors_read _ _ _ fun ⟨tr, htr, hlo, hhi⟩ => ?_
      obtain ⟨i, hi, rfl⟩ := List.getElem_of_mem htr
      refine ha i _ ((a - ((s.title t).base + (s.title t).tracks[i].anchorBase) * 16) / 16)
        (List.getElem?_eq_getElem hi) ?_ ?_
      · omega
      · omega
  · have hover : 256 < (clipList s.titles.cue (s.title t)).length := by
      have := (List.subperm_of_subset hnodup fun c hc => mem_clipList.2 (hnamed c hc)).length_le
      omega
    exact ⟨congrArg _ (finishingCompletion_waits hover), congrArg Host.Outcome.next
      ((clipListOverflow_fails hstate hover).trans (failLoad_loaded hloader (Or.inr hctx) _))⟩

/-! ### UNLOAD (R22, R107) -/

/-- A title that no open context names is released with no context closed. -/
theorem freeTitle_unloaded {s : State} {t : TitleNo} (hstate : (s.title t).state = .ready) (hlaw : LoadLaw s) :
    s.freeTitle t = { s with titles := { s.titles with
      recs := setAt s.titles.recs t Title.free
      free := releaseRegion (s.title t).base (s.title t).count s.titles.free } } := by
  have hother : ∀ q : LoadPort, s.loader.ctx[q].closeFor t = s.loader.ctx[q] := fun q => by
    obtain ⟨hl, hf⟩ := ctx_ne_of_state hlaw (t := t) (by rw [hstate]; simp) (by rw [hstate]; simp) q
    cases h : s.loader.ctx[q] with
    | closed => rfl
    | loading u =>
      rw [h] at hl
      simp only [LoadContext.closeFor, if_neg fun e => hl (congrArg LoadContext.loading e)]
    | finishing u =>
      rw [h] at hf
      simp only [LoadContext.closeFor, if_neg fun e => hf (congrArg LoadContext.finishing e)]
  have hclose : s.closeLoad t = s := by
    unfold State.closeLoad
    split
    · rw [modAt, hother, Fin.getElem_fin, setAt_same]
    · rfl
  simp only [State.freeTitle, hclose]

/-- What forgetting a handle makes of a way (R107). -/
theorem Way.invalidateFor_eq (w : Way) (handle : Nat) :
    w.invalidateFor handle = { w with valid := w.valid && w.handle != handle } := by
  obtain ⟨valid, h, track, bucket, index⟩ := w
  cases valid <;> by_cases e : h = handle <;> simp [Way.invalidateFor, e]

section
variable {p : Port} {tag : Byte} {t : TitleNo} {s : State}

theorem unload_title : unload ⟨p, tag, [byte (t.val + 1)]⟩ s =
    if (s.title t).state = .free then refuse .noTitle s
    else if p ≠ .m ∧ (s.title t).loader ≠ loadPort p then refuse .notOwner s
    else if (s.title t).state ≠ .ready then refuse .wrongState s
    else if (s.title t).refs ≠ 0 then refuse .inUse s
    else ({ s.freeTitle t with cues := (s.freeTitle t).cues.forget (handle t) }, Reply.ok) := by
  unfold unload
  rw [if_neg (by simp)]
  simp only [at1_cons_zero, byte_handle, titleOfHandle_handle]

theorem unload_range {h : Byte} (hh : h = 0 ∨ 24 < h.toNat) : unload ⟨p, tag, [h]⟩ s = refuse .range s := by
  have hnone : titleOfHandle h.toNat = none := titleOfHandle_none (hh.imp_left fun e => by rw [e]; rfl)
  unfold unload
  rw [if_neg (by simp)]
  simp only [at1_cons_zero, hnone]

end

/-- Settles O30: the checks of R22, then the release. -/
theorem unloadReleasesTitle : Obligations.UnloadReleasesTitle := by
  unfold Obligations.UnloadReleasesTitle
  intro p tag s hp ho
  have hkind : validKind p 10 = true := by
    rcases hp with rfl | ⟨n, rfl⟩ <;> rfl
  have hexec : ∀ {h : Byte} {u : State} {x : Reply}, unload ⟨p, tag, [h]⟩ s = (u, x) →
      exec (.unload ⟨p, tag, [h]⟩) s = .next (answer p 10 tag x u) :=
    fun h => exec_answer_of rfl (by decide) rfl ho hkind h
  refine ⟨fun h hh => hexec (unload_range hh), fun t => ⟨fun hfree => hexec ?_, fun hfree hm howner => hexec ?_,
    fun hfree howner => ?_⟩⟩
  · rw [unload_title, if_pos hfree]
    rfl
  · rw [unload_title, if_neg hfree, if_pos ⟨hm, howner⟩]
    rfl
  · have hadmitted : ¬(p ≠ .m ∧ (s.title t).loader ≠ loadPort p) := by tauto
    refine ⟨fun hready => hexec ?_, fun hready => ⟨fun hrefs => hexec ?_, fun hrefs hlaw => ?_⟩⟩
    · rw [unload_title, if_neg hfree, if_neg hadmitted, if_pos hready]
      rfl
    · rw [unload_title, if_neg hfree, if_neg hadmitted, if_neg (not_not.2 hready), if_pos hrefs]
      rfl
    · refine ⟨(s.cues.forget (handle t)).sets, hexec ?_, fun i => ⟨?_, fun w => ?_⟩⟩
      · rw [unload_title, if_neg hfree, if_neg hadmitted, if_neg (not_not.2 hready), if_neg (not_not.2 hrefs),
          freeTitle_unloaded hready hlaw]
        rfl
      · simp only [CueBlock.forget, Fin.getElem_fin, mapTable_get]
      · simp only [CueBlock.forget, Fin.getElem_fin, mapTable_get, Way.invalidateFor_eq, handle]

end Sys2Proof.Machine
end

/-! SUPPORT. The entries a LOAD.DATA stores, read back, and the order in which a chunk is taken (R7 to R11, R31 to R34). -/
section
namespace Sys2Proof.Machine
open Sys2Proof.Safety

theorem prepareText_length (text : List Byte) : (prepareText text).1.length ≤ 96 := by
  unfold prepareText
  split
  · rename_i h
    exact h
  · simp

/-! ### Stored entries, read back (R8, R9; log 5) -/

theorem field_at (xs bs : List Byte) (n k : Nat) (h : xs.length = n) : field (xs ++ bs) n k = field bs 0 k := by
  subst h
  exact field_append xs bs 0 k

/-- The entry in a slot that holds a caption's bytes. -/
theorem captionEntry_of_bytes {m : List Host.Cell} {ti : Title} {tr : Track} {i : Nat} {e : CaptionEntry}
    (h : slotAt m (entrySlot ti tr i) = e.bytes) (hstart : e.start < 2 ^ 24) (hdur : e.dur < 65536)
    (hoffset : e.textOffset < 2 ^ 24) (hlength : e.textLength < 256) : captionEntry m ti tr i = e := by
  obtain ⟨start, dur, top, italic, offset, length⟩ := e
  dsimp only at hstart hdur hoffset hlength
  have hshape : (⟨start, dur, top, italic, offset, length⟩ : CaptionEntry).bytes =
      le 3 start ++ (le 2 dur ++ ([byte (flag top + 2 * flag italic), byte length] ++ (le 3 offset ++ le 6 0))) := by
    simp [CaptionEntry.bytes]
  have hbits : (flag top + 2 * flag italic) % 256 = flag top + 2 * flag italic := by
    cases top <;> cases italic <;> rfl
  have h0 : field (⟨start, dur, top, italic, offset, length⟩ : CaptionEntry).bytes 0 3 = start := by
    rw [hshape, field_zero_le]
    exact Nat.mod_eq_of_lt hstart
  have h3 : field (⟨start, dur, top, italic, offset, length⟩ : CaptionEntry).bytes 3 2 = dur := by
    rw [hshape, field_at _ _ 3 2 (le_length _ _), field_zero_le]
    exact Nat.mod_eq_of_lt hdur
  have h5 : at1 (⟨start, dur, top, italic, offset, length⟩ : CaptionEntry).bytes 5 = flag top + 2 * flag italic := by
    rw [hshape]
    simp [le, hbits]
  have h6 : at1 (⟨start, dur, top, italic, offset, length⟩ : CaptionEntry).bytes 6 = length := by
    rw [hshape]
    simp [le, Nat.mod_eq_of_lt hlength]
  have h7 : field (⟨start, dur, top, italic, offset, length⟩ : CaptionEntry).bytes 7 3 = offset := by
    rw [hshape, ← List.append_assoc, ← List.append_assoc, field_at _ _ 7 3 (by simp), field_zero_le]
    exact Nat.mod_eq_of_lt hoffset
  simp only [captionEntry, h, h0, h3, h5, h6, h7, CaptionEntry.mk.injEq, true_and, and_true]
  cases top <;> cases italic <;> exact ⟨rfl, rfl⟩

/-- The entry in a slot that holds a description's bytes. -/
theorem descEntry_of_bytes {m : List Host.Cell} {ti : Title} {tr : Track} {i : Nat} {e : DescEntry}
    (h : slotAt m (entrySlot ti tr i) = e.bytes) (hstart : e.start < 2 ^ 24) (hdur : e.dur < 65536)
    (hclip : e.clip < 1024) (hfirst : e.first < 4096) (hlevel : e.level < 256) : descEntry m ti tr i = e := by
  obtain ⟨start, dur, clip, first, level⟩ := e
  dsimp only at hstart hdur hclip hfirst hlevel
  have hshape : (⟨start, dur, clip, first, level⟩ : DescEntry).bytes =
      le 3 start ++ (le 2 dur ++ (le 3 (packClip clip first) ++ ([byte level] ++ le 7 0))) := by simp [DescEntry.bytes]
  have h0 : field (⟨start, dur, clip, first, level⟩ : DescEntry).bytes 0 3 = start := by
    rw [hshape, field_zero_le]
    exact Nat.mod_eq_of_lt hstart
  have h3 : field (⟨start, dur, clip, first, level⟩ : DescEntry).bytes 3 2 = dur := by
    rw [hshape, field_at _ _ 3 2 (le_length _ _), field_zero_le]
    exact Nat.mod_eq_of_lt hdur
  have h5 : field (⟨start, dur, clip, first, level⟩ : DescEntry).bytes 5 3 = clip + 4096 * first := by
    rw [hshape, ← List.append_assoc, field_at _ _ 5 3 (by simp), field_zero_le, packClip]
    exact Nat.mod_eq_of_lt (by omega)
  have h8 : at1 (⟨start, dur, clip, first, level⟩ : DescEntry).bytes 8 = level := by
    rw [hshape]
    simp [le, Nat.mod_eq_of_lt hlevel]
  simp only [descEntry, h, h0, h3, h5, h8, clipOf, blockOf, DescEntry.mk.injEq, true_and, and_true]
  omega

/-! ### The store after an entry (R10, R11, R32) -/

section
variable {m : List Host.Cell} {x : Title} {tn : Nat} {tr : Track} {start : Nat} {bytes text : List Byte}
variable (hx : laidOut x) (htr : x.tracks[tn]? = some tr) (hroom : tr.n < tr.nDecl)

theorem entryStart_placed (hin : entrySlot x tr (tr.n - 1) < x.base + x.entries) (a : Nat) :
    entryStart (Memory.write cueEmpty m (poolAddr x + a) text) x tr (tr.n - 1) = entryStart m x tr (tr.n - 1) ∧
      entryDur (Memory.write cueEmpty m (poolAddr x + a) text) x tr (tr.n - 1) = entryDur m x tr (tr.n - 1) := by
  have hslot : slotAt (Memory.write cueEmpty m (poolAddr x + a) text) (entrySlot x tr (tr.n - 1)) =
      slotAt m (entrySlot x tr (tr.n - 1)) := slotAt_congr fun b _ hb => Memory.read_write_outside (.inl (by
    unfold poolAddr
    simp only [Config.slotBytes]
    omega))
  exact ⟨congrArg (field · 0 3) hslot, congrArg (field · 3 2) hslot⟩

/-- The entry before a stored one keeps its start and is cut to the gap between their starts (R11). -/
theorem storedCue_shortens (hb : bytes.length = 16) (hn : 1 ≤ tr.n) :
    entryStart (storedCue m x tr start bytes) x tr (tr.n - 1) = entryStart m x tr (tr.n - 1) ∧
      entryDur (storedCue m x tr start bytes) x tr (tr.n - 1) =
        min (entryDur m x tr (tr.n - 1)) (start - entryStart m x tr (tr.n - 1)) :=
  ⟨entryStart_storedCue_last hb hn, entryDur_storedCue_last hb hn⟩

include hx htr

theorem entrySlot_lt {i : Nat} (hi : i < tr.nDecl) : entrySlot x tr i < x.base + x.entries := by
  have := entryArea_le_entries hx htr
  unfold entrySlot
  omega

include hroom

/-- A stored entry leaves the text pool as it is. -/
theorem readRun_storedCue_pool (hb : bytes.length = 16) (a n : Nat) :
    Memory.readRun cueEmpty (storedCue m x tr start bytes) (poolAddr x + a) n =
      Memory.readRun cueEmpty m (poolAddr x + a) n := by
  have h1 := entrySlot_lt hx htr hroom
  have h2 := entrySlot_lt hx htr (i := tr.n - 1) (by omega)
  refine Memory.readRun_congr _ _ fun b hb1 _ => read_storedCue hb ?_ ?_ <;>
  · unfold poolAddr at hb1
    simp only [Config.slotBytes] at hb1
    omega

end

/-! ### The state after an entry (R26, R32) -/

/-- A title whose track `tn` has received one more entry, its text the pool holds up to `fill` (R32). -/
def Title.received (x : Title) (tn : Nat) (tr : Track) (fill : Nat) (now : BitVec 32) : Title :=
  { x with fill := fill, tracks := x.tracks.set tn { tr with n := tr.n + 1 }, lastActivity := now }

/-- The state once title `t` has received an entry, with the cue store `cue`. -/
def State.received (s : State) (t : TitleNo) (tn : Nat) (tr : Track) (cue : List Host.Cell) (fill : Nat) : State :=
  { s with titles := { s.titles with
    cue := cue
    recs := setAt s.titles.recs t ((s.title t).received tn tr fill s.clock.h) } }

section
variable {s : State} {t : TitleNo} {tn : TrackNo} {tr : Track}
variable (htr : (s.title t).tracks[tn.val]? = some tr) (hroom : tr.n < tr.nDecl)
include htr hroom

theorem appendEntry_caption_touched {start dur bits : Nat} {raw : List Byte} (hbits : bits < 4)
    (horder : 1 ≤ tr.n → entryStart s.titles.cue (s.title t) tr (tr.n - 1) ≤ start)
    (hfill : (s.title t).fill + (prepareText raw).1.length ≤ (s.title t).textBytes) :
    appendEntry t tn.val (.caption start dur bits raw) (touchTitle t s) = .ok (s.received t tn.val tr
      (storedCue (Memory.write cueEmpty s.titles.cue (poolAddr (s.title t) + (s.title t).fill) (prepareText raw).1)
        (s.title t) tr start
        (⟨start, dur, bit bits 0, bit bits 1, (s.title t).fill, (prepareText raw).1.length⟩ : CaptionEntry).bytes)
      ((s.title t).fill + (prepareText raw).1.length), (prepareText raw).2) := by
  rw [appendEntry_caption (by rw [touchTitle_self]; exact htr) hroom hbits (by rw [touchTitle_self]; exact horder),
    touchTitle_self, if_neg (Nat.not_lt.2 hfill)]
  simp only [storeEntry, State.received, Title.received, Title.setTrack, touchTitle, State.setTitle, placeText,
    setAt_twice]
  rfl

theorem appendEntry_description_touched {start dur clipBlock level : Nat} (hlevel : level ≤ 15)
    (hclip : clipBlock / 1024 % 4 = 0)
    (horder : 1 ≤ tr.n → entryStart s.titles.cue (s.title t) tr (tr.n - 1) ≤ start) :
    appendEntry t tn.val (.description start dur clipBlock level) (touchTitle t s) = .ok (s.received t tn.val tr
      (storedCue s.titles.cue (s.title t) tr start
        (⟨start, dur, clipOf clipBlock, blockOf clipBlock, level⟩ : DescEntry).bytes) (s.title t).fill, false) := by
  rw [appendEntry_description (by rw [touchTitle_self]; exact htr) hroom hlevel hclip
    (by rw [touchTitle_self]; exact horder), touchTitle_self]
  simp only [storeEntry, State.received, Title.received, Title.setTrack, touchTitle, State.setTitle, setAt_twice]
  rfl

end

/-- A chunk of one entry that passes. -/
theorem appendEntries_one {t : TitleNo} {tn : Nat} {e : RawEntry} {s : State} {r : State × Bool}
    (h : appendEntry t tn e s = .ok r) : appendEntries t tn [e] false s = (r.1, Reply.okClamped r.2) := by
  simp only [appendEntries, h, Bool.false_or]

theorem bit_of_lt {bits : Nat} (h : bits < 4) : bit bits 0 = (bits % 2 == 1) ∧ bit bits 1 = (bits / 2 == 1) := by
  have : bits = 0 ∨ bits = 1 ∨ bits = 2 ∨ bits = 3 := by omega
  rcases this with rfl | rfl | rfl | rfl <;> exact ⟨rfl, rfl⟩

/-- Settles O25: no entries, a caption, a description. -/
theorem entriesAreStored : Obligations.EntriesAreStored := by
  unfold Obligations.EntriesAreStored
  intro p q tag t tn tr s hp ho hstate hloader hlaid htr
  dsimp only
  refine ⟨?_, fun start dur bits text hfits hbits hroom horder hfill => ?_,
    fun start dur clip first level hkind hstart hdur hclip hfirst hlevel hroom horder => ?_⟩
  · exact exec_loadData hp ho (by simp) (loadData_takes (es := []) hp hstate hloader htr (by simp) (by simp))
  · obtain ⟨-, hstart, hdur, -, -⟩ := id hfits
    have hlast := entrySlot_lt hlaid htr (i := tr.n - 1) (by omega)
    have hlen := prepareText_length text
    have hb : ∀ e : CaptionEntry, e.bytes.length = 16 := fun e => by simp [CaptionEntry.bytes]
    have hpool : (s.title t).textBytes ≤ 2097151 := hlaid.2.2.1
    have hentry := captionEntry_of_bytes (slotAt_storedCue_self (x := s.title t) (tr := tr) (start := start)
      (m := Memory.write cueEmpty s.titles.cue (poolAddr (s.title t) + (s.title t).fill) (prepareText text).1)
      (hb ⟨start, dur, bit bits 0, bit bits 1, (s.title t).fill, (prepareText text).1.length⟩)) hstart hdur (by dsimp only; omega)
      (by dsimp only; omega)
    refine ⟨_, exec_loadData_one hp hstate hloader htr hfits ho (appendEntries_one
      (appendEntry_caption_touched htr hroom hbits horder hfill)), ?_, ?_, fun hn => ?_, fun a h1 h2 h3 => ?_⟩
    · rw [hentry, (bit_of_lt hbits).1, (bit_of_lt hbits).2]
    · rw [hentry, captionText, readRun_storedCue_pool hlaid htr hroom (hb _)]
      exact Memory.readRun_write _ _ _ _
    · obtain ⟨h1, h2⟩ := storedCue_shortens (x := s.title t) (start := start)
        (m := Memory.write cueEmpty s.titles.cue (poolAddr (s.title t) + (s.title t).fill) (prepareText text).1)
        (hb ⟨start, dur, bit bits 0, bit bits 1, (s.title t).fill, (prepareText text).1.length⟩) hn
      obtain ⟨h3, h4⟩ := entryStart_placed (m := s.titles.cue) (text := (prepareText text).1) hlast (s.title t).fill
      rw [h3, h4] at h2
      exact ⟨h1.trans h3, h2⟩
    · rw [read_storedCue (hb _) h1 h2, Memory.read_write_outside (by omega)]
  · have hb : ∀ e : DescEntry, e.bytes.length = 16 := fun e => by simp [DescEntry.bytes]
    have hpack : clipOf (clip + 4096 * first) = clip ∧ blockOf (clip + 4096 * first) = first := by
      unfold clipOf blockOf
      omega
    have hentry := descEntry_of_bytes (slotAt_storedCue_self (x := s.title t) (tr := tr) (start := start)
      (m := s.titles.cue) (hb ⟨start, dur, clip, first, level⟩)) hstart hdur hclip hfirst (by dsimp only; omega)
    have hfits : entryFits tr.kind (.description start dur (clip + 4096 * first) level) :=
      ⟨hkind, hstart, hdur, by omega, by omega⟩
    have happend := appendEntry_description_touched (dur := dur) htr hroom hlevel (clipBlock := clip + 4096 * first)
      (by omega) horder
    rw [hpack.1, hpack.2] at happend
    exact ⟨_, exec_loadData_one hp hstate hloader htr hfits ho (appendEntries_one happend), hentry,
      fun hn => storedCue_shortens (hb _) hn, fun a h1 h2 => read_storedCue (hb _) h1 h2⟩

end Sys2Proof.Machine
end

/-! SUPPORT. A chunk of entries is taken one by one (R31, R34). -/
section
namespace Sys2Proof.Machine
open Sys2Proof.Safety

/-- What an entry that passes leaves of its title and of the rest of the state (R32). -/
structure EntryTaken (t : TitleNo) (tn : Nat) (tr : Track) (s u : State) : Prop where
  state : (u.title t).state = (s.title t).state
  loader : (u.title t).loader = (s.title t).loader
  lastActivity : (u.title t).lastActivity = (s.title t).lastActivity
  track : (u.title t).tracks[tn]? = some { tr with n := tr.n + 1 }
  clock : u.clock = s.clock
  link : u.link = s.link

theorem storeEntry_taken {t : TitleNo} {tn start : Nat} {x : Title} {tr : Track} {bytes : List Byte} {s u : State}
    (htr : x.tracks[tn]? = some tr) (hx : x.state = (s.title t).state ∧ x.loader = (s.title t).loader ∧
      x.lastActivity = (s.title t).lastActivity) (hclock : u.clock = s.clock) (hlink : u.link = s.link) :
    EntryTaken t tn tr s (storeEntry t tn x tr start bytes u) := by
  have htitle : (storeEntry t tn x tr start bytes u).title t = x.setTrack tn { tr with n := tr.n + 1 } := setAt_self _ _ _
  refine ⟨?_, ?_, ?_, ?_, hclock, hlink⟩
  · rw [htitle]
    exact hx.1
  · rw [htitle]
    exact hx.2.1
  · rw [htitle]
    exact hx.2.2
  · rw [htitle]
    exact List.getElem?_set_self (List.getElem?_eq_some_iff.1 htr).1

theorem appendEntry_taken {t : TitleNo} {tn : Nat} {tr : Track} {e : RawEntry} {s : State} {r : State × Bool}
    (htr : (s.title t).tracks[tn]? = some tr) (h : appendEntry t tn e s = .ok r) : EntryTaken t tn tr s r.1 := by
  simp only [appendEntry, htr] at h
  split at h
  · cases h
  split at h
  · cases h
  split at h
  · cases h
  cases e with
  | caption start dur bits raw =>
    dsimp only at h
    split at h
    · cases h
    · cases h
      exact storeEntry_taken htr ⟨rfl, rfl, rfl⟩ rfl rfl
  | description start dur clipBlock level =>
    cases h
    exact storeEntry_taken htr ⟨rfl, rfl, rfl⟩ rfl rfl

/-- A title whose last activity is the present H is left by a touch. -/
theorem touchTitle_same {t : TitleNo} {s : State} (h : (s.title t).lastActivity = s.clock.h) : touchTitle t s = s := by
  have hx : { s.title t with lastActivity := s.clock.h } = s.title t := by rw [← h]
  rw [touchTitle, hx]
  simp [State.setTitle, State.title]

/-- A cut before a chunk shows in its answer, where that is OK (R34). -/
theorem appendEntries_cut (t : TitleNo) (tn : Nat) (es : List RawEntry) (cut : Bool) (s : State) :
    appendEntries t tn es cut s = ((appendEntries t tn es false s).1,
      { (appendEntries t tn es false s).2 with
        clamped := (appendEntries t tn es false s).2.code == .ok && (cut || (appendEntries t tn es false s).2.clamped) }) := by
  induction es generalizing cut s with
  | nil => cases cut <;> rfl
  | cons e es ih =>
    unfold appendEntries
    split
    · rename_i reason _
      cases reason <;> rfl
    · rename_i r _
      rw [ih (cut || r.2), ih (false || r.2)]
      dsimp only
      cases cut <;> cases r.2 <;> cases (appendEntries t tn es false r.1).2.code == Code.ok <;> rfl

/-- Settles O26: the first entry, alone and before the others. -/
theorem chunkIsTakenInOrder : Obligations.ChunkIsTakenInOrder := by
  unfold Obligations.ChunkIsTakenInOrder
  intro p q tag t tn tr e es s hp ho hstate hloader htr hfits hcount
  dsimp only
  intro hlen
  obtain ⟨he, hes⟩ := List.forall_mem_cons.1 hfits
  have htr' : ((touchTitle t s).title t).tracks[tn.val]? = some tr := by rw [touchTitle_self]; exact htr
  have hrest : (es.flatMap entryBytes).length + (entryBytes e).length ≤ 1021 := by
    simp only [List.flatMap_cons, List.length_append, List.length_cons, List.length_nil] at hlen
    omega
  have hwhole := loadData_takes (tag := tag) hp hstate hloader htr hfits (by simpa using hcount)
  cases happend : appendEntry t tn.val e (touchTitle t s) with
  | error reason =>
    refine ⟨failLoad t reason (touchTitle t s), Reply.of reason.code, ?_, fun _ => exec_loadData hp ho hlen ?_,
      fun hok => ?_⟩
    · refine exec_loadData hp ho (by simp; omega) ((loadData_takes (es := [e]) hp hstate hloader htr (by simpa using he)
        (by simp)).trans ?_)
      simp only [appendEntries, happend]
    · rw [hwhole]
      simp only [appendEntries, happend]
    · cases reason <;> cases hok
  | ok r =>
    have htaken := appendEntry_taken htr' happend
    have htouched : touchTitle t r.1 = r.1 := touchTitle_same (by
      rw [htaken.lastActivity, htaken.clock, touchTitle_self]
      rfl)
    have ho' : r.1.owing p = false := by
      unfold State.owing State.port
      rw [htaken.link]
      exact ho
    have hrest' := loadData_takes (tag := tag) (s := r.1) hp (by rw [htaken.state, touchTitle_self]; exact hstate)
      (by rw [htaken.loader, touchTitle_self]; exact hloader) htaken.track hes (by omega)
    rw [htouched] at hrest'
    refine ⟨r.1, Reply.okClamped r.2, ?_, fun hnot => absurd rfl hnot, fun _ => ⟨_, _, exec_loadData hp ho' ?_ hrest',
      exec_loadData hp ho hlen ?_⟩⟩
    · exact exec_loadData hp ho (by simp; omega) ((loadData_takes (es := [e]) hp hstate hloader htr (by simpa using he)
        (by simp)).trans (appendEntries_one happend))
    · simp only [List.length_append, List.length_cons, List.length_nil]
      omega
    · rw [hwhole]
      simp only [appendEntries, happend]
      rw [Bool.false_or, appendEntries_cut]
      rfl

end Sys2Proof.Machine
end

/-! SUPPORT. LOAD.OPEN: the declaration read back from its bytes, the checks in order, and the title opened (R3, R15, R17, R27 to R30). -/
section
namespace Sys2Proof.Machine
open Sys2Proof.Safety

/-! ### The declaration, read back (R27, R214) -/

theorem readReels_le {reels : List Nat} (h : ∀ x ∈ reels, x < 2 ^ 24) (rest : List Byte) :
    readReels reels.length (reels.flatMap (le 3 ·) ++ rest) = reels := by
  induction reels with
  | nil => rfl
  | cons x reels ih =>
    obtain ⟨hx, hrest⟩ := List.forall_mem_cons.1 h
    rw [List.flatMap_cons, List.append_assoc, List.length_cons, readReels, field_zero_le,
      Nat.mod_eq_of_lt (show x < 256 ^ 3 from hx), List.drop_left' (le_length 3 x), ih hrest]

/-- The bytes of a track declaration (R214). -/
def TrackDecl.bytes (t : TrackDecl) : List Byte := [byte t.kindCode] ++ t.lang ++ le 2 t.nDecl

theorem TrackDecl.bytes_length {t : TrackDecl} (h : t.lang.length = 3) : t.bytes.length = 6 := by simp [TrackDecl.bytes, h]

/-- The track declaration at the front of bytes that begin with it. -/
theorem readTracks_front {t : TrackDecl} (hkind : t.kindCode < 256) (hlang : t.lang.length = 3) (hn : t.nDecl < 65536)
    (bs : List Byte) : (⟨at1 (t.bytes ++ bs) 0, ((t.bytes ++ bs).drop 1).take 3, field (t.bytes ++ bs) 4 2⟩ : TrackDecl) = t := by
  obtain ⟨kindCode, lang, nDecl⟩ := t
  dsimp only at hkind hlang hn
  have hshape : (⟨kindCode, lang, nDecl⟩ : TrackDecl).bytes ++ bs = byte kindCode :: (lang ++ (le 2 nDecl ++ bs)) := by
    simp [TrackDecl.bytes]
  rw [hshape]
  have h0 : at1 (byte kindCode :: (lang ++ (le 2 nDecl ++ bs))) 0 = kindCode := by
    rw [at1_cons_zero, byte_toNat]
    exact Nat.mod_eq_of_lt hkind
  have h1 : ((byte kindCode :: (lang ++ (le 2 nDecl ++ bs))).drop 1).take 3 = lang := List.take_left' hlang
  have h2 : field (byte kindCode :: (lang ++ (le 2 nDecl ++ bs))) 4 2 = nDecl := by
    rw [field_cons_succ, field_at _ _ 3 2 hlang, field_zero_le]
    exact Nat.mod_eq_of_lt hn
  rw [h0, h1, h2]

theorem readTracks_bytes {tracks : List TrackDecl}
    (h : ∀ t ∈ tracks, t.kindCode < 256 ∧ t.lang.length = 3 ∧ t.nDecl < 65536) (rest : List Byte) :
    readTracks tracks.length (tracks.flatMap TrackDecl.bytes ++ rest) = tracks := by
  induction tracks with
  | nil => rfl
  | cons t tracks ih =>
    obtain ⟨⟨hkind, hlang, hn⟩, hrest⟩ := List.forall_mem_cons.1 h
    rw [List.flatMap_cons, List.append_assoc, List.length_cons, readTracks, readTracks_front hkind hlang hn,
      List.drop_left' (TrackDecl.bytes_length hlang), ih hrest]

/-- The bytes of a declaration, in the order they are read. -/
theorem declBytes_eq (d : Decl) : declBytes d = le 8 d.key.toNat ++ (byte d.reelCount :: byte d.trackCount ::
    (d.reels.flatMap (le 3 ·) ++ (d.tracks.flatMap TrackDecl.bytes ++ le 3 d.textBytes))) := by
  simp [declBytes, show TrackDecl.bytes = fun t => [byte t.kindCode] ++ t.lang ++ le 2 t.nDecl from rfl]

theorem tracks_length {tracks : List TrackDecl} (h : ∀ t ∈ tracks, t.lang.length = 3) :
    (tracks.flatMap TrackDecl.bytes).length = 6 * tracks.length := by
  induction tracks with
  | nil => rfl
  | cons t tracks ih =>
    obtain ⟨ht, hrest⟩ := List.forall_mem_cons.1 h
    rw [List.flatMap_cons, List.length_append, TrackDecl.bytes_length ht, ih hrest, List.length_cons]
    omega

/-- A declaration is read back from its bytes. -/
theorem readDecl_declBytes {d : Decl} (h : declFits d) : readDecl (declBytes d) = some d := by
  obtain ⟨hreels, htracks, hrc, htc, hx, htext, ht⟩ := h
  obtain ⟨key, reelCount, trackCount, reels, tracks, textBytes⟩ := d
  dsimp only at hreels htracks hrc htc hx htext ht
  subst hreels htracks
  rw [declBytes_eq]
  dsimp only
  have hkey : field (le 8 key.toNat ++ (byte reels.length :: byte tracks.length :: (reels.flatMap (le 3 ·) ++
      (tracks.flatMap TrackDecl.bytes ++ le 3 textBytes)))) 0 8 = key.toNat := by
    rw [field_zero_le]
    exact Nat.mod_eq_of_lt key.isLt
  have hr : at1 (le 8 key.toNat ++ (byte reels.length :: byte tracks.length :: (reels.flatMap (le 3 ·) ++
      (tracks.flatMap TrackDecl.bytes ++ le 3 textBytes)))) 8 = reels.length := by
    rw [at1, field_at _ _ 8 1 (le_length _ _)]
    exact (at1_cons_zero _ _).trans (by rw [byte_toNat]; exact Nat.mod_eq_of_lt hrc)
  have ht9 : at1 (le 8 key.toNat ++ (byte reels.length :: byte tracks.length :: (reels.flatMap (le 3 ·) ++
      (tracks.flatMap TrackDecl.bytes ++ le 3 textBytes)))) 9 = tracks.length := by
    have := field_append (le 8 key.toNat) (byte reels.length :: byte tracks.length :: (reels.flatMap (le 3 ·) ++
      (tracks.flatMap TrackDecl.bytes ++ le 3 textBytes))) 1 1
    rw [le_length] at this
    rw [at1, this, field_cons_succ]
    exact (at1_cons_zero _ _).trans (by rw [byte_toNat]; exact Nat.mod_eq_of_lt htc)
  have hdrop : (le 8 key.toNat ++ (byte reels.length :: byte tracks.length :: (reels.flatMap (le 3 ·) ++
      (tracks.flatMap TrackDecl.bytes ++ le 3 textBytes)))).drop 10 =
      reels.flatMap (le 3 ·) ++ (tracks.flatMap TrackDecl.bytes ++ le 3 textBytes) := by
    rw [List.drop_append, le_length, List.drop_eq_nil_of_le (by rw [le_length]; omega)]
    rfl
  have hlr : (reels.flatMap (le 3 ·)).length = 3 * reels.length := flatMap_length_const (le_length 3) reels
  have hlt := tracks_length fun t htm => (ht t htm).2.1
  generalize hbody : le 8 key.toNat ++ (byte reels.length :: byte tracks.length :: (reels.flatMap (le 3 ·) ++
    (tracks.flatMap TrackDecl.bytes ++ le 3 textBytes))) = body at *
  have hlen : body.length = 13 + 3 * reels.length + 6 * tracks.length := by
    rw [← hbody]
    simp only [List.length_append, List.length_cons, le_length, hlr, hlt]
    omega
  have hdropTracks : body.drop (10 + 3 * reels.length) = tracks.flatMap TrackDecl.bytes ++ le 3 textBytes := by
    rw [← List.drop_drop, hdrop, List.drop_left' hlr]
  have htextField : field body (10 + 3 * reels.length + 6 * tracks.length) 3 = textBytes := by
    have hdropText : body.drop (10 + 3 * reels.length + 6 * tracks.length) = le 3 textBytes := by
      rw [← List.drop_drop, hdropTracks, List.drop_left' hlt]
    rw [field, hdropText, List.take_of_length_le (by rw [le_length]), leVal_le]
    exact Nat.mod_eq_of_lt htext
  unfold readDecl
  dsimp only
  rw [hr, ht9, if_pos hlen, hkey, hdrop, hdropTracks, htextField, readReels_le hx, readTracks_bytes ht,
    BitVec.ofNat_toNat, BitVec.setWidth_eq]

/-! ### The range of a declaration (R4, R27) -/

theorem langOf_isSome {l : List Byte} (h : l.length = 3) :
    (langOf l).isSome = true ↔ ∀ c ∈ l, 97 ≤ c.toNat ∧ c.toNat ≤ 122 := by
  match l, h with
  | [a, b, c], _ =>
    simp only [langOf, isLower, Bool.and_eq_true, decide_eq_true_eq, List.mem_cons, List.not_mem_nil, or_false,
      forall_eq_or_imp, forall_eq]
    split
    · simp_all
    · simp_all

theorem kindOf_isSome {n : Nat} : (kindOf n).isSome = true ↔ n ≤ 1 := by
  match n with
  | 0 => simp [kindOf]
  | 1 => simp [kindOf]
  | n + 2 => simp [kindOf]

theorem Decl.inRange_iff {d : Decl} (h : declFits d) : d.inRange = true ↔ declInRange d := by
  obtain ⟨-, -, -, -, -, -, ht⟩ := h
  have htracks : (∀ t ∈ d.tracks, t.inRange = true) ↔
      ∀ t ∈ d.tracks, t.kindCode ≤ 1 ∧ (∀ c ∈ t.lang, 97 ≤ c.toNat ∧ c.toNat ≤ 122) ∧ t.nDecl ≤ 16383 := by
    refine forall₂_congr fun t htm => ?_
    simp only [TrackDecl.inRange, Bool.and_eq_true, kindOf_isSome, langOf_isSome (ht t htm).2.1, decide_eq_true_eq,
      and_assoc]
  simp only [Decl.inRange, declInRange, Bool.and_eq_true, decide_eq_true_eq, List.all_eq_true, htracks, Config.maxShow]
  tauto

/-! ### The checks of LOAD.OPEN, in order (R28) -/

section
variable {p : Port} {q : LoadPort} {tag : Byte} {body : List Byte} {d : Decl} {s : State}

theorem loadOpen_badLength (hp : loadPort p = some q) (h : body.length ≠ 13 + 3 * at1 body 8 + 6 * at1 body 9) :
    loadOpen ⟨p, tag, body⟩ s = refuse .badLength s := by
  have hnone : readDecl body = none := by
    unfold readDecl
    dsimp only
    rw [if_neg h]
  simp only [loadOpen, hp, loadOpenOn, hnone]

theorem readyWithKey_eq_some {key : BitVec 64} {t : TitleNo} : readyWithKey s key = some t ↔
    ((s.title t).state = .ready ∧ (s.title t).key = key) ∧
      ∀ u, u < t → ¬((s.title u).state = .ready ∧ (s.title u).key = key) := by
  unfold readyWithKey
  rw [find?_eq_some_iff_lowest all24_rising mem_all24]
  simp only [Bool.and_eq_true, beq_iff_eq, Bool.and_eq_false_iff, beq_eq_false_iff_ne, not_and_or, ne_eq]

theorem readyWithKey_eq_none {key : BitVec 64} :
    readyWithKey s key = none ↔ ∀ t, ¬((s.title t).state = .ready ∧ (s.title t).key = key) := by
  unfold readyWithKey
  rw [List.find?_eq_none]
  simp only [mem_all24, true_implies, Bool.and_eq_true, beq_iff_eq]

theorem keyIsLoading_iff {key : BitVec 64} : keyIsLoading s key = true ↔
    ∃ t : TitleNo, ((s.title t).state = .loading ∨ (s.title t).state = .finishing) ∧ (s.title t).key = key := by
  simp only [keyIsLoading, List.any_eq_true, mem_all24, true_and, Bool.and_eq_true, Bool.or_eq_true, beq_iff_eq]

theorem lowestFreeTitle_eq_some {t : TitleNo} :
    lowestFreeTitle s = some t ↔ (s.title t).state = .free ∧ ∀ u, u < t → (s.title u).state ≠ .free := by
  unfold lowestFreeTitle
  rw [find?_eq_some_iff_lowest all24_rising mem_all24]
  simp only [beq_iff_eq, beq_eq_false_iff_ne]

theorem lowestFreeTitle_eq_none : lowestFreeTitle s = none ↔ ∀ t, (s.title t).state ≠ .free := by
  unfold lowestFreeTitle
  rw [List.find?_eq_none]
  simp only [mem_all24, true_implies, beq_iff_eq]

variable (hp : loadPort p = some q) (hd : declFits d)
include hp hd

theorem loadOpen_loaded {t : TitleNo} (h : readyWithKey s d.key = some t) :
    loadOpen ⟨p, tag, declBytes d⟩ s = (s, ⟨.alreadyLoaded, false, [byte (handle t)]⟩) := by
  simp only [loadOpen, hp, loadOpenOn, readDecl_declBytes hd, h]

variable (hnew : readyWithKey s d.key = none)
include hnew

theorem loadOpen_busyKey (h : keyIsLoading s d.key = true) : loadOpen ⟨p, tag, declBytes d⟩ s = refuse .busy s := by
  simp only [loadOpen, hp, loadOpenOn, readDecl_declBytes hd, hnew, h, if_true]

variable (hkey : keyIsLoading s d.key = false)
include hkey

theorem loadOpen_busyPort (h : s.loader.ctx[q] ≠ .closed) : loadOpen ⟨p, tag, declBytes d⟩ s = refuse .busy s := by
  simp only [loadOpen, hp, loadOpenOn, readDecl_declBytes hd, hnew, hkey, Bool.false_eq_true, if_false]
  rw [if_pos h]

variable (hctx : s.loader.ctx[q] = .closed)
include hctx

theorem loadOpen_range (h : ¬declInRange d) : loadOpen ⟨p, tag, declBytes d⟩ s = refuse .range s := by
  have h : d.inRange = false := Bool.eq_false_iff.2 (mt (Decl.inRange_iff hd).1 h)
  simp only [loadOpen, hp, loadOpenOn, readDecl_declBytes hd, hnew, hkey, hctx, h, Bool.false_eq_true, if_false,
    ne_eq, not_true_eq_false, Bool.not_false, if_true]

variable (hrange : declInRange d)
include hrange

theorem loadOpen_tableFull (h : lowestFreeTitle s = none) : loadOpen ⟨p, tag, declBytes d⟩ s = refuse .tableFull s := by
  simp only [loadOpen, hp, loadOpenOn, readDecl_declBytes hd, hnew, hkey, hctx, (Decl.inRange_iff hd).2 hrange, h,
    Bool.false_eq_true, if_false, ne_eq, not_true_eq_false, Bool.not_true]

variable {t : TitleNo} (hfree : lowestFreeTitle s = some t)
include hfree

theorem loadOpen_noSpace (h : allocateRegion d.regionSlots s.titles.free = none) :
    loadOpen ⟨p, tag, declBytes d⟩ s = refuse .noSpace s := by
  simp only [loadOpen, hp, loadOpenOn, readDecl_declBytes hd, hnew, hkey, hctx, (Decl.inRange_iff hd).2 hrange, hfree, h,
    Bool.false_eq_true, if_false, ne_eq, not_true_eq_false, Bool.not_true]

theorem loadOpen_opened {base : Nat} {free : List Extent}
    (h : allocateRegion d.regionSlots s.titles.free = some (base, free)) :
    loadOpen ⟨p, tag, declBytes d⟩ s = (openTitle d q t base free s, Reply.okData [byte (handle t)]) := by
  simp only [loadOpen, hp, loadOpenOn, readDecl_declBytes hd, hnew, hkey, hctx, (Decl.inRange_iff hd).2 hrange, hfree, h,
    Bool.false_eq_true, if_false, ne_eq, not_true_eq_false, Bool.not_true]

end

theorem exec_loadOpen {p : Port} {q : LoadPort} {tag : Byte} {body : List Byte} {s u : State} {x : Reply}
    (hp : loadPort p = some q) (ho : s.owing p = false) (hlen : body.length ≤ 1024)
    (h : loadOpen ⟨p, tag, body⟩ s = (u, x)) : exec (.loadOpen ⟨p, tag, body⟩) s = .next (answer p 6 tag x u) :=
  exec_answer_of rfl (by decide) (by simp [Instr.wellFormed, Req.bodyFits, Config.maxRequestBody, hlen]) ho
    (validKind_load hp (by decide) (by decide)) h

/-- Settles O22: the checks of R28 in order. -/
theorem loadOpenAnswers : Obligations.LoadOpenAnswers := by
  unfold Obligations.LoadOpenAnswers
  intro p q tag s hp ho
  refine ⟨fun body hlen h => exec_loadOpen hp ho hlen (loadOpen_badLength hp h), fun d hd hlen => ?_⟩
  have hexec : ∀ {u : State} {x : Reply}, loadOpen ⟨p, tag, declBytes d⟩ s = (u, x) →
      exec (.loadOpen ⟨p, tag, declBytes d⟩) s = .next (answer p 6 tag x u) := fun h => exec_loadOpen hp ho hlen h
  refine ⟨fun t hholds hlow => hexec (loadOpen_loaded hp hd (readyWithKey_eq_some.2 ⟨hholds, hlow⟩)), fun hnone => ?_⟩
  have hnew := readyWithKey_eq_none.2 hnone
  refine ⟨fun hloads => hexec (loadOpen_busyKey hp hd hnew (keyIsLoading_iff.2 hloads)), fun hloads => ?_⟩
  have hkey : keyIsLoading s d.key = false := Bool.eq_false_iff.2 (mt keyIsLoading_iff.1 hloads)
  refine ⟨fun hctx => hexec (loadOpen_busyPort hp hd hnew hkey hctx), fun hctx =>
    ⟨fun hrange => hexec (loadOpen_range hp hd hnew hkey hctx hrange), fun hrange =>
      ⟨fun hfull => hexec (loadOpen_tableFull hp hd hnew hkey hctx hrange (lowestFreeTitle_eq_none.2 hfull)),
        fun ⟨u, hu⟩ hslots hsmall => ?_⟩⟩⟩
  cases hfree : lowestFreeTitle s with
  | none => exact absurd hu (lowestFreeTitle_eq_none.1 hfree u)
  | some t =>
    refine hexec (loadOpen_noSpace hp hd hnew hkey hctx hrange hfree ?_)
    have hne : d.regionSlots ≠ 0 := Nat.one_le_iff_ne_zero.1 hslots
    rw [allocateRegion, if_neg hne]
    exact allocate_none.2 hsmall

/-! ### The title opened (R15, R17, R29) -/

/-- First fit: the first extent that is large enough is taken from (R17). -/
theorem allocate_append {n : Nat} {before after : List Extent} {e : Extent} (hbefore : ∀ f ∈ before, f.count < n)
    (he : n ≤ e.count) : allocate n (before ++ e :: after) =
      some (e.base, before ++ if n = e.count then after else ⟨e.base + n, e.count - n⟩ :: after) := by
  induction before with
  | nil => simp only [List.nil_append, allocate, he, if_true]
  | cons f before ih =>
    obtain ⟨hf, hrest⟩ := List.forall_mem_cons.1 hbefore
    simp only [List.cons_append, allocate, Nat.not_le.2 hf, if_false, ih hrest, Option.map_some]

theorem kindOf_getD {n : Nat} (h : n ≤ 1) :
    (kindOf n).getD .caption = if n = 0 then .caption else .description := by
  match n, h with
  | 0, _ => rfl
  | 1, _ => rfl

/-- A language in range keeps its bytes. -/
theorem langOf_bytes {l : List Byte} (hlen : l.length = 3) (h : ∀ c ∈ l, 97 ≤ c.toNat ∧ c.toNat ≤ 122) :
    ((langOf l).getD ⟨0, 0, 0⟩).bytes = l := by
  obtain ⟨x, hx⟩ := Option.isSome_iff_exists.1 ((langOf_isSome hlen).2 h)
  match l, hlen with
  | [a, b, c], _ =>
    rw [hx]
    simp only [langOf] at hx
    split at hx
    · cases hx
      rfl
    · cases hx

/-- The bytes after the text pool of a title opened read zero, and no other byte changes (R10). -/
theorem read_padded (m : List Host.Cell) (d : Decl) (base a : Nat) :
    Memory.read cueEmpty (Memory.clear m ((base + d.entries) * 16 + d.textBytes) d.padding) a =
      if (base + d.entries) * 16 + d.textBytes ≤ a ∧ a < (base + d.entries + ceilDiv d.textBytes 16) * 16 then 0
      else Memory.read cueEmpty m a := by
  rw [Memory.read_clear]
  refine if_congr (and_congr_right fun _ => ?_) rfl rfl
  unfold Decl.padding ceilDiv
  simp only [Config.slotBytes]
  omega

/-- Settles O23: the lowest FREE record, laid out over the first fit. -/
theorem loadOpenStartsTitle : Obligations.LoadOpenStartsTitle := by
  unfold Obligations.LoadOpenStartsTitle
  intro p q tag d t base free s hp ho hd hrange hkeys hctx hfree hlow
  dsimp only
  intro hregion
  have hnew : readyWithKey s d.key = none := readyWithKey_eq_none.2 fun u hu => hkeys u (by rw [hu.1]; simp) hu.2
  have hkey : keyIsLoading s d.key = false := Bool.eq_false_iff.2 fun h => by
    obtain ⟨u, hu, huk⟩ := keyIsLoading_iff.1 h
    exact hkeys u (by rcases hu with hu | hu <;> rw [hu] <;> simp) huk
  have hlowest := lowestFreeTitle_eq_some.2 ⟨hfree, hlow⟩
  have hslots : d.regionSlots = d.entries + ceilDiv d.textBytes 16 + d.anchors := rfl
  rw [← hslots] at hregion
  have hplace : allocateRegion d.regionSlots s.titles.free = some (base, free) := by
    rcases hregion with ⟨hzero, rfl, rfl⟩ | ⟨hone, before, e, after, hlist, hbefore, he, rfl, rfl⟩
    · rw [allocateRegion, if_pos hzero]
    · rw [allocateRegion, if_neg (by omega), hlist, allocate_append hbefore he]
  obtain ⟨-, -, -, -, -, -, ht⟩ := id hd
  obtain ⟨-, -, -, -, htext, hin⟩ := id hrange
  have hlen : (declBytes d).length ≤ 1024 := by
    obtain ⟨hr, htc, -⟩ := id hd
    obtain ⟨⟨-, hr16⟩, ⟨-, ht8⟩, -⟩ := id hrange
    have hlr : (d.reels.flatMap (le 3 ·)).length = 3 * d.reels.length := flatMap_length_const (le_length 3) d.reels
    have hlt := tracks_length fun u hu => (ht u hu).2.1
    rw [declBytes_eq]
    simp only [List.length_append, List.length_cons, le_length, hlr, hlt]
    omega
  refine ⟨layTracks 0 (d.entries + ceilDiv d.textBytes 16) d.tracks, _,
    exec_loadOpen hp ho hlen (loadOpen_opened hp hd hnew hkey hctx hrange hlowest hplace),
    Decl.title_laidOut htext q base s.clock.h, ?_, fun i td tr htd htr => ?_, fun a => read_padded _ d base a⟩
  · have := congrArg List.length (layTracks_map id 0 (d.entries + ceilDiv d.textBytes 16) d.tracks)
    simpa using this
  · rw [layTracks_get, htd] at htr
    cases htr
    have hmem := List.mem_of_getElem? htd
    obtain ⟨hkind, hlang, -⟩ := hin td hmem
    exact ⟨kindOf_getD hkind, langOf_bytes (ht td hmem).2.1 hlang, rfl, rfl, rfl⟩

end Sys2Proof.Machine
end

/-! SUPPORT. The maps of M, and the tables of RUN and HOLD (R49, R50, R52, R59, R60). -/
section
namespace Sys2Proof.Machine
open Sys2Proof.Safety

/-! ### The maps (R49, R50) -/

theorem feedField_byte (n : Fin 4) : feedField (byte n.val).toNat = some (some n) := by
  revert n
  decide

theorem feedField_none {x : Byte} (h3 : 3 < x.toNat) (h255 : x ≠ 255) : feedField x.toNat = none := by
  have h : x.toNat ≠ 255 := fun e => h255 (BitVec.eq_of_toNat_eq e)
  rw [feedField, if_neg h, dif_neg (by omega)]

theorem airField_byte (n : Fin 2) : airField (byte (4 + n.val)).toNat = some (some n) := by
  revert n
  decide

theorem airField_none {x : Byte} (h4 : x ≠ 4) (h5 : x ≠ 5) (h255 : x ≠ 255) : airField x.toNat = none := by
  have hne : ∀ y : Byte, x ≠ y → x.toNat ≠ y.toNat := fun y h e => h (BitVec.eq_of_toNat_eq e)
  have hne255 : x.toNat ≠ 255 := hne 255 h255
  have hne4 : x.toNat ≠ 4 := hne 4 h4
  have hne5 : x.toNat ≠ 5 := hne 5 h5
  rw [airField, if_neg hne255, if_neg hne4, if_neg hne5]

/-- A body of two bytes has the length of R214 for a map request. -/
theorem pair_length (x y : Byte) : ¬[x, y].length ≠ 2 := fun h => h rfl

section
variable {tag aud port : Byte} {a : Aud} {s : State}

/-- ASSIGN.FEED with both numbers in range. -/
theorem assignFeed_taken {x : Option (Fin 4)} (hport : feedField port.toNat = some x) :
    assignFeed ⟨.m, tag, [byte a.val, port]⟩ s = (s.setShow a { s.shows[a] with feedOwner := x }, Reply.ok) := by
  have ha : at1 [byte a.val, port] 0 = a.val := (at1_cons_zero _ _).trans (byte_aud a)
  unfold assignFeed
  dsimp only
  rw [if_neg (pair_length _ _), ha, audOf_val, at1_cons_succ, at1_cons_zero, hport]

theorem assignFeed_range (h : 15 < aud.toNat ∨ feedField port.toNat = none) :
    assignFeed ⟨.m, tag, [aud, port]⟩ s = refuse .range s := by
  unfold assignFeed
  dsimp only
  rw [if_neg (pair_length _ _), at1_cons_succ, at1_cons_zero, at1_cons_zero]
  rcases h with h | h
  · rw [audOf_none (by exact h)]
  · rw [h]
    cases audOf aud.toNat <;> rfl

/-- ASSIGN.AIR with both numbers in range: a change clears the Frame Builder state. -/
theorem assignAir_taken {x : Option (Fin 2)} (hport : airField port.toNat = some x) :
    assignAir ⟨.m, tag, [byte a.val, port]⟩ s = if s.shows[a].airPort = x then (s, Reply.ok)
      else (suspendTest ((s.setShow a { s.shows[a] with airPort := x }).clearFrame a), Reply.ok) := by
  have ha : at1 [byte a.val, port] 0 = a.val := (at1_cons_zero _ _).trans (byte_aud a)
  unfold assignAir
  dsimp only
  rw [if_neg (pair_length _ _), ha, audOf_val, at1_cons_succ, at1_cons_zero, hport]

theorem assignAir_range (h : 15 < aud.toNat ∨ airField port.toNat = none) :
    assignAir ⟨.m, tag, [aud, port]⟩ s = refuse .range s := by
  unfold assignAir
  dsimp only
  rw [if_neg (pair_length _ _), at1_cons_succ, at1_cons_zero, at1_cons_zero]
  rcases h with h | h
  · rw [audOf_none (by exact h)]
  · rw [h]
    cases audOf aud.toNat <;> rfl

end

/-- Settles O31: a number in range by what its field reads, a number out of range by the field that fails. -/
theorem assignmentsSetTheMaps : Obligations.AssignmentsSetTheMaps := by
  intro tag s ho
  have hfeed : ∀ {body t x}, body.length = 2 → assignFeed ⟨.m, tag, body⟩ s = (t, x) →
      exec (.assignFeed ⟨.m, tag, body⟩) s = .next (answer .m 14 tag x t) := fun {body t x} hlen h =>
    exec_answer_of rfl (by decide) (by simp [Instr.wellFormed, Req.bodyFits, hlen, Config.maxRequestBody]) ho rfl h
  have hair : ∀ {body t x}, body.length = 2 → assignAir ⟨.m, tag, body⟩ s = (t, x) →
      exec (.assignAir ⟨.m, tag, body⟩) s = .next (answer .m 15 tag x t) := fun {body t x} hlen h =>
    exec_answer_of rfl (by decide) (by simp [Instr.wellFormed, Req.bodyFits, hlen, Config.maxRequestBody]) ho rfl h
  refine ⟨fun a x => hfeed rfl (assignFeed_taken ?_), fun a x => ?_, fun aud port =>
    ⟨fun h => hfeed rfl (assignFeed_range (h.imp_right fun hp => feedField_none hp.1 hp.2)), fun h =>
      hair rfl (assignAir_range (h.imp_right fun hp => airField_none hp.1 hp.2.1 hp.2.2))⟩⟩
  · cases x with
    | none => rfl
    | some n => exact feedField_byte n
  · have hport : airField (match x with | none => 255 | some n => byte (4 + n.val)).toNat = some x := by
      cases x with
      | none => rfl
      | some n => exact airField_byte n
    refine ⟨fun h => hair rfl ((assignAir_taken hport).trans (if_pos h)), fun h => hair rfl ?_⟩
    exact (assignAir_taken hport).trans (if_neg h)

/-! ### RUN, HOLD and the checks of DARKEN (R52, R59, R60) -/

section
variable {r : Req} {s : State} {a : Aud} {c : Code}

theorem run_error (h : admitShow r 1 false s = .error c) : run r s = refuse c s := by unfold run; rw [h]

theorem hold_error (h : admitShow r 1 false s = .error c) : hold r s = refuse c s := by unfold hold; rw [h]

theorem darken_error (h : admitShow r 1 true s = .error c) : darken r s = refuse c s := by unfold darken; rw [h]

section
variable (h : admitShow r 1 false s = .ok a)
include h

theorem run_starts (hx : s.shows[a].state = .armed ∨ s.shows[a].state = .held ∨ s.shows[a].state = .lost) :
    run r s = (startClock a s, Reply.ok) := by
  unfold run
  rw [h]
  obtain hx | hx | hx := hx <;> simp only [hx]

theorem run_stands (hx : s.shows[a].state = .running ∨ s.shows[a].state = .freewheel) : run r s = (s, Reply.ok) := by
  unfold run
  rw [h]
  obtain hx | hx := hx <;> simp only [hx]

theorem run_refused (hx : s.shows[a].state = .dark) : run r s = refuse .wrongState s := by
  unfold run
  rw [h]
  simp only [hx]

theorem hold_holds (hx : s.shows[a].state = .running ∨ s.shows[a].state = .freewheel ∨ s.shows[a].state = .lost) :
    hold r s = (holdClock a s, Reply.ok) := by
  unfold hold
  rw [h]
  obtain hx | hx | hx := hx <;> simp only [hx]

theorem hold_stands (hx : s.shows[a].state = .held) : hold r s = (s, Reply.ok) := by
  unfold hold
  rw [h]
  simp only [hx]

theorem hold_refused (hx : s.shows[a].state = .armed ∨ s.shows[a].state = .dark) : hold r s = refuse .wrongState s := by
  unfold hold
  rw [h]
  obtain hx | hx := hx <;> simp only [hx]

end

end

/-- Settles O33: the checks of R52 for the three requests, then the table of each state. -/
theorem runAndHoldFollowTheirTables : Obligations.RunAndHoldFollowTheirTables := by
  intro n tag s ho
  have hrun : ∀ {b t x}, run ⟨.feed n, tag, [b]⟩ s = (t, x) →
      exec (.run ⟨.feed n, tag, [b]⟩) s = .next (answer (.feed n) 2 tag x t) := fun h =>
    exec_answer_of rfl (by decide) rfl ho rfl h
  have hhold : ∀ {b t x}, hold ⟨.feed n, tag, [b]⟩ s = (t, x) →
      exec (.hold ⟨.feed n, tag, [b]⟩) s = .next (answer (.feed n) 3 tag x t) := fun h =>
    exec_answer_of rfl (by decide) rfl ho rfl h
  have hdarken : ∀ {b t x}, darken ⟨.feed n, tag, [b]⟩ s = (t, x) →
      exec (.darken ⟨.feed n, tag, [b]⟩) s = .next (answer (.feed n) 4 tag x t) := fun h =>
    exec_answer_of rfl (by decide) rfl ho rfl h
  have hall : ∀ b c, (∀ mToo, admitShow ⟨.feed n, tag, [b]⟩ 1 mToo s = .error c) → _ ∧ _ ∧ _ := fun b c h =>
    ⟨hrun (run_error (h false)), hhold (hold_error (h false)), hdarken (darken_error (h true))⟩
  have haud : ∀ (a : Aud) mToo, admitShow ⟨.feed n, tag, [byte a.val]⟩ 1 mToo s =
      if s.shows[a].feedOwner = some n then .ok a else .error .notOwner := fun a _ =>
    admitShow_aud rfl ((at1_cons_zero _ _).trans (byte_aud a))
  refine ⟨fun aud haud => hall aud _ fun _ => admitShow_range rfl (by rwa [at1_cons_zero]), fun a => ?_⟩
  refine ⟨fun hown => hall _ _ fun mToo => (haud a mToo).trans (if_neg hown), fun hown => ?_⟩
  have hok := (haud a false).trans (if_pos hown)
  exact ⟨fun h => hrun (run_starts hok h), fun h => hrun (run_stands hok h), fun h => hrun (run_refused hok h),
    fun h => hhold (hold_holds hok h), fun h => hhold (hold_stands hok h), fun h => hhold (hold_refused hok h)⟩

end Sys2Proof.Machine
end

/-! SUPPORT. The edges of an event: what each release and request does to the entries, the UNSERVED marks and the cursors, and what all of them leave (R130, R131, R164, R165). -/
section
namespace Sys2Proof.Machine
open Sys2Proof.Safety

/-! ### Which entry serves a track -/

/-- Stream entry `i` serves the track (R162). -/
def StreamBlock.Serves (b : StreamBlock) (i : StreamNo) (a : Aud) (v : TrackNo) : Prop :=
  b.entries[i].alloc = true ∧ b.entries[i].aud = a ∧ b.entries[i].track = v

section
variable {b c : StreamBlock} {i j : StreamNo} {a e : Aud} {v w : TrackNo}

theorem StreamBlock.streamOf_test :
    (b.entries[i].alloc && b.entries[i].aud == a && b.entries[i].track == v) = true ↔ b.Serves i a v := by
  simp [StreamBlock.Serves, and_assoc]

theorem StreamBlock.streamOf_eq_some :
    b.streamOf a v = some i ↔ b.Serves i a v ∧ ∀ j, j < i → ¬b.Serves j a v := by
  unfold StreamBlock.streamOf
  rw [find?_eq_some_iff_lowest all24_rising mem_all24, streamOf_test]
  simp only [← streamOf_test, Bool.not_eq_true]

theorem StreamBlock.streamOf_eq_none : b.streamOf a v = none ↔ ∀ i, ¬b.Serves i a v := by
  unfold StreamBlock.streamOf
  rw [List.find?_eq_none]
  exact ⟨fun h i hi => h i (mem_all24 i) (streamOf_test.2 hi), fun h i _ e => h i (streamOf_test.1 e)⟩

theorem StreamBlock.streamOf_isSome : (b.streamOf a v).isSome = true ↔ ∃ i, b.Serves i a v := by
  rw [← not_iff_not, Bool.not_eq_true, Option.isSome_eq_false_iff, Option.isNone_iff_eq_none, streamOf_eq_none]
  push Not
  rfl

theorem StreamBlock.Serves.congr (h : c.entries[i] = b.entries[i]) : c.Serves i a v ↔ b.Serves i a v := by
  unfold StreamBlock.Serves
  rw [h]

/-- An entry serves one track. -/
theorem StreamBlock.Serves.inj (h : b.Serves i a v) (h' : b.Serves i e w) : a = e ∧ v = w :=
  ⟨h.2.1.symm.trans h'.2.1, h.2.2.symm.trans h'.2.2⟩

theorem StreamBlock.mark_unserved (b : StreamBlock) (a : Aud) (v : TrackNo) (x : Bool) (e : Aud) (w : TrackNo) :
    (b.mark a v x).unserved[e][w] = if a = e ∧ v = w then x else b.unserved[e][w] := by
  rw [StreamBlock.mark_eq]
  by_cases h : a = e
  · subst h
    rw [setAt_self]
    by_cases h' : v = w
    · subst h'
      rw [setAt_self, if_pos ⟨rfl, rfl⟩]
    · rw [setAt_other _ _ h', if_neg fun x => h' x.2]
  · rw [setAt_other _ _ h, if_neg fun x => h x.1]

end

section
variable {s u : State} {i j : StreamNo} {a e : Aud} {v w : TrackNo} {p : Aud × TrackNo}

theorem Allocated.serves (h : Allocated i a v s u) : u.stream.Serves i a v := ⟨h.alloc, h.aud, h.track⟩

theorem Allocated.serves_other (h : Allocated i a v s u) (hj : j ≠ i) : u.stream.Serves j e w ↔ s.stream.Serves j e w :=
  StreamBlock.Serves.congr (h.others j hj)

theorem State.freeStream_entry (s : State) (i : StreamNo) :
    (s.freeStream i).stream.entries[i] = s.stream.entries[i].release := setAt_self _ _ _

theorem State.freeStream_other (s : State) (h : j ≠ i) : (s.freeStream i).stream.entries[j] = s.stream.entries[j] :=
  setAt_other _ _ h.symm

theorem State.freeStream_serves : (s.freeStream i).stream.Serves j e w ↔ j ≠ i ∧ s.stream.Serves j e w := by
  by_cases h : j = i
  · subst h
    refine iff_of_false (fun hj => ?_) fun hj => hj.1 rfl
    rw [StreamBlock.Serves, s.freeStream_entry] at hj
    cases hj.1
  · rw [StreamBlock.Serves.congr (s.freeStream_other h)]
    exact (and_iff_right h).symm

/-! ### What a request and a release can do -/

/-- The state with a track denied a stream (R164). -/
def State.denyStream (s : State) (p : Aud × TrackNo) : State :=
  { s with
    stream := { s.stream.mark p.1 p.2 true with denials := bump s.stream.denials }
    link := s.link.latchStreamDenied p.1 }

/-- The state with the UNSERVED mark of a track cleared. -/
def State.unmark (s : State) (p : Aud × TrackNo) : State := { s with stream := s.stream.mark p.1 p.2 false }

/-- What a stream request leaves: a FREE entry granted, or the track marked (R164). -/
inductive Requested (s : State) (p : Aud × TrackNo) (u : State) : Prop where
  | granted (i : StreamNo) (hfree : s.stream.entries[i].alloc = false) (h : Allocated i p.1 p.2 s u)
  | denied (h : u = s.denyStream p)

/-- What a release leaves: a mark cleared, nothing changed, an entry freed, or one freed and handed on (R165). -/
inductive Released (s : State) (p : Aud × TrackNo) (u : State) : Prop where
  | unmarked (hmark : s.stream.unserved[p.1][p.2] = true) (h : u = s.unmark p)
  | streamless (hmark : s.stream.unserved[p.1][p.2] = false) (hnone : s.stream.streamOf p.1 p.2 = none) (h : u = s)
  | freed (i : StreamNo) (hmark : s.stream.unserved[p.1][p.2] = false) (hsome : s.stream.streamOf p.1 p.2 = some i)
      (h : u = s.freeStream i)
  | handedOn (i : StreamNo) (x : Aud × TrackNo) (hmark : s.stream.unserved[p.1][p.2] = false)
      (hsome : s.stream.streamOf p.1 p.2 = some i) (hx : Waits s x) (hu : u = allocateStream i x.1 x.2 ((s.freeStream i).unmark x))
      (h : Allocated i x.1 x.2 ((s.freeStream i).unmark x) u)

theorem requestStream_requested (s : State) (p : Aud × TrackNo) : Requested s p (requestStream s p) := by
  cases h : s.stream.lowestFree with
  | none => exact .denied (requestStream_denied h p)
  | some i =>
    rw [requestStream_granted h]
    exact .granted i (StreamBlock.lowestFree_eq_some.1 h).1 (allocateStream_allocated i p.1 p.2 s)

theorem releaseStream_released (s : State) (p : Aud × TrackNo) : Released s p (releaseStream s p) := by
  cases hmark : s.stream.unserved[p.1][p.2] with
  | true => exact .unmarked hmark (releaseStream_unserved hmark)
  | false =>
    cases hp : s.stream.streamOf p.1 p.2 with
    | none => exact .streamless hmark hp (releaseStream_streamless hmark hp)
    | some i =>
      rw [releaseStream_frees hmark hp]
      cases hx : waitingTrack (s.freeStream i) with
      | none => exact .freed i hmark hp (handOnEntry_none hx i)
      | some x =>
        rw [handOnEntry_some hx]
        exact .handedOn i x hmark hp (waits_freeStream.1 (waitingTrack_waits hx)) rfl (allocateStream_allocated i x.1 x.2 _)

/-! ### Every rising edge is handed on (R130, R164) -/

/-- The track has a stream, or is marked UNSERVED. -/
def Handled (s : State) (a : Aud) (v : TrackNo) : Prop :=
  (∃ i, s.stream.Serves i a v) ∨ s.stream.unserved[a][v] = true

theorem Allocated.handled (h : Allocated i p.1 p.2 s u) (hfree : s.stream.entries[i].alloc = false)
    (hs : Handled s a v) : Handled u a v := by
  rcases hs with ⟨j, hj⟩ | hmark
  · refine .inl ⟨j, (h.serves_other ?_).2 hj⟩
    rintro rfl
    rw [StreamBlock.Serves, hfree] at hj
    cases hj.1
  · exact .inr (by rw [h.unserved]; exact hmark)

theorem Requested.handled (h : Requested s p u) (hs : (a, v) = p ∨ Handled s a v) : Handled u a v := by
  cases h with
  | granted i hfree h =>
    rcases hs with rfl | hs
    · exact .inl ⟨i, h.serves⟩
    · exact h.handled hfree hs
  | denied h =>
    subst h
    have hmark : (s.denyStream p).stream.unserved[a][v] = if p.1 = a ∧ p.2 = v then true else s.stream.unserved[a][v] :=
      s.stream.mark_unserved p.1 p.2 true a v
    rcases hs with rfl | ⟨i, hi⟩ | hs
    · exact .inr (by rw [hmark, if_pos ⟨rfl, rfl⟩])
    · exact .inl ⟨i, hi⟩
    · refine .inr ?_
      rw [hmark, hs]
      exact ite_self _

theorem requests_handled (l : List (Aud × TrackNo)) {s : State} (hs : (a, v) ∈ l ∨ Handled s a v) :
    Handled (l.foldl requestStream s) a v := by
  induction l generalizing s with
  | nil => exact hs.resolve_left (by simp)
  | cons p l ih =>
    refine ih ?_
    rcases hs with hs | hs
    · rcases List.mem_cons.1 hs with hp | hl
      · exact .inr ((requestStream_requested s p).handled (.inl hp))
      · exact .inl hl
    · exact .inr ((requestStream_requested s p).handled (.inr hs))

theorem mem_risingEdges {before : Vector (Vector Nat 8) 16} : (a, v) ∈ risingEdges before s ↔
    isKind s .description a v = true ∧ before[a][v] = 0 ∧ 1 ≤ s.rcv.counts[a][v] := by
  unfold risingEdges
  simp only [List.mem_filter, mem_allPairs, true_and, Bool.and_eq_true, beq_iff_eq, decide_eq_true_eq, and_assoc]

theorem mem_fallingEdges {before : Vector (Vector Nat 8) 16} : (a, v) ∈ fallingEdges before s ↔
    isKind s .description a v = true ∧ 1 ≤ before[a][v] ∧ s.rcv.counts[a][v] = 0 := by
  unfold fallingEdges
  simp only [List.mem_filter, mem_allPairs, true_and, Bool.and_eq_true, beq_iff_eq, decide_eq_true_eq, and_assoc]

/-- A track's kind reads the contexts and the titles alone. -/
theorem StreamFrame.isKind (h : StreamFrame s u) (k : TrackKind) (a : Aud) (v : TrackNo) :
    Machine.isKind u k a v = Machine.isKind s k a v := by
  unfold Machine.isKind
  rw [trackOf_congr (by rw [h.shows]) (fun x _ => h.title x) v]

theorem handEdges_edgesHandled (before : Vector (Vector Nat 8) 16) (s : State) : edgesHandled before (handEdges before s) := by
  have hframe := handEdges_frame before s
  intro a v hkind hbefore hnow
  rw [hframe.isKind] at hkind
  rw [hframe.rcv] at hnow
  rw [StreamBlock.streamOf_isSome]
  exact requests_handled _ (.inl (mem_risingEdges.2 ⟨hkind, hbefore, hnow⟩))

end

/-! ### A cursor moves only where a stream was granted (R166) -/

section
variable {s u : State} {i : StreamNo} {a e : Aud} {v w : TrackNo} {p : Aud × TrackNo} {c : CueBlock}

theorem lookup_cursor_other (sair : Nat) (h : ¬(a = e ∧ v = w)) :
    (lookup s a v sair).2.cursor e w = s.cues.cursor e w := by
  unfold lookup
  split
  · rfl
  · split
    · rfl
    · rw [lookupTrack_cursor, if_neg h]

theorem startFill_cursor_other (h : ¬(s.stream.entries[i].aud = e ∧ s.stream.entries[i].track = w)) :
    (startFill i s).cues.cursor e w = s.cues.cursor e w := by
  unfold startFill
  dsimp only
  split
  · rfl
  · generalize hu : ({ s with
      cues := (lookup s s.stream.entries[i].aud s.stream.entries[i].track (airing s s.stream.entries[i].aud)).2,
      stream := _ } : State) = u
    obtain ⟨b, hb⟩ := fill_eq i u
    rw [hb, ← hu]
    exact lookup_cursor_other _ h

theorem allocateStream_cursor_other (h : ¬(a = e ∧ v = w)) :
    (allocateStream i a v s).cues.cursor e w = s.cues.cursor e w := by
  rw [allocateStream_eq]
  have hself : (s.stream.setEntry i (s.stream.entries[i].granted a v)).entries[i] = s.stream.entries[i].granted a v :=
    setAt_self _ _ _
  refine startFill_cursor_other ?_
  rw [hself]
  exact h

/-- Every cursor is as in `c`, but for those of tracks with a subscriber and a stream. -/
def CursorsServed (c : CueBlock) (s : State) : Prop :=
  ∀ a v, s.cues.cursor a v = c.cursor a v ∨ 1 ≤ s.rcv.counts[a][v] ∧ ∃ i, s.stream.Serves i a v

theorem allocateStream_cursorsServed (hs : CursorsServed c s) (hcount : 1 ≤ s.rcv.counts[a][v])
    (hfree : s.stream.entries[i].alloc = false) : CursorsServed c (allocateStream i a v s) := by
  have h := allocateStream_allocated i a v s
  have hrcv := (allocateStream_frame i a v s).rcv
  intro e w
  rw [hrcv]
  by_cases he : a = e ∧ v = w
  · obtain ⟨rfl, rfl⟩ := he
    exact .inr ⟨hcount, i, h.serves⟩
  · rw [allocateStream_cursor_other he]
    refine (hs e w).imp_right (And.imp_right ?_)
    rintro ⟨j, hj⟩
    refine ⟨j, (h.serves_other ?_).2 hj⟩
    rintro rfl
    rw [StreamBlock.Serves, hfree] at hj
    cases hj.1

theorem requestStream_cursorsServed (hs : CursorsServed c s) (hcount : 1 ≤ s.rcv.counts[p.1][p.2]) :
    CursorsServed c (requestStream s p) := by
  cases h : s.stream.lowestFree with
  | none =>
    rw [requestStream_denied h]
    exact hs
  | some i =>
    rw [requestStream_granted h]
    exact allocateStream_cursorsServed hs hcount (StreamBlock.lowestFree_eq_some.1 h).1

theorem freeStream_cursorsServed (hs : CursorsServed c s) (hcount : s.rcv.counts[p.1][p.2] = 0)
    (hi : s.stream.Serves i p.1 p.2) : CursorsServed c (s.freeStream i) := by
  intro e w
  refine (hs e w).imp_right ?_
  rintro ⟨hpos, j, hj⟩
  refine ⟨hpos, j, State.freeStream_serves.2 ⟨?_, hj⟩⟩
  rintro rfl
  obtain ⟨rfl, rfl⟩ := hj.inj hi
  exact absurd hpos (by rw [hcount]; decide)

theorem releaseStream_cursorsServed (hs : CursorsServed c s) (hcount : s.rcv.counts[p.1][p.2] = 0) :
    CursorsServed c (releaseStream s p) := by
  cases releaseStream_released s p with
  | unmarked _ h => rw [h]; exact hs
  | streamless _ _ h => rw [h]; exact hs
  | freed i _ hsome h =>
    rw [h]
    exact freeStream_cursorsServed hs hcount (StreamBlock.streamOf_eq_some.1 hsome).1
  | handedOn i x _ hsome hx hu _ =>
    have hfreed := freeStream_cursorsServed hs hcount (StreamBlock.streamOf_eq_some.1 hsome).1
    have halloc : ((s.freeStream i).unmark x).stream.entries[i].alloc = false := congrArg Stream.alloc (s.freeStream_entry i)
    rw [hu]
    exact allocateStream_cursorsServed (s := (s.freeStream i).unmark x) hfreed hx.2 halloc

/-- A fold of operations on tracks that pass a test of the counts keeps what each of them keeps. -/
theorem foldl_keeps {P : State → Prop} {f : State → Aud × TrackNo → State} (hrcv : ∀ s p, (f s p).rcv = s.rcv)
    {q : Nat → Prop} (h : ∀ s p, q s.rcv.counts[p.1][p.2] → P s → P (f s p)) :
    ∀ (l : List (Aud × TrackNo)) (s : State), (∀ p ∈ l, q s.rcv.counts[p.1][p.2]) → P s → P (l.foldl f s) := by
  intro l
  induction l with
  | nil => exact fun _ _ hs => hs
  | cons p l ih =>
    intro s hl hs
    refine ih _ (fun p' hp' => ?_) (h s p (hl p (.head l)) hs)
    rw [hrcv]
    exact hl p' (.tail p hp')

theorem handEdges_cursorsServed (before : Vector (Vector Nat 8) 16) (hs : CursorsServed c s) :
    CursorsServed c (handEdges before s) := by
  have hreleased := foldl_keeps (P := CursorsServed c) (q := (· = 0)) (fun s p => (releaseStream_frame s p).rcv)
    (fun _ _ hq hs => releaseStream_cursorsServed hs hq) (fallingEdges before s) s
    (fun p hp => (mem_fallingEdges.1 hp).2.2) hs
  refine foldl_keeps (q := (1 ≤ ·)) (fun s p => (requestStream_frame s p).rcv)
    (fun _ _ hq hs => requestStream_cursorsServed hs hq) _ _ (fun p hp => ?_) hreleased
  rw [(StreamFrame.foldl _ releaseStream_frame (fallingEdges before s) s).rcv]
  exact (mem_risingEdges.1 hp).2.2

end

/-! ### What handing on edges changes of the Link Interface (R164) -/

theorem LinkBlock.latchStreamDenied_attention (l : LinkBlock) (a : Aud) {p : Port} (hp : p ≠ .m) :
    (l.latchStreamDenied a).attention[portIx p] = l.attention[portIx p] := by
  unfold LinkBlock.latchStreamDenied
  rw [LinkBlock.attend_attention]
  exact if_neg fun e => hp e.symm

theorem LinkBlock.DeniedFrom.butDenied {l l' : LinkBlock} (h : l.DeniedFrom l') : linkButDenied l l' := by
  obtain ⟨as, rfl⟩ := h
  induction as generalizing l with
  | nil => exact ⟨rfl, rfl, rfl, rfl, rfl, rfl, fun _ _ => rfl⟩
  | cons a as ih =>
    obtain ⟨h1, h2, h3, h4, h5, h6, h7⟩ := @ih (l.latchStreamDenied a)
    exact ⟨h1, h2, h3, h4, h5, h6, fun p hp => (h7 p hp).trans (l.latchStreamDenied_attention a hp)⟩

end Sys2Proof.Machine
end

/-! SUPPORT. A taken ARM, block by block (R56, R57). -/
section
namespace Sys2Proof.Machine
open Sys2Proof.Safety

/-! ### Re-resolution of an auditorium (R57, R128) -/

/-- Re-resolution changes the records and the counts alone. -/
theorem reresolveAud_eq (a : Aud) (s : State) : ∃ r c, reresolveAud a s = { s with rcv := { s.rcv with recs := r, counts := c } } := by
  unfold reresolveAud
  generalize allRecs = l
  induction l generalizing s with
  | nil => exact ⟨s.rcv.recs, s.rcv.counts, rfl⟩
  | cons i l ih =>
    obtain ⟨r, c, h⟩ := ih (reresolve a s i)
    refine ⟨r, c, h.trans ?_⟩
    unfold reresolve
    dsimp only
    split <;> rfl

theorem foldl_reresolve_recs {a : Aud} {j : RecNo} (l : List RecNo) {s : State} :
    (l.foldl (reresolve a) s).rcv.recs[j] =
      if j ∈ l ∧ s.rcv.recs[j].bound = true ∧ s.rcv.recs[j].aud = a then resolve s s.rcv.recs[j] else s.rcv.recs[j] := by
  induction l generalizing s with
  | nil => simp
  | cons i l ih =>
    rw [List.foldl_cons, ih, (reresolve_cueFrame a s i).resolve, reresolve_recs]
    by_cases hi : i = j ∧ s.rcv.recs[i].bound = true ∧ s.rcv.recs[i].aud = a
    · obtain ⟨rfl, hbound⟩ := hi
      simp only [hbound, and_self, if_true, resolve_resolve, ite_self, List.mem_cons_self]
    · rw [if_neg hi]
      by_cases hj : s.rcv.recs[j].bound = true ∧ s.rcv.recs[j].aud = a
      · have hne : j ≠ i := fun e => hi (e ▸ ⟨rfl, hj⟩)
        simp only [hj, and_true, List.mem_cons, hne, false_or]
      · rw [if_neg fun h => hj h.2, if_neg fun h => hj h.2]

/-- The records after re-resolution: those BOUND in the auditorium resolved. -/
theorem reresolveAud_recs (a : Aud) (s : State) (j : RecNo) : (reresolveAud a s).rcv.recs[j] =
    if s.rcv.recs[j].bound = true ∧ s.rcv.recs[j].aud = a then resolve s s.rcv.recs[j] else s.rcv.recs[j] := by
  unfold reresolveAud
  rw [foldl_reresolve_recs]
  simp only [mem_allRecs, true_and]

/-! ### A taken ARM -/

/-- The state of a taken ARM before the suspension test. -/
def armed (a : Aud) (t : TitleNo) (s : State) : State :=
  handEdges (armBound a t s).rcv.counts (reresolveAud a (armBound a t s))

section
variable (a : Aud) (t : TitleNo) (s : State)

/-- After the binding only the records, their counts and the streams change. -/
theorem armed_frame : ∃ r c, StreamFrame { armBound a t s with rcv := { s.rcv with recs := r, counts := c } } (armed a t s) := by
  obtain ⟨r, c, h⟩ := reresolveAud_eq a (armBound a t s)
  refine ⟨r, c, ?_⟩
  unfold armed
  have hframe := handEdges_frame (armBound a t s).rcv.counts (reresolveAud a (armBound a t s))
  rwa [h] at hframe ⊢

theorem armed_resolve (r : Receiver) : resolve (armed a t s) r = resolve (armBound a t s) r :=
  ((reresolveAud_cueFrame a (armBound a t s)).trans'
    (handEdges_showFrame (armBound a t s).rcv.counts _).toCueFrame).resolve r

theorem armed_recs (i : RecNo) : (armed a t s).rcv.recs[i] =
    if s.rcv.recs[i].bound = true ∧ s.rcv.recs[i].aud = a then resolve (armed a t s) s.rcv.recs[i] else s.rcv.recs[i] := by
  have hrcv : (armed a t s).rcv = (reresolveAud a (armBound a t s)).rcv := (handEdges_frame _ _).rcv
  have hbound : (armBound a t s).rcv = s.rcv := rfl
  rw [hrcv, reresolveAud_recs, armed_resolve, hbound]

theorem armed_countLaw (h : CountLaw s) : CountLaw (armed a t s) :=
by
  have hkeeps : KeepsBlocks (armBound a t s) (armed a t s) :=
    (handEdges_keepsBlocks _ _).after (reresolveAud_keepsBlocks a (armBound a t s))
  have hrcv : (armBound a t s).rcv = s.rcv := rfl
  exact (countLaw_iff _).mpr (hkeeps.rcv.counts (hrcv ▸ (countLaw_iff s).mp h))

theorem armBound_inUse (c : ClipNo) :
    (armBound a t s).store.inUse[c] = s.store.inUse[c] + (s.title t).clips.count c.val := countClips_succ _ _ _

/-- The cursors of the auditorium are clear, but for those of its streams (R97, R166). -/
theorem armed_cursors (v : TrackNo) (h : (armed a t s).stream.streamOf a v = none) :
    (armed a t s).cues.cursors[a][v] = Cursor.clear := by
  have hcues := (reresolveAud_eq a (armBound a t s))
  have hserved : CursorsServed (armBound a t s).cues (armed a t s) := by
    refine handEdges_cursorsServed _ fun e w => .inl ?_
    obtain ⟨r, c, hcues⟩ := hcues
    rw [hcues]
  have hclear := armBound_cursor a t s a v
  rcases hserved a v with hcursor | ⟨-, hserves⟩
  · rw [if_pos rfl] at hclear
    exact hcursor.trans hclear
  · rw [← StreamBlock.streamOf_isSome, h] at hserves
    cases hserves

end

/-- Settles O32: the binding, the records resolved, and the edges handed on. -/
theorem armBindsTheAuditorium : Obligations.ArmBindsTheAuditorium := by
  intro n tag a t s ho hown hdark hready hconflict ti
  have harm : arm ⟨.feed n, tag, [byte a.val, byte (t.val + 1)]⟩ s = (armTaken a t s, Reply.ok) := by
    rw [arm_title hown hdark, if_neg (not_not.mpr hready), if_neg (mt armConflict_iff.mp hconflict)]
  obtain ⟨r, c, hframe⟩ := armed_frame a t s
  have hrcv : (armed a t s).rcv = { s.rcv with recs := r, counts := c } := hframe.rcv
  have hstore : (armed a t s).store = (armBound a t s).store := hframe.store
  refine ⟨armed a t s, exec_answer_of rfl (by decide) rfl ho rfl harm, hframe.shows, hframe.titles, fun c => ?_, ?_, hframe.clock,
    hframe.frame, armed_cursors a t s, armed_recs a t s, ?_, armed_countLaw a t s, ?_, hframe.link.butDenied, hframe.loader,
    hframe.due, hframe.freeCount, hframe.pending⟩
  · rw [hstore, armBound_inUse]
  · rw [hstore]
    rfl
  · rw [hrcv]
  · exact handEdges_edgesHandled _ _

end Sys2Proof.Machine
end

/-! SUPPORT. A taken DARKEN: the releases of an auditorium's streams, and the title let go (R61, R165). -/
section
namespace Sys2Proof.Machine
open Sys2Proof.Safety

/-! ### The entries and marks that a release changes (R165) -/

section
variable {s u : State} {p : Aud × TrackNo} {i j : StreamNo} {a e : Aud} {v w : TrackNo}

theorem State.unmark_unserved (s : State) (p : Aud × TrackNo) (e : Aud) (w : TrackNo) :
    (s.unmark p).stream.unserved[e][w] = if p.1 = e ∧ p.2 = w then false else s.stream.unserved[e][w] :=
  s.stream.mark_unserved p.1 p.2 false e w

/-- A release sets no mark. -/
theorem Released.mark_stays_clear (h : Released s p u) (hmark : s.stream.unserved[e][w] = false) :
    u.stream.unserved[e][w] = false := by
  have hunmark : ∀ x, (s.unmark x).stream.unserved[e][w] = false := fun x => by
    rw [s.unmark_unserved, hmark]
    exact ite_self _
  cases h with
  | unmarked _ h => rw [h]; exact hunmark p
  | streamless _ _ h => rw [h]; exact hmark
  | freed i _ _ h => rw [h]; exact hmark
  | handedOn i x _ _ _ _ h => rw [h.unserved]; exact hunmark x

/-- A release clears the mark of its track. -/
theorem Released.mark_cleared (h : Released s p u) : u.stream.unserved[p.1][p.2] = false := by
  cases hmark : s.stream.unserved[p.1][p.2] with
  | false => exact h.mark_stays_clear hmark
  | true =>
    cases h with
    | unmarked _ h => rw [h, s.unmark_unserved, if_pos ⟨rfl, rfl⟩]
    | streamless hmark' _ _ => rw [hmark] at hmark'; cases hmark'
    | freed _ hmark' _ _ => rw [hmark] at hmark'; cases hmark'
    | handedOn _ _ hmark' _ _ _ _ => rw [hmark] at hmark'; cases hmark'

/-- A release leaves every entry that does not serve its track. -/
theorem Released.entry_other (h : Released s p u) (hj : ¬s.stream.Serves j p.1 p.2) :
    u.stream.entries[j] = s.stream.entries[j] := by
  have hne : ∀ {i}, s.stream.streamOf p.1 p.2 = some i → j ≠ i := fun hsome e =>
    hj (e ▸ (StreamBlock.streamOf_eq_some.1 hsome).1)
  cases h with
  | unmarked _ h => rw [h]; rfl
  | streamless _ _ h => rw [h]
  | freed i _ hsome h => rw [h, s.freeStream_other (hne hsome)]
  | handedOn i x _ hsome _ _ h => rw [h.others j (hne hsome)]; exact s.freeStream_other (hne hsome)

/-- A release of the track that an entry serves raises its generation, and leaves it FREE or with a track that waited. -/
theorem Released.entry_freed (h : Released s p u) (hmark : s.stream.unserved[p.1][p.2] = false)
    (hi : s.stream.streamOf p.1 p.2 = some i) :
    u.stream.entries[i].generation = s.stream.entries[i].generation + 1 ∧
      (u.stream.entries[i].alloc = true → Waits s (u.stream.entries[i].aud, u.stream.entries[i].track)) := by
  cases h with
  | unmarked hmark' _ => rw [hmark] at hmark'; cases hmark'
  | streamless _ hnone _ => rw [hi] at hnone; cases hnone
  | freed k _ hsome h =>
    cases hi.symm.trans hsome
    rw [h, s.freeStream_entry]
    exact ⟨rfl, fun halloc => nomatch halloc⟩
  | handedOn k x _ hsome hx _ h =>
    cases hi.symm.trans hsome
    have hgen : ((s.freeStream i).unmark x).stream.entries[i].generation = s.stream.entries[i].generation + 1 :=
      congrArg Stream.generation (s.freeStream_entry i)
    rw [h.generation, h.aud, h.track, hgen]
    exact ⟨rfl, fun _ => hx⟩

/-- An entry serves a track of an auditorium without subscribers after the release of another track as before. -/
theorem Released.serves_iff (h : Released s p u) (hcount : ∀ w : TrackNo, s.rcv.counts[a][w] = 0) (hp : (a, v) ≠ p) :
    u.stream.Serves j a v ↔ s.stream.Serves j a v := by
  by_cases hj : s.stream.Serves j p.1 p.2
  · refine iff_of_false (fun hu => ?_) fun hs => hp (Prod.ext (hs.inj hj).1 (hs.inj hj).2)
    have hwaits : ∀ x, Waits s x → x.1 ≠ a := by
      rintro ⟨b, w⟩ ⟨-, hpos⟩ rfl
      rw [hcount] at hpos
      cases hpos
    cases h with
    | unmarked _ h => rw [h] at hu; exact hp (Prod.ext (hu.inj hj).1 (hu.inj hj).2)
    | streamless _ hnone _ => exact StreamBlock.streamOf_eq_none.1 hnone j hj
    | freed i _ _ h =>
      rw [h, State.freeStream_serves] at hu
      exact hp (Prod.ext (hu.2.inj hj).1 (hu.2.inj hj).2)
    | handedOn i x _ _ hx _ h =>
      by_cases hji : j = i
      · subst hji
        exact hwaits x hx (h.serves.inj hu).1
      · rw [h.serves_other hji] at hu
        have hu := (State.freeStream_serves.1 hu).2
        exact hp (Prod.ext (hu.inj hj).1 (hu.inj hj).2)
  · exact StreamBlock.Serves.congr (h.entry_other hj)

theorem StreamBlock.streamOf_congr {b c : StreamBlock} (h : ∀ j, c.Serves j a v ↔ b.Serves j a v) :
    c.streamOf a v = b.streamOf a v := by
  refine Option.ext fun i => ?_
  rw [← Option.mem_def, ← Option.mem_def, Option.mem_def, Option.mem_def, streamOf_eq_some, streamOf_eq_some]
  simp only [h]

end

/-! ### The releases of an auditorium without subscribers -/

/-- Entry `k` serves the track, of generation `g`. -/
def ServedBy (a : Aud) (v : TrackNo) (k : StreamNo) (g : BitVec 8) (s : State) : Prop :=
  s.stream.unserved[a][v] = false ∧ s.stream.streamOf a v = some k ∧ s.stream.entries[k].generation = g

/-- Entry `k` serves no track of the auditorium, of generation `g`. -/
def GoneFrom (a : Aud) (k : StreamNo) (g : BitVec 8) (s : State) : Prop :=
  s.stream.entries[k].generation = g ∧ (s.stream.entries[k].alloc = true → s.stream.entries[k].aud ≠ a)

section
variable {s : State} {a : Aud} {v : TrackNo} {k : StreamNo} {g : BitVec 8} {p : Aud × TrackNo}

theorem ServedBy.release_other (h : ServedBy a v k g s) (hcount : ∀ w : TrackNo, s.rcv.counts[a][w] = 0) (hp : (a, v) ≠ p) :
    ServedBy a v k g (releaseStream s p) := by
  obtain ⟨hmark, hstream, hgen⟩ := h
  have hr := releaseStream_released s p
  have hk := (StreamBlock.streamOf_eq_some.1 hstream).1
  refine ⟨hr.mark_stays_clear hmark, ?_, ?_⟩
  · rw [StreamBlock.streamOf_congr fun j => hr.serves_iff hcount hp]
    exact hstream
  · rw [hr.entry_other fun hk' => hp (Prod.ext (hk.inj hk').1 (hk.inj hk').2)]
    exact hgen

theorem ServedBy.release (h : ServedBy a v k g s) (hcount : ∀ w : TrackNo, s.rcv.counts[a][w] = 0) :
    GoneFrom a k (g + 1) (releaseStream s (a, v)) := by
  obtain ⟨hmark, hstream, hgen⟩ := h
  obtain ⟨hgen', hwaits⟩ := (releaseStream_released s (a, v)).entry_freed hmark hstream
  refine ⟨hgen'.trans (congrArg (· + 1) hgen), fun halloc haud => ?_⟩
  obtain ⟨-, hpos⟩ := hwaits halloc
  simp only [haud] at hpos
  rw [hcount] at hpos
  cases hpos

theorem GoneFrom.release (h : GoneFrom a k g s) (hp : p.1 = a) : GoneFrom a k g (releaseStream s p) := by
  have hentry := (releaseStream_released s p).entry_other (j := k) fun hk => h.2 hk.1 (hk.2.1.trans hp)
  unfold GoneFrom
  rw [hentry]
  exact h

theorem releases_servedBy (hcount : ∀ w : TrackNo, s.rcv.counts[a][w] = 0) (l : List (Aud × TrackNo)) (hl : (a, v) ∉ l)
    (h : ServedBy a v k g s) : ServedBy a v k g (l.foldl releaseStream s) := by
  induction l generalizing s with
  | nil => exact h
  | cons p l ih =>
    refine ih (fun w => ?_) (fun hmem => hl (.tail p hmem)) (h.release_other hcount fun e => hl (e ▸ .head l))
    rw [(releaseStream_frame s p).rcv]
    exact hcount w

theorem releases_goneFrom (l : List (Aud × TrackNo)) (hl : ∀ p ∈ l, p.1 = a) (h : GoneFrom a k g s) :
    GoneFrom a k g (l.foldl releaseStream s) :=
  List.foldlRecOn l releaseStream (motive := GoneFrom a k g) h fun _ hu p hp => hu.release (hl p hp)

/-- The entry of a released track ends with its generation one higher, and with no track of the auditorium. -/
theorem releases_entry (hcount : ∀ w : TrackNo, s.rcv.counts[a][w] = 0) {l : List (Aud × TrackNo)} (hl : ∀ p ∈ l, p.1 = a)
    (hv : (a, v) ∈ l) (h : ServedBy a v k g s) : GoneFrom a k (g + 1) (l.foldl releaseStream s) := by
  obtain ⟨before, after, rfl, hbefore⟩ := List.eq_append_cons_of_mem hv
  rw [List.foldl_append, List.foldl_cons]
  refine releases_goneFrom after (fun p hp => hl p (by simp [hp])) (ServedBy.release (releases_servedBy hcount before hbefore h) ?_)
  intro w
  rw [(StreamFrame.foldl _ releaseStream_frame before s).rcv]
  exact hcount w

/-- The mark of a released track ends clear. -/
theorem releases_mark {l : List (Aud × TrackNo)} (hv : (a, v) ∈ l) :
    (l.foldl releaseStream s).stream.unserved[a][v] = false := by
  obtain ⟨before, after, rfl, -⟩ := List.eq_append_cons_of_mem hv
  rw [List.foldl_append, List.foldl_cons]
  refine List.foldlRecOn after releaseStream (motive := fun u => u.stream.unserved[a][v] = false) ?_
    fun _ hu p _ => (releaseStream_released _ p).mark_stays_clear hu
  exact (releaseStream_released _ (a, v)).mark_cleared

/-- A release latches nothing. -/
theorem releaseStream_link (s : State) (p : Aud × TrackNo) : (releaseStream s p).link = s.link := by
  cases releaseStream_released s p with
  | unmarked _ h => rw [h]; rfl
  | streamless _ _ h => rw [h]
  | freed _ _ _ h => rw [h]; rfl
  | handedOn _ _ _ _ _ _ h => rw [h.link]; rfl

theorem releases_link (l : List (Aud × TrackNo)) (s : State) : (l.foldl releaseStream s).link = s.link :=
  List.foldlRecOn l releaseStream (motive := fun u => u.link = s.link) rfl fun u hu p _ => (releaseStream_link u p).trans hu

end

/-! ### A taken DARKEN -/

section
variable {a : Aud} {s : State}

/-- The edges of a DARKEN all fall, on tracks of the auditorium. -/
theorem darken_edges (a : Aud) (s : State) : handEdges s.rcv.counts (unresolveAud a s) =
    (fallingEdges s.rcv.counts (unresolveAud a s)).foldl releaseStream (unresolveAud a s) := by
  have hfalls : ∀ (b : Aud) (v : TrackNo), (unresolveAud a s).rcv.counts[b][v] ≤ s.rcv.counts[b][v] := fun b v => by
    rw [unresolveAud_count]
    split
    · exact Nat.zero_le _
    · exact Nat.le_refl _
  generalize unresolveAud a s = u at hfalls
  exact handEdges_of_falls hfalls

theorem darken_falls {p : Aud × TrackNo} (h : p ∈ fallingEdges s.rcv.counts (unresolveAud a s)) : p.1 = a := by
  obtain ⟨-, hbefore, hnow⟩ := mem_fallingEdges.1 h
  rw [unresolveAud_count] at hnow
  by_contra hne
  rw [if_neg fun e => hne e.symm] at hnow
  rw [hnow] at hbefore
  cases hbefore

theorem unresolveAud_isKind (a : Aud) (s : State) (k : TrackKind) (b : Aud) (v : TrackNo) :
    isKind (unresolveAud a s) k b v = isKind s k b v := by
  unfold isKind
  rw [trackOf_congr (by rw [(unresolveAud_sameShows a s).shows]) (fun x _ => title_congr (unresolveAud_titles a s) x) v]

theorem darkenReady_stream (a : Aud) (s : State) : (darkenReady a s).stream =
    ((fallingEdges s.rcv.counts (unresolveAud a s)).foldl releaseStream (unresolveAud a s)).stream := by
  rw [← darken_edges]
  unfold darkenReady
  rfl

theorem darkenReady_link (a : Aud) (s : State) : (darkenReady a s).link = s.link := by
  have hlink : (darkenReady a s).link = (handEdges s.rcv.counts (unresolveAud a s)).link := by unfold darkenReady; rfl
  rw [hlink, darken_edges, releases_link]
  simp only [unresolveAud]

/-- A description track that loses its subscribers to a DARKEN loses its mark or its stream. -/
theorem darkenReady_releases {v : TrackNo} (hkind : isKind s .description a v = true) (hcount : 1 ≤ s.rcv.counts[a][v]) :
    (darkenReady a s).stream.unserved[a][v] = false ∧
      ∀ k, s.stream.isUnserved a v = false → s.stream.streamOf a v = some k →
        GoneFrom a k (s.stream.entries[k].generation + 1) (darkenReady a s) := by
  have hzero : ∀ w : TrackNo, (unresolveAud a s).rcv.counts[a][w] = 0 := fun w => by rw [unresolveAud_count, if_pos rfl]
  have hmem : (a, v) ∈ fallingEdges s.rcv.counts (unresolveAud a s) :=
    mem_fallingEdges.2 ⟨(unresolveAud_isKind a s .description a v).trans hkind, hcount, hzero v⟩
  have hsame : (unresolveAud a s).stream = s.stream := by simp only [unresolveAud]
  unfold GoneFrom
  rw [darkenReady_stream]
  refine ⟨releases_mark hmem, fun k hmark hstream => releases_entry hzero (fun _ hp => darken_falls hp) hmem ?_⟩
  rw [ServedBy, hsame]
  exact ⟨hmark, hstream, rfl⟩

/-- The state of a DARKEN with its title let go, block by block (R61). -/
theorem unbindTitle_eq {t : TitleNo} (h : s.shows[a].title = some t) : unbindTitle a s =
    { s with
      titles := { s.titles with recs := setAt s.titles.recs t { s.title t with refs := (s.title t).refs - 1 } }
      store := { s.store with inUse := countClips (· - 1) (s.title t).clips s.store.inUse }
      shows := setAt s.shows a { s.shows[a] with state := .dark, title := none } } := by
  unfold unbindTitle
  rw [h]
  rfl

theorem unresolveAud_eq (a : Aud) (s : State) :
    ∃ r c, unresolveAud a s = { s with rcv := { s.rcv with recs := r, counts := c } } := by
  unfold unresolveAud
  exact ⟨_, _, rfl⟩

theorem darkenReady_rcv (a : Aud) (s : State) : (darkenReady a s).rcv = (unresolveAud a s).rcv := by
  unfold darkenReady
  exact (handEdges_frame _ _).rcv

/-- Before the title is let go a DARKEN has changed records, counts, streams and cursors, and cleared the Frame Builder state. -/
theorem darkenReady_frame (a : Aud) (s : State) : ∃ r c,
    StreamFrame ({ s with rcv := { s.rcv with recs := r, counts := c } }.clearFrame a) (darkenReady a s) := by
  obtain ⟨r, c, h⟩ := unresolveAud_eq a s
  refine ⟨r, c, ?_⟩
  unfold darkenReady
  rw [h]
  generalize ({ s with rcv := { s.rcv with recs := r, counts := c } } : State) = w
  obtain ⟨hlink, htitles, hloader, hshows, hclock, hrcv, hframe, hstore, hdue, hfree, hpending⟩ :=
    handEdges_frame s.rcv.counts w
  refine ⟨hlink, htitles, hloader, hshows, hclock, hrcv, ?_, hstore, hdue, hfree, hpending⟩
  exact congrArg (fun f : FrameBlock => ({ f with auds := modAt f.auds a (·.clear) } : FrameBlock)) hframe

theorem darkenReady_cursors (v : TrackNo) : (darkenReady a s).cues.cursors[a][v] = Cursor.clear := by
  have h := clear_cursor (handEdges s.rcv.counts (unresolveAud a s)).cues a a v
  rwa [if_pos rfl] at h

end

section
variable {p : Port} {tag : Byte} {a : Aud} {s : State}

/-- The feed owner and M may darken an auditorium (R52). -/
theorem admitShow_darken (hp : p = .m ∨ ∃ n, p = .feed n ∧ s.shows[a].feedOwner = some n) :
    admitShow ⟨p, tag, [byte a.val]⟩ 1 true s = .ok a := by
  have ha : at1 [byte a.val] 0 = a.val := (at1_cons_zero _ _).trans (byte_aud a)
  unfold admitShow
  dsimp only
  rw [if_neg fun h => h rfl, ha, audOf_val]
  refine if_pos ?_
  rcases hp with rfl | ⟨n, rfl, hown⟩
  · rfl
  · exact Bool.or_eq_true_iff.mpr (.inl (beq_iff_eq.mpr hown))

end

/-- Settles O34: the admission, the releases of the auditorium, and the title let go. -/
theorem darkenReleasesTheAuditorium : Obligations.DarkenReleasesTheAuditorium := by
  intro p tag a s ho hp i
  have hvalid : validKind p 4 = true := by
    rcases hp with rfl | ⟨n, rfl, -⟩ <;> rfl
  have hadmit : admitShow ⟨p, tag, [byte a.val]⟩ 1 true s = .ok a := admitShow_darken hp
  have hexec : ∀ {t}, darken ⟨p, tag, [byte a.val]⟩ s = (t, Reply.ok) → exec i s = .next (answer p 4 tag Reply.ok t) :=
    fun h => exec_answer_of rfl (by decide) rfl ho hvalid h
  refine ⟨fun hdark => hexec ?_, fun t hdark ht => ?_⟩
  · unfold darken
    rw [hadmit]
    exact if_pos hdark
  intro ti
  obtain ⟨r, c, hframe⟩ := darkenReady_frame a s
  have hready : (darkenReady a s).shows[a].title = some t := by rw [hframe.shows]; exact ht
  have htitle : (darkenReady a s).title t = s.title t := hframe.title t
  refine ⟨unbindTitle a (darkenReady a s), hexec ?_, ?_⟩
  · unfold darken
    rw [hadmit]
    exact if_neg hdark
  rw [unbindTitle_eq hready, htitle]
  have hstore : (darkenReady a s).store = s.store := hframe.store
  have hrcv : (darkenReady a s).rcv = (unresolveAud a s).rcv := darkenReady_rcv a s
  dsimp only
  refine ⟨?_, ?_, fun c => ?_, ?_, fun v => ⟨darkenReady_cursors v, ?_⟩, fun b v hb => ?_, fun j => ?_, ?_, hframe.frame,
    fun v hkind hcount => ?_, hframe.clock, darkenReady_link a s, hframe.loader, hframe.due, hframe.freeCount, hframe.pending⟩
  · rw [hframe.shows]
    rfl
  · rw [hframe.titles]
    rfl
  · rw [hstore]
    exact countClips_pred _ _ _
  · rw [hstore]
  · rw [hrcv, unresolveAud_count, if_pos rfl]
  · rw [hrcv, unresolveAud_count, if_neg hb.symm]
  · rw [darkenReady_recs]
    rfl
  · exact hframe.rcv.trans (by rw [hframe.rcv]; rfl)
  · obtain ⟨hmark, hentry⟩ := darkenReady_releases hkind hcount
    exact ⟨fun _ => hmark, hentry⟩

end Sys2Proof.Machine
end

/-! SUPPORT. Receivers: resolution, the record an id names, a change of a record, and the items of a REPORT (R117 to R129). -/
section
namespace Sys2Proof.Machine
open Sys2Proof.Safety

/-! ### Resolution (R127) -/

/-- Track `v` of the auditorium's title is of the kind and language. -/
def TrackFits (s : State) (a : Aud) (k : TrackKind) (l : Lang) (v : TrackNo) : Prop :=
  ∃ (ti : Title) (tr : Track), titleOf s a = some ti ∧ ti.tracks[v.val]? = some tr ∧ tr.kind = k ∧ tr.lang = l

theorem trackFits_iff {s : State} {a : Aud} {k : TrackKind} {l : Lang} {v : TrackNo} :
    (((trackOf s a v).map (·.track)).any fun tr => tr.kind == k && tr.lang == l) = true ↔ TrackFits s a k l v := by
  unfold TrackFits trackOf
  cases titleOf s a with
  | none => simp
  | some ti =>
    cases h : ti.tracks[v.val]? with
    | none => simp [h]
    | some tr => simp [h]

section
variable {s : State} {a : Aud} {k : TrackKind} {l : Lang} (hdark : s.shows[a].state ≠ .dark)
include hdark

theorem resolveTrack_eq_some {v : TrackNo} : resolveTrack s a k (some l) = some v ↔
    TrackFits s a k l v ∧ ∀ u, u < v → ¬TrackFits s a k l u := by
  rw [resolveTrack_eq_find, if_neg hdark, find?_eq_some_iff_lowest allTracks_rising mem_allTracks]
  simp only [trackFits_iff, ← Bool.not_eq_true]

theorem resolveTrack_eq_none : resolveTrack s a k (some l) = none ↔ ∀ v, ¬TrackFits s a k l v := by
  rw [resolveTrack_eq_find, if_neg hdark, List.find?_eq_none]
  simp only [trackFits_iff, mem_allTracks, forall_true_left]

end

/-- Settles O35: a search of the tracks in order, which answers the lowest that fits. -/
theorem resolutionTakesLowestTrack : Obligations.ResolutionTakesLowestTrack := by
  intro s a k pref fits
  cases pref with
  | none =>
    have hnone : ∀ t, ¬fits t := fun t ht => by
      obtain ⟨l, -, -, hl, -⟩ := ht
      cases hl
    refine ⟨fun t => iff_of_false (fun h => ?_) fun h => hnone t h.1, iff_of_true rfl hnone⟩
    cases h
  | some l =>
    have hfits : ∀ t, fits t ↔ s.shows[a].state ≠ .dark ∧ TrackFits s a k l t := fun t => by
      constructor
      · rintro ⟨l', ti, tr, hl, hdark, h⟩
        cases hl
        exact ⟨hdark, ti, tr, h⟩
      · rintro ⟨hdark, ti, tr, h⟩
        exact ⟨l, ti, tr, rfl, hdark, h⟩
    by_cases hdark : s.shows[a].state = .dark
    · have hnone : ∀ t, ¬fits t := fun t ht => ((hfits t).1 ht).1 hdark
      rw [resolveTrack_dark k _ hdark]
      exact ⟨fun t => iff_of_false (fun h => nomatch h) fun h => hnone t h.1, iff_of_true rfl hnone⟩
    · have hfits' : ∀ t, fits t ↔ TrackFits s a k l t := fun t => (hfits t).trans (and_iff_right hdark)
      simp only [hfits']
      exact ⟨fun _ => resolveTrack_eq_some hdark, resolveTrack_eq_none hdark⟩

/-! ### The record of an id, and the lowest FREE record (R120, R121) -/

theorem allRecs_rising : allRecs.Pairwise (· < ·) := List.pairwise_ofFn.mpr fun _ _ h => h

section
variable {b : ReceiverBlock} {id : BitVec 32} {i : RecNo}

theorem findId_eq_some : b.findId id = some i ↔
    (b.recs[i].bound = true ∧ b.recs[i].id = id) ∧ ∀ k, k < i → ¬(b.recs[k].bound = true ∧ b.recs[k].id = id) := by
  unfold ReceiverBlock.findId
  rw [find?_eq_some_iff_lowest allRecs_rising mem_allRecs]
  simp only [← Bool.not_eq_true, Bool.and_eq_true, beq_iff_eq]

theorem findId_eq_none (h : ∀ k : RecNo, ¬(b.recs[k].bound = true ∧ b.recs[k].id = id)) : b.findId id = none :=
  findId_none.2 fun k hk hid => h k ⟨hk, hid⟩

theorem lowestFree_eq_some (hfree : b.recs[i].bound = false) (hlow : ∀ k : RecNo, k < i → b.recs[k].bound = true) :
    b.lowestFree = some i := by
  unfold ReceiverBlock.lowestFree
  rw [find?_eq_some_iff_lowest allRecs_rising mem_allRecs]
  exact ⟨by rw [hfree]; rfl, fun k hk => by rw [hlow k hk]; rfl⟩

end

/-! ### A change of a record (R129, R131) -/

section
variable {s : State} {i : RecNo} {new : Receiver}

theorem changeRec_recs (i : RecNo) (new : Receiver) (s : State) :
    (changeRec i new s).rcv.recs = setAt s.rcv.recs i new := by
  unfold changeRec
  rw [(handEdges_frame s.rcv.counts (s.putRec i new)).rcv]
  rfl

theorem changeRec_recordsChanged (i : RecNo) (new : Receiver) (s : State) : recordsChanged s (changeRec i new s) := by
  have hframe := handEdges_frame s.rcv.counts (s.putRec i new)
  have hcounts : CountLaw s → CountLaw (changeRec i new s) := fun h =>
    (countLaw_iff _).mpr ((handEdges_keepsBlocks s.rcv.counts (s.putRec i new)).rcv.counts
      ((countLaw_iff _).mp (putRec_countLaw h i new)))
  refine ⟨⟨hframe.titles, hframe.loader, hframe.shows, hframe.clock, ?_, hframe.frame, hframe.store, hframe.due,
    hframe.freeCount, hframe.pending⟩, hframe.link.butDenied, hcounts, handEdges_edgesHandled _ _⟩
  unfold changeRec
  rw [hframe.rcv]
  rfl

/-- No count changes where the old record and the new one contribute to none. -/
theorem countsAfter_unwanted {counts : Vector (Vector Nat 8) 16} {old new : Receiver} (ho : ∀ a t, old.wants a t = false)
    (hn : ∀ a t, new.wants a t = false) : countsAfter counts old new = counts := by
  refine Vector.ext fun a ha => Vector.ext fun t ht => ?_
  simp [countsAfter, ho, hn, recount]

theorem handEdges_same (s : State) : handEdges s.rcv.counts s = s := by
  have hfalls : fallingEdges s.rcv.counts s = [] := List.filter_eq_nil_iff.mpr fun p _ hp => by
    simp only [Bool.and_eq_true, beq_iff_eq, decide_eq_true_eq] at hp
    omega
  rw [handEdges_of_falls fun _ _ => Nat.le_refl _, hfalls, List.foldl_nil]

/-- A record that contributed to no count, replaced by another such record. -/
theorem changeRec_unwanted (ho : ∀ a t, s.rcv.recs[i].wants a t = false) (hn : ∀ a t, new.wants a t = false) :
    changeRec i new s = withRec s i new := by
  have hput : s.putRec i new = withRec s i new := by
    unfold State.putRec ReceiverBlock.put
    rw [countsAfter_unwanted ho hn]
    rfl
  have hcounts : s.rcv.counts = (withRec s i new).rcv.counts := rfl
  unfold changeRec
  rw [hput, hcounts]
  exact handEdges_same _

theorem free_unwanted {r : Receiver} (h : r.bound = false) (a : Aud) (t : TrackNo) : r.wants a t = false := by
  unfold Receiver.wants
  rw [h]
  rfl

theorem unresolved_unwanted {r : Receiver} (hc : r.captionTrack = none) (hd : r.descTrack = none) (a : Aud) (t : TrackNo) :
    r.wants a t = false := by
  unfold Receiver.wants
  rw [hc, hd]
  exact Bool.and_false _

end

/-! ### The bytes of an item (R214) -/

/-- The item of twelve bytes laid out by R214. -/
theorem readItem_bytes (k aud : Byte) (id : BitVec 32) {l m : List Byte} (hl : l.length = 3) (hm : m.length = 3) :
    readItem ([k, aud] ++ le 4 id.toNat ++ l ++ m) = ⟨itemKind k.toNat, aud.toNat, id, l, m⟩ := by
  have hid : field ([k, aud] ++ le 4 id.toNat ++ l ++ m) 2 4 = id.toNat := by
    rw [List.append_assoc, List.append_assoc, field_at _ _ 2 4 rfl, field_zero_le]
    exact Nat.mod_eq_of_lt id.isLt
  have hpre : ([k, aud] ++ le 4 id.toNat).length = 6 := by simp
  have hpre' : ([k, aud] ++ le 4 id.toNat ++ l).length = 9 := by simp [hl]
  unfold readItem
  rw [hid, List.drop_left' hpre', List.take_of_length_le hm.le, List.append_assoc ([k, aud] ++ le 4 id.toNat),
    List.drop_left' hpre, List.take_left' hl, BitVec.ofNat_toNat, BitVec.setWidth_eq]
  simp

theorem itemKind_code (kind : ItemKind) : itemKind (byte (itemCode kind)).toNat = some kind := by
  cases kind <;> rfl

theorem readItem_itemBytes (kind : ItemKind) {aud : Nat} (haud : aud < 256) (id : BitVec 32) (cap desc : Option Lang) :
    readItem (itemBytes kind aud id cap desc) = ⟨some kind, aud, id, prefBytes cap, prefBytes desc⟩ := by
  unfold itemBytes
  rw [readItem_bytes _ _ _ (prefBytes_length cap) (prefBytes_length desc), itemKind_code, byte_toNat, Nat.mod_eq_of_lt haud]

theorem itemBytes_length (kind : ItemKind) (aud : Nat) (id : BitVec 32) (cap desc : Option Lang) :
    (itemBytes kind aud id cap desc).length = 12 := by
  simp [itemBytes, prefBytes_length]

theorem langOf_zeros : langOf [0, 0, 0] = none := by decide

theorem prefOf_bytes {pref : Option Lang} (h : ∀ l, pref = some l → langOf l.bytes = some l) :
    prefOf (prefBytes pref) = some pref := by
  unfold prefOf prefBytes
  cases pref with
  | none => rfl
  | some l =>
    have hl := h l rfl
    have hne : l.bytes ≠ [0, 0, 0] := fun e => by rw [e, langOf_zeros] at hl; cases hl
    dsimp only
    rw [if_neg hne, hl]
    rfl

/-! ### A REPORT (R117, R118) -/

section
variable {p : Fin 2} {tag : Byte} {s : State}

theorem exec_report {body : List Byte} {t : State} {x : Reply} (hlen : body.length ≤ 1024) (ho : s.owing (.air p) = false)
    (h : reportOn p body s = (t, x)) :
    exec (.report ⟨.air p, tag, body⟩) s = .next (answer (.air p) 13 tag x t) :=
  exec_answer_of rfl (by decide) (by simp [Instr.wellFormed, Req.bodyFits, hlen, Config.maxRequestBody]) ho rfl h

/-- The items of a body that is a list of twelve-byte items. -/
theorem readItem_append {x : List Byte} (h : x.length = 12) (rest : List Byte) : readItem (x ++ rest) = readItem x := by
  have hfield : ∀ i k, i + k ≤ 12 → field (x ++ rest) i k = field x i k := fun i k hik => by
    unfold field
    rw [List.drop_append_of_le_length (by omega), List.take_append_of_le_length (by rw [List.length_drop]; omega)]
  have hpart : ∀ i, i + 3 ≤ 12 → ((x ++ rest).drop i).take 3 = (x.drop i).take 3 := fun i hi => by
    rw [List.drop_append_of_le_length (by omega), List.take_append_of_le_length (by rw [List.length_drop]; omega)]
  unfold readItem at1
  rw [hfield 0 1 (by decide), hfield 1 1 (by decide), hfield 2 4 (by decide), hpart 6 (by decide), hpart 9 (by decide)]

theorem readItems_flatten {items : List (List Byte)} (h : ∀ x ∈ items, x.length = 12) :
    readItems items.length items.flatten = items.map readItem := by
  induction items with
  | nil => rfl
  | cons x items ih =>
    have hx := h x (.head items)
    rw [List.length_cons, List.flatten_cons, readItems, readItem_append hx, List.drop_left' hx,
      ih fun y hy => h y (.tail x hy), List.map_cons]

theorem flatten_length {items : List (List Byte)} (h : ∀ x ∈ items, x.length = 12) :
    items.flatten.length = items.length * 12 := by
  rw [List.length_flatten, List.map_congr_left h, List.map_const', List.sum_replicate, smul_eq_mul]

/-- A REPORT of 1 to 16 items. -/
theorem reportOn_items {items : List (List Byte)} (h : ∀ x ∈ items, x.length = 12) (h1 : 1 ≤ items.length)
    (h16 : items.length ≤ 16) : reportOn p items.flatten s =
      (suspendTest (takeItems p (items.map readItem) s).1,
        Reply.okData ((takeItems p (items.map readItem) s).2.map fun c => byte c.toNat)) := by
  have hcount : items.flatten.length / 12 = items.length := by rw [flatten_length h]; omega
  have hwhole : ¬items.flatten.length % 12 ≠ 0 := by rw [flatten_length h]; omega
  have hrange : (decide (items.length < 1) || decide (16 < items.length)) = false := by
    simp only [Bool.or_eq_false_iff, decide_eq_false_iff_not]
    omega
  unfold reportOn
  dsimp only
  rw [if_neg hwhole, hcount, hrange, if_neg Bool.false_ne_true, readItems_flatten h]

/-- A REPORT of one item. -/
theorem exec_report_one {item : List Byte} {it : Item} {c : Code} {u : State} (hlen : item.length = 12)
    (ho : s.owing (.air p) = false) (hread : readItem item = it) (htake : takeItem p it s = (u, c)) :
    exec (.report ⟨.air p, tag, item⟩) s =
      .next (answer (.air p) 13 tag (Reply.okData [byte c.toNat]) (suspendTest u)) := by
  refine exec_report (by omega) ho ?_
  have h := reportOn_items (p := p) (s := s) (items := [item]) (by simpa using hlen) (Nat.le_refl 1) (Nat.le_add_left 1 15)
  simp only [List.flatten_cons, List.flatten_nil, List.append_nil, List.map_cons, List.map_nil, hread, takeItems, htake] at h
  exact h

theorem takeItems_length (p : Fin 2) (its : List Item) (s : State) : (takeItems p its s).2.length = its.length := by
  induction its generalizing s with
  | nil => rfl
  | cons it rest ih => exact congrArg (· + 1) (ih _)

end

/-- Settles O38: the items of the body, taken in order; the counts and lengths that are refused. -/
theorem reportAnswersEachItem : Obligations.ReportAnswersEachItem := by
  intro p tag s ho
  refine ⟨fun items hitems h1 h16 => ?_, fun body hbody => ⟨fun h => ?_, fun h hcount => ?_⟩, fun _ _ => rfl, fun k bs hk => ?_⟩
  · refine ⟨_, _, ?_, exec_report ?_ ho (reportOn_items hitems h1 h16), rfl⟩
    · rw [takeItems_length, List.length_map]
    · rw [flatten_length hitems]
      omega
  · exact exec_report hbody ho (if_pos h)
  · refine exec_report hbody ho ?_
    have hrange : (decide (body.length / 12 < 1) || decide (16 < body.length / 12)) = true := by
      simp only [Bool.or_eq_true, decide_eq_true_eq]
      omega
    unfold reportOn
    dsimp only
    rw [if_neg (not_not.mpr h), hrange, if_pos rfl]
    rfl
  · have hkind : (readItem (k :: bs)).kind = none := by
      unfold readItem
      dsimp only
      rw [at1_cons_zero]
      unfold itemKind
      split
      case h_5 => rfl
      all_goals omega
    unfold takeItem
    rw [hkind]

/-! ### HELLO (R119 to R122) -/

section
variable {p : Fin 2} {it : Item} {s : State} {a : Aud} {j : RecNo}

theorem itemHello_range (h : it.id = 0 ∨ 15 < it.aud) : itemHello p it s = (s, .range) := by
  unfold itemHello
  by_cases hid : it.id = 0
  · rw [if_pos hid]
  · rw [if_neg hid, audOf_none (by exact h.resolve_left hid)]

section
variable (hid : it.id ≠ 0) (haud : it.aud = a.val)
include hid haud

theorem itemHello_notOwner (hport : s.shows[a].airPort ≠ some p) : itemHello p it s = (s, .notOwner) := by
  unfold itemHello
  rw [if_neg hid, haud, audOf_val]
  exact if_pos hport

variable (hport : s.shows[a].airPort = some p)
include hport

/-- A HELLO of a known id. -/
theorem itemHello_moves (hj : s.rcv.findId it.id = some j) : itemHello p it s =
    (changeRec j (resolve s { s.rcv.recs[j] with airPort := some p, aud := a, lastHeard := s.rcv.seconds }) s, .ok) := by
  unfold itemHello
  rw [if_neg hid, haud, audOf_val]
  dsimp only
  rw [if_neg (not_not.mpr hport), hj]

/-- A HELLO of a new id. -/
theorem itemHello_binds (hnone : s.rcv.findId it.id = none) (hj : s.rcv.lowestFree = some j) : itemHello p it s =
    (withRec s j ⟨true, it.id, some p, a, none, none, none, none, s.rcv.seconds⟩, .ok) := by
  unfold itemHello
  rw [if_neg hid, haud, audOf_val]
  dsimp only
  rw [if_neg (not_not.mpr hport), hnone]
  dsimp only
  rw [hj]
  dsimp only
  rw [changeRec_unwanted (free_unwanted (lowestFree_some hj)) (unresolved_unwanted rfl rfl)]
  rfl

/-- A HELLO of a new id where every record is BOUND. -/
theorem itemHello_full (hnone : s.rcv.findId it.id = none) (hfull : s.rcv.lowestFree = none) : itemHello p it s = ({ s with
    link := s.link.latchTableFull p a
    rcv := { s.rcv with joinRefusals := setAt s.rcv.joinRefusals p (bump s.rcv.joinRefusals[p]) } }, .tableFull) := by
  unfold itemHello
  rw [if_neg hid, haud, audOf_val]
  dsimp only
  rw [if_neg (not_not.mpr hport), hnone]
  dsimp only
  rw [hfull]
  rfl

end

end

/-- Settles O36: the checks of R119, then the record of the id, the lowest FREE one, or none. -/
theorem helloBindsOrMoves : Obligations.HelloBindsOrMoves := by
  intro p tag aud id cap desc s ho haud i gives known
  have hgives : ∀ c u, itemHello p ⟨some .hello, aud, id, prefBytes cap, prefBytes desc⟩ s = (u, c) → gives c u :=
    fun c u h => exec_report_one (itemBytes_length _ _ _ _ _) ho (readItem_itemBytes .hello haud id cap desc) h
  refine ⟨fun h => hgives _ _ (itemHello_range h), fun a ha hid => ⟨fun hport => hgives _ _ (itemHello_notOwner hid ha hport),
    fun hport => ⟨fun j hj hfirst => ?_, fun hnone => ?_⟩⟩⟩
  · exact ⟨_, hgives _ _ (itemHello_moves hid ha hport (findId_eq_some.2 ⟨hj, hfirst⟩)), changeRec_recordsChanged _ _ _,
      changeRec_recs _ _ _⟩
  · have hnew := findId_eq_none hnone
    exact ⟨fun j hfree hlow => hgives _ _ (itemHello_binds hid ha hport hnew (lowestFree_eq_some hfree hlow)),
      fun hfull => hgives _ _ (itemHello_full hid ha hport hnew (lowestFree_none.2 hfull))⟩

/-! ### CHOOSE, ALIVE and BYE (R123 to R126) -/

section
variable {p : Fin 2} {it : Item} {s : State} {a : Aud} {j : RecNo} {c : Code} {cap desc : Option Lang}

theorem namedRec_unknown {id : BitVec 32} (h : s.rcv.findId id = none) : namedRec p id s = .error .unknownReceiver := by
  unfold namedRec
  rw [h]

theorem namedRec_known {id : BitVec 32} (h : s.rcv.findId id = some j) :
    namedRec p id s = if s.rcv.recs[j].airPort = some p then .ok j else .error .notOwner := by
  unfold namedRec
  rw [h]

theorem takeItem_range {kind : ItemKind} (hkind : it.kind = some kind) (hne : kind ≠ .hello) (hid : it.id = 0) :
    takeItem p it s = (s, .range) := by
  unfold takeItem
  rw [hkind]
  cases kind with
  | hello => exact absurd rfl hne
  | choose => exact if_pos hid
  | alive => exact if_pos hid
  | bye => exact if_pos hid

/-- A CHOOSE with a malformed preference. -/
theorem takeItem_malformed (hkind : it.kind = some .choose) (h : prefOf it.caption = none ∨ prefOf it.desc = none)
    (hid : it.id ≠ 0) : takeItem p it s = (s, .range) := by
  unfold takeItem
  rw [hkind]
  dsimp only
  unfold itemChoose
  rw [if_neg hid]
  rcases h with h | h
  · rw [h]
  · rw [h]
    cases prefOf it.caption <;> rfl

section
variable (hid : it.id ≠ 0)
include hid

/-- CHOOSE, ALIVE and BYE of an id that names no record of the port. -/
theorem takeItem_unnamed {kind : ItemKind} (hkind : it.kind = some kind) (hne : kind ≠ .hello)
    (hc : prefOf it.caption = some cap) (hd : prefOf it.desc = some desc) (hn : namedRec p it.id s = .error c) :
    takeItem p it s = (s, c) := by
  unfold takeItem
  rw [hkind]
  cases kind with
  | hello => exact absurd rfl hne
  | choose =>
    dsimp only
    unfold itemChoose
    rw [if_neg hid, hc, hd]
    dsimp only
    rw [hn]
  | alive =>
    dsimp only
    unfold itemAlive
    rw [if_neg hid, hn]
  | bye =>
    dsimp only
    unfold itemBye
    rw [if_neg hid, hn]

variable (hn : namedRec p it.id s = .ok j)
include hn

theorem takeItem_choose (hkind : it.kind = some .choose) (hc : prefOf it.caption = some cap) (hd : prefOf it.desc = some desc) :
    takeItem p it s = (changeRec j (resolve s { s.rcv.recs[j] with captionPref := cap, descPref := desc, lastHeard := s.rcv.seconds }) s, .ok) := by
  unfold takeItem
  rw [hkind]
  dsimp only
  unfold itemChoose
  rw [if_neg hid, hc, hd]
  dsimp only
  rw [hn]

theorem takeItem_alive (hkind : it.kind = some .alive) :
    takeItem p it s = (withRec s j { s.rcv.recs[j] with lastHeard := s.rcv.seconds }, .ok) := by
  unfold takeItem
  rw [hkind]
  dsimp only
  unfold itemAlive
  rw [if_neg hid, hn]
  rfl

theorem takeItem_bye (hkind : it.kind = some .bye) : takeItem p it s = (changeRec j Receiver.free s, .ok) := by
  unfold takeItem
  rw [hkind]
  dsimp only
  unfold itemBye
  rw [if_neg hid, hn]

end

end

/-- Settles O37: the checks of R123 for each kind, then what the record becomes. -/
theorem chooseAliveAndBye : Obligations.ChooseAliveAndBye := by
  intro p tag kind aud id cap desc s ho hkind hlang gives known
  have hcap : prefOf (prefBytes cap) = some cap := prefOf_bytes fun l hl => hlang l (.inl hl)
  have hdesc : prefOf (prefBytes desc) = some desc := prefOf_bytes fun l hl => hlang l (.inr hl)
  have hgives : ∀ c u, takeItem p ⟨some kind, aud.toNat, id, prefBytes cap, prefBytes desc⟩ s = (u, c) → gives c u :=
    fun c u h => exec_report_one (itemBytes_length _ _ _ _ _) ho (readItem_itemBytes kind aud.isLt id cap desc) h
  have hrefused : ∀ c, id ≠ 0 → namedRec p id s = .error c → gives c s := fun c hid hn =>
    hgives c s (takeItem_unnamed hid rfl hkind hcap hdesc hn)
  refine ⟨fun hid => hgives _ _ (takeItem_range rfl hkind hid), fun hid hnone =>
    hrefused _ hid (namedRec_unknown (findId_eq_none hnone)), fun l m hl hm hbad hid => ?_, fun j hid hj hfirst => ?_⟩
  · exact exec_report_one (c := .range) (by simp [hl, hm]) ho (readItem_bytes 1 aud id hl hm)
      (takeItem_malformed rfl hbad hid)
  · have hnamed := namedRec_known (p := p) (findId_eq_some.2 ⟨hj, hfirst⟩)
    refine ⟨fun hport => hrefused _ hid (hnamed.trans (if_neg hport)), fun hport => ?_⟩
    rw [if_pos hport] at hnamed
    refine ⟨?_, ?_, ?_⟩
    · rintro rfl
      exact ⟨_, hgives _ _ (takeItem_choose hid hnamed rfl hcap hdesc), changeRec_recordsChanged _ _ _, changeRec_recs _ _ _⟩
    · rintro rfl
      exact hgives _ _ (takeItem_alive hid hnamed rfl)
    · rintro rfl
      exact ⟨_, hgives _ _ (takeItem_bye hid hnamed rfl), changeRec_recordsChanged _ _ _, changeRec_recs _ _ _⟩

end Sys2Proof.Machine
end

/-! SUPPORT. Cue location: a lookup on a sound track, and the position cache by its rules (R92 to R106, R110, R111). -/
section
namespace Sys2Proof.Machine
open Sys2Proof.Safety

/-! ### A lookup (R92 to R96) -/

section
variable {m : List Host.Cell} {x : TitleTrack} {h : TitleNo} {a : Aud} {t : TrackNo} {sair : Nat} {c : CueBlock}

/-- Forward of a valid cursor a lookup walks from it, and leaves the position cache. -/
theorem lookupTrack_forward (hv : (c.cursor a t).valid = true) (hp : (c.cursor a t).placedAt ≤ sair) :
    (lookupTrack m x h a t sair c).1.index = walkTrack m x sair (c.cursor a t).index ∧
      (lookupTrack m x h a t sair c).2 = c.setCursor a t ⟨true, walkTrack m x sair (c.cursor a t).index, sair⟩ := by
  have hroute : (!(c.cursor a t).valid || decide (sair < (c.cursor a t).placedAt)) = false := by
    rw [hv, decide_eq_false (Nat.not_lt.mpr hp)]
    rfl
  unfold lookupTrack
  dsimp only
  rw [hroute]
  exact ⟨rfl, rfl⟩

/-- From a clear cursor, or backward, a lookup relocates and walks. -/
theorem lookupTrack_relocates (hroute : (c.cursor a t).valid = false ∨ sair < (c.cursor a t).placedAt) :
    (lookupTrack m x h a t sair c).1.index = walkTrack m x sair (relocate m x (handle h) t.val sair c).1 := by
  have hroute : (!(c.cursor a t).valid || decide (sair < (c.cursor a t).placedAt)) = true := by
    rcases hroute with hv | hp
    · rw [hv]; rfl
    · rw [decide_eq_true hp, Bool.or_true]
  unfold lookupTrack
  dsimp only
  rw [hroute]
  rfl

theorem lookupTrack_active : (lookupTrack m x h a t sair c).1.active = true ↔
    (lookupTrack m x h a t sair c).1.index < x.track.n ∧
      entryStart m x.title x.track (lookupTrack m x h a t sair c).1.index ≤ sair := by
  unfold lookupTrack
  simp only [Bool.and_eq_true, decide_eq_true_eq]

/-- On a sound track a lookup finds the lowest entry that has not ended, whatever its route (R93). -/
theorem lookupTrack_finds (hs : TrackSound m x)
    (hcursor : (c.cursor a t).valid = true → (c.cursor a t).Sound m x)
    (hways : ∀ (i : Fin 16) (w : Fin 4), c.sets[i].ways[w].holds (handle h) t.val (sair / 2048) = true →
      isLowestAfter m x (2048 * (sair / 2048)) c.sets[i].ways[w].index) :
    isLowestAfter m x sair (lookupTrack m x h a t sair c).1.index := by
  by_cases hroute : (c.cursor a t).valid = true ∧ (c.cursor a t).placedAt ≤ sair
  · obtain ⟨hv, hp⟩ := hroute
    obtain ⟨hn, hbelow⟩ := hcursor hv
    rw [(lookupTrack_forward hv hp).1]
    exact walkTrack_lowest hn fun j hj => (hbelow j hj).trans hp
  · have hroute : (c.cursor a t).valid = false ∨ sair < (c.cursor a t).placedAt := by
      rw [not_and_or, Bool.not_eq_true, not_le] at hroute
      exact hroute
    obtain ⟨hn, hbelow, -⟩ := relocate_lowest hs (handle h) t.val sair c hways
    rw [lookupTrack_relocates hroute]
    exact walkTrack_lowest hn fun j hj => (hbelow j hj).trans (Nat.mul_div_le sair 2048)

end

/-- Settles O39: the two routes to the index, and the one cursor that moves. -/
theorem lookupFindsLowestEntry : Obligations.LookupFindsLowestEntry := by
  intro a t sair h x s hh hx hs m cur hcursor hways r
  have hr : r = lookupTrack s.titles.cue x h a t sair s.cues := lookup_track sair hh hx
  rw [hr]
  refine ⟨lookupTrack_finds hs hcursor hways, lookupTrack_active, fun b v => ?_, fun hv hp => ?_⟩
  · have hb := lookupTrack_cursor s.titles.cue x h a t sair s.cues b v
    simp only [eq_comm (a := b), eq_comm (a := v)]
    exact hb
  · rw [(lookupTrack_forward (c := s.cues) hv hp).2]
    exact ⟨rfl, rfl, rfl⟩

/-! ### The sets of the position cache (R99, R105, R106) -/

/-- The bits of R105, as one record. -/
theorem CacheSet.touch_eq (c : CacheSet) (w : Fin 4) : c.touch w = ⟨c.ways, decide (w.val < 2),
    if w = 0 then true else if w = 1 then false else c.bw, if w = 2 then true else if w = 3 then false else c.cw⟩ := by
  fin_cases w <;> rfl

theorem Way.holds_iff {w : Way} {h t b : Nat} :
    w.holds h t b = true ↔ w.valid = true ∧ w.handle = h ∧ w.track = t ∧ w.bucket = b := by
  simp only [Way.holds, Bool.and_eq_true, beq_iff_eq, and_assoc]

theorem CacheSet.find_some {c : CacheSet} {h t b : Nat} {w : Fin 4}
    (hw : c.ways[w].valid = true ∧ c.ways[w].handle = h ∧ c.ways[w].track = t ∧ c.ways[w].bucket = b)
    (hfirst : ∀ v, v < w → ¬(c.ways[v].valid = true ∧ c.ways[v].handle = h ∧ c.ways[v].track = t ∧ c.ways[v].bucket = b)) :
    c.find h t b = some w :=
  findWay_some.2 ⟨Way.holds_iff.2 hw, fun v hv => Bool.eq_false_iff.2 fun e => hfirst v hv (Way.holds_iff.1 e)⟩

theorem CacheSet.find_none {c : CacheSet} {h t b : Nat}
    (hnone : ∀ w : Fin 4, ¬(c.ways[w].valid = true ∧ c.ways[w].handle = h ∧ c.ways[w].track = t ∧ c.ways[w].bucket = b)) :
    c.find h t b = none :=
  findWay_none.2 fun w => Bool.eq_false_iff.2 fun e => hnone w (Way.holds_iff.1 e)

/-- The way that a placement takes (R106). -/
theorem CacheSet.target_eq {c : CacheSet} {w : Fin 4}
    (hw : (c.ways[w].valid = false ∧ ∀ v, v < w → c.ways[v].valid = true) ∨
      ((∀ v : Fin 4, c.ways[v].valid = true) ∧
        w = if c.a then (if c.cw then 3 else 2) else (if c.bw then 1 else 0))) : c.target = w := by
  unfold CacheSet.target
  rcases hw with ⟨hw, hlow⟩ | ⟨hall, hw⟩
  · have hfind : allWays.find? (fun w => !c.ways[w].valid) = some w :=
      findWay_some.2 ⟨by rw [hw]; rfl, fun v hv => by rw [hlow v hv]; rfl⟩
    rw [hfind]
  · have hfind : allWays.find? (fun w => !c.ways[w].valid) = none := findWay_none.2 fun v => by rw [hall v]; rfl
    rw [hfind]
    exact hw.symm

theorem CacheSet.place_eq {c : CacheSet} {w : Fin 4} (hw : c.target = w) (h t b i : Nat) : c.place h t b i =
    ⟨setAt c.ways w ⟨true, h, t, b, i⟩, decide (w.val < 2),
      if w = 0 then true else if w = 1 then false else c.bw, if w = 2 then true else if w = 3 then false else c.cw⟩ := by
  unfold CacheSet.place
  rw [hw, CacheSet.touch_eq]

/-! ### CACHE.PROBE and CACHE.FLUSH (R110, R111) -/

section
variable {tag h t : Byte} {bucket : Nat} {s : State}

theorem probe_bucket (hb : bucket < 65536) : field ([h, t] ++ le 2 bucket) 2 2 = bucket := by
  rw [field_at _ _ 2 2 rfl, field_all]
  exact Nat.mod_eq_of_lt hb

theorem exec_cacheProbe {x : Reply} (ho : s.owing .m = false)
    (hact : cacheProbe ⟨.m, tag, [h, t] ++ le 2 bucket⟩ s = (s, x)) :
    exec (.cacheProbe ⟨.m, tag, [h, t] ++ le 2 bucket⟩) s = .next (answer .m 19 tag x s) :=
  exec_answer_of rfl (by decide) rfl ho rfl hact

/-- The answer of a probe in range (R110). -/
def probeReply (s : State) (h t bucket : Nat) : Reply :=
  let set := s.cues.sets[cacheSet h t bucket]
  let w := set.find h t bucket
  Reply.okData ([byte (cacheSet h t bucket).val, byte (flag w.isSome), byte (w.elim 255 Fin.val)] ++
    le 2 (w.elim 0 fun w => set.ways[w].index) ++ [byte (flag set.a + 2 * flag set.bw + 4 * flag set.cw)])

theorem cacheProbe_of_length {r : Req} (hlen : r.body.length = 4) : cacheProbe r s =
    if at1 r.body 0 < 1 || 24 < at1 r.body 0 || 7 < at1 r.body 1 || 8191 < field r.body 2 2 then refuse .range s
    else (s, probeReply s (at1 r.body 0) (at1 r.body 1) (field r.body 2 2)) := by
  unfold cacheProbe probeReply
  dsimp only
  rw [if_neg (not_not.mpr hlen)]
  cases s.cues.sets[cacheSet (at1 r.body 0) (at1 r.body 1) (field r.body 2 2)].find (at1 r.body 0) (at1 r.body 1)
    (field r.body 2 2) <;> rfl

theorem cacheProbe_eq (hb : bucket < 65536) : cacheProbe ⟨.m, tag, [h, t] ++ le 2 bucket⟩ s =
    if h.toNat < 1 || 24 < h.toNat || 7 < t.toNat || 8191 < bucket then refuse .range s
    else (s, probeReply s h.toNat t.toNat bucket) := by
  have h0 : at1 ([h, t] ++ le 2 bucket) 0 = h.toNat := at1_cons_zero _ _
  have h1 : at1 ([h, t] ++ le 2 bucket) 1 = t.toNat := (at1_cons_succ _ _ 0).trans (at1_cons_zero _ _)
  have hlen : ([h, t] ++ le 2 bucket).length = 4 := rfl
  rw [cacheProbe_of_length hlen, h0, h1, probe_bucket hb]

theorem cacheProbe_range (hb : bucket < 65536) (hbad : h = 0 ∨ 24 < h.toNat ∨ 7 < t.toNat ∨ 8191 < bucket) :
    cacheProbe ⟨.m, tag, [h, t] ++ le 2 bucket⟩ s = refuse .range s := by
  rw [cacheProbe_eq hb]
  refine if_pos ?_
  simp only [Bool.or_eq_true, decide_eq_true_eq, or_assoc]
  refine hbad.imp_left fun e => ?_
  subst e
  decide

theorem cacheProbe_reads (hb : bucket ≤ 8191) (h1 : 1 ≤ h.toNat) (h24 : h.toNat ≤ 24) (ht : t.toNat ≤ 7) :
    cacheProbe ⟨.m, tag, [h, t] ++ le 2 bucket⟩ s = (s, probeReply s h.toNat t.toNat bucket) := by
  rw [cacheProbe_eq (by omega)]
  refine if_neg ?_
  simp only [Bool.or_eq_true, decide_eq_true_eq, or_assoc]
  omega

end

/-- Settles O40: a hit and a miss of a relocation, the flush, and the probe. -/
theorem positionCacheFollowsItsRules : Obligations.PositionCacheFollowsItsRules := by
  refine ⟨fun m x h t sair c => ?_, fun tag s ho => ⟨?_, fun h t bucket hb => ⟨fun hbad => ?_, fun h1 h24 ht hb' => ?_⟩⟩⟩
  · intro bucket i set holds named r
    refine ⟨fun w hw hfirst => ?_, fun hnone w hw => ?_⟩
    · have hfind : c.sets[cacheSet (handle h) t.val (sair / 2048)].find (handle h) t.val (sair / 2048) = some w :=
        CacheSet.find_some hw hfirst
      exact (relocate_hit hfind).trans (by rw [CacheSet.touch_eq]; rfl)
    · have hfind : c.sets[cacheSet (handle h) t.val (sair / 2048)].find (handle h) t.val (sair / 2048) = none :=
        CacheSet.find_none hnone
      have htarget : c.sets[cacheSet (handle h) t.val (sair / 2048)].target = w := CacheSet.target_eq hw
      have hmiss := relocate_miss (m := m) (x := x) (sair := sair) hfind
      have hindex : r.1 = bucketIndex m x (Config.bucketTicks * (sair / Config.bucketTicks)) := congrArg Prod.fst hmiss
      refine (congrArg Prod.snd hmiss).trans ?_
      rw [hindex]
      dsimp only
      rw [CacheSet.place_eq htarget]
      rfl
  · exact exec_answer_of rfl (by decide) rfl ho rfl rfl
  · exact exec_cacheProbe ho (cacheProbe_range hb hbad)
  · intro k set bits holds
    have hreads := exec_cacheProbe (tag := tag) ho (cacheProbe_reads hb' h1 h24 ht)
    unfold probeReply at hreads
    dsimp only at hreads
    refine ⟨fun w hw hfirst => ?_, fun hnone => ?_⟩
    · have hfind : s.cues.sets[cacheSet h.toNat t.toNat bucket].find h.toNat t.toNat bucket = some w :=
        CacheSet.find_some hw hfirst
      rw [hfind] at hreads
      exact hreads
    · have hfind : s.cues.sets[cacheSet h.toNat t.toNat bucket].find h.toNat t.toNat bucket = none :=
        CacheSet.find_none hnone
      rw [hfind] at hreads
      exact hreads

end Sys2Proof.Machine
end

/-! SUPPORT. A PULL taken: its header, its budget, and the payload of a stopped show (R141 to R147, R157). -/
section
namespace Sys2Proof.Machine
open Sys2Proof.Safety

/-! ### What a taken PULL composes (R142) -/

/-- What a PULL of the auditorium on the air port fixes (R142). -/
def pullContext (s : State) (p : Fin 2) (a : Aud) : PullContext :=
  ⟨a, p, min (s.clock.auds[a].pos / 65536 + s.frame.air[p].lead) 16777215, s.frame.air[p].window, s.frame.air[p].repeatPeriod⟩

/-- The payload before its first section (R142, R146). -/
def pullStart (s : State) (p : Fin 2) (a : Aud) : Compose := ⟨s.frame.air[p].capacity - 12, [], pulled s a⟩

/-- The payload of a PULL (R144). -/
def pullPayload (s : State) (p : Fin 2) (a : Aud) : Compose :=
  composeSections (pullContext s p a) s.shows[a].state (allTracks.filter (isSubscribed s .description a))
    (allTracks.filter (isSubscribed s .caption a)) (pullStart s p a)

theorem subscribed_eq (s : State) (k : TrackKind) (a : Aud) : subscribed s k a = allTracks.filter (isSubscribed s k a) := rfl

theorem subscribed_contains (s : State) (k : TrackKind) (a : Aud) (v : TrackNo) :
    (subscribed s k a).contains v = isSubscribed s k a v := by
  rw [subscribed_eq, Bool.eq_iff_iff, List.contains_iff_mem, List.mem_filter]
  exact and_iff_right (mem_allTracks v)

/-- The Frame Builder state after steps 1 to 4 of a PULL (R142). -/
theorem begin_pulled (s : State) (a : Aud) : (s.modFrame a fun f => f.begin (subscribed s .caption a)) = pulled s a := by
  unfold pulled FrameAud.begin
  simp only [subscribed_contains]

theorem header_bytes (s : State) (p : Fin 2) (a : Aud) (n : Nat) :
    (Header.mk a s.shows[a].state (pullContext s p a).sair s.frame.air[p].lead s.frame.air[p].repeatPeriod
      (s.frame.auds[a].seq + 1) s.frame.auds[a].stepPending).bytes n = payloadHeader s p a n := rfl

theorem pullTaken_eq (p : Fin 2) (a : Aud) (s : State) : pullTaken p a s = (suspendTest (pullPayload s p a).state,
    Reply.okData (payloadHeader s p a (pullPayload s p a).sections.length ++
      (pullPayload s p a).sections.flatMap Section.bytes)) := by
  rw [← header_bytes]
  unfold pullTaken pullPayload pullStart
  dsimp only
  rw [begin_pulled]
  rfl

section
variable {p : Fin 2} {tag : Byte} {a : Aud} {s : State}

theorem exec_pull {b : Byte} {t : State} {x : Reply} (ho : s.owing (.air p) = false) (h : pullOn p [b] s = (t, x)) :
    exec (.pull ⟨.air p, tag, [b]⟩) s = .next (answer (.air p) 12 tag x t) :=
  exec_answer_of rfl (by decide) rfl ho rfl h

theorem pullOn_range {b : Byte} (h : 15 < b.toNat) : pullOn p [b] s = refuse .range s := by
  unfold pullOn
  rw [if_neg fun hlen => hlen rfl, at1_cons_zero, audOf_none (by exact h)]

theorem pullOn_aud : pullOn p [byte a.val] s = if s.shows[a].airPort ≠ some p then refuse .notOwner s else pullTaken p a s := by
  unfold pullOn
  rw [if_neg fun hlen => hlen rfl, at1_cons_zero, byte_aud, audOf_val]

/-- A PULL that no check refuses. -/
theorem exec_pull_taken (ho : s.owing (.air p) = false) (hport : s.shows[a].airPort = some p) {c : Compose}
    (hc : pullPayload s p a = c) : exec (.pull ⟨.air p, tag, [byte a.val]⟩) s = .next (answer (.air p) 12 tag
      (Reply.okData (payloadHeader s p a c.sections.length ++ c.sections.flatMap Section.bytes)) (suspendTest c.state)) := by
  subst hc
  refine exec_pull ho ?_
  rw [pullOn_aud, if_neg (not_not.mpr hport), pullTaken_eq]

end

/-! ### The budget (R146, R147) -/

theorem payloadHeader_length (s : State) (p : Fin 2) (a : Aud) (n : Nat) : (payloadHeader s p a n).length = 12 := by
  simp [payloadHeader]

/-- Every capacity has room for the header and 500 bytes more (R207). -/
theorem capacity_ge {s : State} (hs : SettingsLaw s) (p : Fin 2) : 512 ≤ s.frame.air[p].capacity := by
  obtain ⟨-, -, -, -, hair, -⟩ := hs
  obtain ⟨-, ⟨hcap, -⟩, -⟩ := hair p
  exact hcap

/-- The sections of a payload fit in what the header leaves of the capacity. -/
theorem pullPayload_fits (s : State) (p : Fin 2) (a : Aud) :
    ((pullPayload s p a).sections.flatMap Section.bytes).length ≤ s.frame.air[p].capacity - 12 := by
  have hwithin : (pullStart s p a).Within (pullPayload s p a) := composeSections_within _ _ _ _ _
  have hbudget := hwithin.1
  rw [sections_length]
  have hstart : (pullStart s p a).used + (pullStart s p a).room = s.frame.air[p].capacity - 12 := Nat.zero_add _
  unfold Compose.used at hbudget hstart
  omega

/-- Settles O41: the header's 12 bytes, and the sections within the rest of the capacity. -/
theorem payloadKeepsItsLaw : Obligations.PayloadKeepsItsLaw := by
  intro p tag a s ho hport hs
  have hcap := capacity_ge hs p
  have hfits := pullPayload_fits s p a
  refine ⟨_, _, exec_pull_taken ho hport rfl, payloadHeader_length _ _ _ _, ?_⟩
  rw [List.length_append, payloadHeader_length]
  omega

/-! ### The payload of a LOST show (R157) -/

theorem clear_size (v : TrackNo) (n : Nat) : (Section.clear v n).size = 4 := rfl

theorem modFrame_modFrame (s : State) (a : Aud) (f g : FrameAud → FrameAud) :
    (s.modFrame a f).modFrame a g = s.modFrame a fun x => g (f x) := by
  simp [State.modFrame, modAt]

theorem modFrame_same {s : State} {a : Aud} {f : FrameAud → FrameAud} (h : f s.frame.auds[a] = s.frame.auds[a]) :
    s.modFrame a f = s := by
  unfold State.modFrame modAt
  rw [h]
  simp

/-- Where there is room every CLEAR of a LOST show is placed. -/
theorem lostClears (k : PullContext) (l : List TrackNo) (c : Compose) (hroom : 4 * l.length ≤ c.room) :
    l.foldl (offerLostClear k) c = ⟨c.room - 4 * l.length, c.sections ++ l.map (.clear · Config.maxShow),
      l.foldl (fun s v => markSent k v .noCue s) c.state⟩ := by
  induction l generalizing c with
  | nil => simp
  | cons v l ih =>
    rw [List.length_cons] at hroom
    have hplaced : offerLostClear k c v = ⟨c.room - 4, c.sections ++ [.clear v Config.maxShow], markSent k v .noCue c.state⟩ := by
      unfold offerLostClear
      rw [offer_placed (by rw [clear_size]; omega), clear_size]
    rw [List.foldl_cons, hplaced, ih _ (by dsimp only; omega)]
    simp only [List.map_cons, List.append_assoc, List.singleton_append, List.length_cons, List.foldl_cons, Compose.mk.injEq,
      and_true]
    omega

/-- The sent states and countdowns of some tracks set. -/
def FrameAud.markAll (f : FrameAud) (l : List TrackNo) (x : Sent) (n : Nat) : FrameAud :=
  { f with
    sent := Vector.ofFn fun v => if v ∈ l then x else f.sent[v]
    countdown := Vector.ofFn fun v => if v ∈ l then n else f.countdown[v] }

theorem FrameAud.markAll_cons (f : FrameAud) (v : TrackNo) (l : List TrackNo) (x : Sent) (n : Nat) :
    ({ f with sent := setAt f.sent v x, countdown := setAt f.countdown v n } : FrameAud).markAll l x n =
      f.markAll (v :: l) x n := by
  have hsent : ∀ w : TrackNo, (if w ∈ l then x else (setAt f.sent v x)[w]) = if w ∈ v :: l then x else f.sent[w] := fun w => by
    by_cases hw : v = w
    · subst hw; simp
    · simp [Ne.symm hw, Fin.val_ne_of_ne hw]
  have hcount : ∀ w : TrackNo, (if w ∈ l then n else (setAt f.countdown v n)[w]) = if w ∈ v :: l then n else f.countdown[w] :=
    fun w => by
      by_cases hw : v = w
      · subst hw; simp
      · simp [Ne.symm hw, Fin.val_ne_of_ne hw]
  unfold FrameAud.markAll
  simp only [hsent, hcount]

theorem marks_eq (k : PullContext) (x : Sent) (l : List TrackNo) (s : State) :
    l.foldl (fun s v => markSent k v x s) s = s.modFrame k.aud (·.markAll l x k.period) := by
  induction l generalizing s with
  | nil =>
    refine (modFrame_same ?_).symm
    simp [FrameAud.markAll]
  | cons v l ih =>
    rw [List.foldl_cons, ih, markSent, modFrame_modFrame]
    simp only [FrameAud.markAll_cons]

theorem tracks_le (q : TrackNo → Bool) : (allTracks.filter q).length ≤ 8 := List.length_filter_le q allTracks

/-- Settles O42: the checks of R141, the header alone, and the CLEARs of LOST. -/
theorem pullOfAStoppedShow : Obligations.PullOfAStoppedShow := by
  intro p tag s ho
  refine ⟨fun aud haud => exec_pull ho (pullOn_range haud), fun a => ?_⟩
  intro i tracks
  refine ⟨fun hport => exec_pull ho (pullOn_aud.trans (if_pos hport)), fun hport => ⟨fun hstate => ?_, fun hstate hs => ?_⟩⟩
  · have hpayload : pullPayload s p a = pullStart s p a := by
      unfold pullPayload
      rcases hstate with h | h <;> rw [h] <;> rfl
    have h := exec_pull_taken (tag := tag) ho hport hpayload
    rw [h]
    exact congrArg (fun d => Host.Outcome.next (answer (.air p) 12 tag (Reply.okData d) (suspendTest (pulled s a))))
      (List.append_nil _)
  · have hcap := capacity_ge hs p
    have hle : tracks.length ≤ 8 := tracks_le _
    have hpayload : pullPayload s p a = tracks.foldl (offerLostClear (pullContext s p a)) (pullStart s p a) := by
      unfold pullPayload
      rw [hstate]
      rfl
    rw [lostClears _ _ _ (by unfold pullStart; dsimp only; omega), marks_eq] at hpayload
    rw [exec_pull_taken (tag := tag) ho hport hpayload]
    have hmem : ∀ v, (v ∈ tracks) = (isSubscribed s .caption a v = true) := fun v =>
      propext (List.mem_filter.trans (and_iff_right (mem_allTracks v)))
    simp only [pullStart, List.nil_append, List.length_map, List.flatMap_map, FrameAud.markAll, hmem]
    rfl

end Sys2Proof.Machine
end

/-! SUPPORT. The captions of a payload: the section a look airs, the repeat candidates, and a PULL of one caption track (R145, R146, R154 to R156). -/
section
namespace Sys2Proof.Machine
open Sys2Proof.Safety

/-! ### The section a look airs (R145, R154) -/

theorem captionSection_bytes (s : State) (x : TitleTrack) (v : TrackNo) (f : Found) (isRepeat : Bool) :
    (captionSection s x v f isRepeat).bytes = captionBytes s.titles.cue x v f isRepeat := by
  have hlen : (captionText s.titles.cue x.title (captionEntry s.titles.cue x.title x.track f.index)).length =
      (captionEntry s.titles.cue x.title x.track f.index).textLength := Memory.readRun_length _ _ _ _
  unfold captionSection captionBytes
  split
  · simp only [Section.bytes, hlen]
    rfl
  · rfl

theorem captionSection_size (s : State) (x : TitleTrack) (v : TrackNo) (f : Found) (isRepeat : Bool) :
    (captionSection s x v f isRepeat).size = (captionBytes s.titles.cue x v f isRepeat).length :=
  congrArg List.length (captionSection_bytes s x v f isRepeat)

/-- A CAPTION or CLEAR has at most 263 bytes (R10, R145). -/
theorem captionBytes_length_le (m : List Host.Cell) (x : TitleTrack) (v : TrackNo) (f : Found) (isRepeat : Bool) :
    (captionBytes m x v f isRepeat).length ≤ 263 := by
  unfold captionBytes
  split
  · have hlen : (captionEntry m x.title x.track f.index).textLength < 256 := at1_lt _ _
    simp only [List.length_append, List.length_cons, List.length_nil, le_length, captionText, Memory.readRun_length]
    omega
  · simp only [List.length_cons, le_length]
    omega

/-! ### Changed captions and repeats (R146, R154, R156) -/

section
variable {k : PullContext} {c : Compose} {v : TrackNo} {x : TitleTrack} {looks : List CaptionLook}

/-- An unchanged track is looked up, and no more. -/
theorem offerChanged_unchanged (hx : trackOf c.state k.aud v = some x)
    (hsent : c.state.frame.auds[k.aud].sent[v] = (lookup c.state k.aud v k.sair).1.current) :
    offerChanged k (c, looks) v = ({ c with state := { c.state with cues := (lookup c.state k.aud v k.sair).2 } },
      looks ++ [⟨v, (lookup c.state k.aud v k.sair).1, false⟩]) := by
  have hchanged : decide (c.state.frame.auds[k.aud].sent[v] ≠ (lookup c.state k.aud v k.sair).1.current) = false :=
    decide_eq_false (not_not.mpr hsent)
  unfold offerChanged
  dsimp only
  rw [hx]
  dsimp only
  rw [hchanged]
  rfl

/-- A changed track is looked up, and its section offered. -/
theorem offerChanged_changed (hx : trackOf c.state k.aud v = some x)
    (hsent : c.state.frame.auds[k.aud].sent[v] ≠ (lookup c.state k.aud v k.sair).1.current) :
    offerChanged k (c, looks) v = ((offer k (captionSection c.state x v (lookup c.state k.aud v k.sair).1 false)
      (markSent k v (lookup c.state k.aud v k.sair).1.current)
      { c with state := { c.state with cues := (lookup c.state k.aud v k.sair).2 } }).1,
      looks ++ [⟨v, (lookup c.state k.aud v k.sair).1, true⟩]) := by
  have hchanged : decide (c.state.frame.auds[k.aud].sent[v] ≠ (lookup c.state k.aud v k.sair).1.current) = true :=
    decide_eq_true hsent
  unfold offerChanged
  dsimp only
  rw [hx]
  dsimp only
  rw [hchanged]
  rfl

theorem offerRepeat_offers {l : CaptionLook} (hx : trackOf c.state k.aud l.track = some x) :
    offerRepeat k c l = (offer k (captionSection c.state x l.track l.found true) (markRepeat k l.track) c).1 := by
  unfold offerRepeat
  rw [hx]

end

/-! ### The candidates of a repeat (R156) -/

/-- The place of a track in the order of repeats after the rotation index. -/
def turnOf (rotation v : TrackNo) : Nat := (v.val + 7 - rotation.val) % 8

theorem repeatOrder_rising (r : TrackNo) : (repeatOrder r).Pairwise fun v w => turnOf r v < turnOf r w := by
  revert r
  decide

theorem mem_repeatOrder (r v : TrackNo) : v ∈ repeatOrder r := by
  revert r v
  decide

/-- A look is a candidate: unchanged, its countdown 0. -/
def CaptionLook.Repeats (l : CaptionLook) (k : PullContext) (s : State) : Prop :=
  l.changed = false ∧ s.frame.auds[k.aud].countdown[l.track] = 0

section
variable {k : PullContext} {s : State} {looks : List CaptionLook} {l : CaptionLook} {v : TrackNo}

theorem candidate_test : (l.track == v && !l.changed && s.frame.auds[k.aud].countdown[v] == 0) = true ↔
    l.track = v ∧ l.Repeats k s := by
  simp only [Bool.and_eq_true, beq_iff_eq, Bool.not_eq_true', CaptionLook.Repeats, and_assoc]
  refine and_congr_right fun h => ?_
  subst h
  rfl

/-- The look found for a track is a candidate of the track. -/
theorem candidate_of_find
    (h : looks.find? (fun l => l.track == v && !l.changed && s.frame.auds[k.aud].countdown[v] == 0) = some l) :
    l ∈ looks ∧ l.track = v ∧ l.Repeats k s := by
  have htest := candidate_test.1
    (List.find?_some (p := fun l : CaptionLook => l.track == v && !l.changed && s.frame.auds[k.aud].countdown[v] == 0) h)
  exact ⟨List.mem_of_find?_eq_some h, htest⟩

/-- The candidates come in the order of their turns. -/
theorem candidates_rising (k : PullContext) (s : State) (looks : List CaptionLook) : (candidates k s looks).Pairwise
    fun l m => turnOf s.frame.air[k.port].rotation l.track < turnOf s.frame.air[k.port].rotation m.track := by
  unfold candidates
  rw [List.pairwise_filterMap]
  refine (repeatOrder_rising _).imp fun {v w} hvw l hl m hm => ?_
  obtain ⟨-, hlv, -⟩ := candidate_of_find hl
  obtain ⟨-, hmw, -⟩ := candidate_of_find hm
  rw [hlv, hmw]
  exact hvw

/-- The candidates are the looks that repeat, where no track has two looks. -/
theorem mem_candidates (hd : looks.Pairwise fun l m => l.track ≠ m.track) :
    l ∈ candidates k s looks ↔ l ∈ looks ∧ l.Repeats k s := by
  unfold candidates
  rw [List.mem_filterMap]
  constructor
  · rintro ⟨v, -, hfind⟩
    obtain ⟨hmem, -, hrepeats⟩ := candidate_of_find hfind
    exact ⟨hmem, hrepeats⟩
  · rintro ⟨hmem, hrepeats⟩
    refine ⟨l.track, mem_repeatOrder _ _, find?_eq_some_of_first hd hmem (candidate_test.2 ⟨rfl, hrepeats⟩) fun m hm => ?_⟩
    exact Bool.eq_false_iff.2 fun e => hm (candidate_test.1 e).1

theorem candidates_none (h : ¬l.Repeats k s) : candidates k s [l] = [] := by
  refine List.eq_nil_iff_forall_not_mem.mpr fun m hm => ?_
  obtain ⟨hmem, hrepeats⟩ := (mem_candidates (List.pairwise_singleton _ l)).1 hm
  rw [List.mem_singleton.1 hmem] at hrepeats
  exact h hrepeats

theorem candidates_one (h : l.Repeats k s) : candidates k s [l] = [l] := by
  have hrising := candidates_rising k s [l]
  have hall : ∀ m, m ∈ candidates k s [l] ↔ m = l := fun m => by
    rw [mem_candidates (List.pairwise_singleton _ l), List.mem_singleton, and_iff_left_iff_imp]
    rintro rfl
    exact h
  generalize candidates k s [l] = q at hrising hall
  match q, hrising, hall with
  | [], _, hall => exact absurd ((hall l).2 rfl) (by simp)
  | [m], _, hall => rw [(hall m).1 (.head _)]
  | m :: m' :: q, hrising, hall =>
    have hm : m = l := (hall m).1 (.head _)
    have hm' : m' = l := (hall m').1 (.tail _ (.head _))
    have hlt := (List.pairwise_cons.1 hrising).1 m' (.head _)
    rw [hm, hm'] at hlt
    exact absurd hlt (Nat.lt_irrefl _)

end

/-! ### A PULL of one caption track (R142, R144, R158) -/

section
variable {s : State} {p : Fin 2} {a : Aud} {v : TrackNo} {x : TitleTrack}

/-- The tracks of an ascending list that pass a test only one does. -/
theorem filter_tracks_one {q : TrackNo → Bool} (h : ∀ w, q w = true ↔ w = v) : allTracks.filter q = [v] := by
  have hq : q = fun w => decide (w = v) := funext fun w => by rw [Bool.eq_iff_iff, h, decide_eq_true_iff]
  subst hq
  revert v
  decide

theorem filter_tracks_none {q : TrackNo → Bool} (h : ∀ w, q w = false) : allTracks.filter q = [] :=
  List.filter_eq_nil_iff.mpr fun w _ => by rw [h w]; decide

theorem composeCaptions_one (k : PullContext) (c : Compose) : composeCaptions k [v] c =
    (candidates k (offerChanged k (c, []) v).1.state (offerChanged k (c, []) v).2).foldl (offerRepeat k)
      (offerChanged k (c, []) v).1 := rfl

/-- The payload of a show without audio to send. -/
theorem pullPayload_captions (h : s.shows[a].state = .held ∨ ((s.shows[a].state = .running ∨ s.shows[a].state = .freewheel) ∧
    ∀ w, isSubscribed s .description a w = false)) (hv : ∀ w, isSubscribed s .caption a w = true ↔ w = v) :
    pullPayload s p a = composeCaptions (pullContext s p a) [v] (pullStart s p a) := by
  unfold pullPayload
  rw [filter_tracks_one hv]
  rcases h with h | ⟨h | h, hnone⟩
  · rw [h]
    rfl
  · rw [h, filter_tracks_none hnone]
    rfl
  · rw [h, filter_tracks_none hnone]
    rfl

/-- What a PULL looks up on a track (R142). -/
def pullLook (s : State) (p : Fin 2) (a : Aud) (v : TrackNo) : Found × CueBlock := lookup s a v (pullContext s p a).sair

/-- The state of a PULL after its one lookup. -/
def pullLooked (s : State) (p : Fin 2) (a : Aud) (v : TrackNo) : State := { pulled s a with cues := (pullLook s p a v).2 }

section
variable (hx : trackOf s a v = some x)
include hx

/-- The one track unchanged: only the cursor has moved. -/
theorem pull_unchanged (hsent : (pulled s a).frame.auds[a].sent[v] = (pullLook s p a v).1.current) :
    offerChanged (pullContext s p a) (pullStart s p a, []) v =
      ({ pullStart s p a with state := pullLooked s p a v }, [⟨v, (pullLook s p a v).1, false⟩]) :=
  offerChanged_unchanged (k := pullContext s p a) (c := pullStart s p a) hx hsent

/-- The one track changed: its section is placed. -/
theorem pull_changed (hcap : 512 ≤ s.frame.air[p].capacity)
    (hsent : (pulled s a).frame.auds[a].sent[v] ≠ (pullLook s p a v).1.current) :
    offerChanged (pullContext s p a) (pullStart s p a, []) v =
      (⟨s.frame.air[p].capacity - 12 - (captionSection (pulled s a) x v (pullLook s p a v).1 false).size,
        [captionSection (pulled s a) x v (pullLook s p a v).1 false],
        markSent (pullContext s p a) v (pullLook s p a v).1.current (pullLooked s p a v)⟩,
        [⟨v, (pullLook s p a v).1, true⟩]) := by
  refine (offerChanged_changed (k := pullContext s p a) (c := pullStart s p a) hx hsent).trans ?_
  rw [offer_placed]
  · rfl
  · have hle := captionBytes_length_le (pulled s a).titles.cue x v (pullLook s p a v).1 false
    rw [← captionSection_size] at hle
    have hroom : 263 ≤ s.frame.air[p].capacity - 12 := by omega
    exact Nat.le_trans hle hroom

/-- The one track's repeat is placed. -/
theorem pull_repeats (hcap : 512 ≤ s.frame.air[p].capacity) :
    offerRepeat (pullContext s p a) { pullStart s p a with state := pullLooked s p a v } ⟨v, (pullLook s p a v).1, false⟩ =
      ⟨s.frame.air[p].capacity - 12 - (captionSection (pullLooked s p a v) x v (pullLook s p a v).1 true).size,
        [captionSection (pullLooked s p a v) x v (pullLook s p a v).1 true],
        markRepeat (pullContext s p a) v (pullLooked s p a v)⟩ := by
  refine (offerRepeat_offers (k := pullContext s p a) (c := { pullStart s p a with state := pullLooked s p a v }) (x := x)
    (l := ⟨v, (pullLook s p a v).1, false⟩) hx).trans ?_
  rw [offer_placed]
  · rfl
  · have hle := captionBytes_length_le (pullLooked s p a v).titles.cue x v (pullLook s p a v).1 true
    rw [← captionSection_size] at hle
    have hroom : 263 ≤ s.frame.air[p].capacity - 12 := by omega
    exact Nat.le_trans hle hroom

end

end

section
variable (k : PullContext) (c : Compose) (v : TrackNo) (x : TitleTrack)

/-- A changed track, by whether its section fits (R146, R154). -/
theorem offerChanged_changed_by_room (looks : List CaptionLook) (hx : trackOf c.state k.aud v = some x)
    (hsent : c.state.frame.auds[k.aud].sent[v] ≠ (lookup c.state k.aud v k.sair).1.current) :
    let r := lookup c.state k.aud v k.sair
    let looked := { c.state with cues := r.2 }
    let bytes := captionBytes c.state.titles.cue x v r.1 false
    let q := offerChanged k (c, looks) v
    q.2 = looks ++ [⟨v, r.1, true⟩] ∧
      (bytes.length ≤ c.room → ∃ y : Section, y.bytes = bytes ∧
        q.1 = ⟨c.room - bytes.length, c.sections ++ [y], markSent k v r.1.current looked⟩) ∧
      (c.room < bytes.length → q.1 = { c with state := sectionSkipped looked k.port }) := by
  intro r looked bytes q
  have hq := offerChanged_changed (looks := looks) hx hsent
  have hsize : (captionSection c.state x v r.1 false).size = bytes.length := captionSection_size _ _ _ _ _
  refine ⟨congrArg Prod.snd hq, fun hroom => ⟨_, captionSection_bytes c.state x v r.1 false, ?_⟩, fun hroom => ?_⟩
  · refine (congrArg Prod.fst hq).trans ?_
    dsimp only
    rw [offer_placed (by rw [hsize]; exact hroom), hsize]
  · refine (congrArg Prod.fst hq).trans ?_
    dsimp only
    rw [offer_skipped (by rw [hsize]; exact hroom)]
    rfl

/-- A repeat, by whether its section fits (R146, R156). -/
theorem offerRepeat_by_room (l : CaptionLook) (hx : trackOf c.state k.aud l.track = some x) :
    let bytes := captionBytes c.state.titles.cue x l.track l.found true
    (bytes.length ≤ c.room → ∃ y : Section, y.bytes = bytes ∧
      offerRepeat k c l = ⟨c.room - bytes.length, c.sections ++ [y], markRepeat k l.track c.state⟩) ∧
    (c.room < bytes.length → offerRepeat k c l = { c with state := sectionSkipped c.state k.port }) := by
  intro bytes
  have hsize : (captionSection c.state x l.track l.found true).size = bytes.length := captionSection_size _ _ _ _ _
  rw [offerRepeat_offers hx]
  refine ⟨fun hroom => ⟨_, captionSection_bytes c.state x l.track l.found true, ?_⟩, fun hroom => ?_⟩
  · rw [offer_placed (by rw [hsize]; exact hroom), hsize]
  · rw [offer_skipped (by rw [hsize]; exact hroom)]
    rfl

end

/-- Settles O43: the parts of the composition, and a payload of one caption track by what its look found. -/
theorem pullSendsTheCaption : Obligations.PullSendsTheCaption := by
  refine ⟨fun p tag a v x s ho hport hs hstate hv hx => ?_, fun _ _ _ => rfl, fun k c v x looks hx => ?_,
    fun k s looks hd => ?_, fun k c l x hx => offerRepeat_by_room k c x l hx⟩
  · intro air r current u f sends cue
    have hcap := capacity_ge hs p
    have hpayload : pullPayload s p a = _ := (pullPayload_captions hstate hv).trans (composeCaptions_one _ _)
    have hsends : ∀ {l : List Section} {n : Nat} {t : State}, pullPayload s p a = ⟨n, l, t⟩ →
        sends (payloadHeader s p a l.length ++ l.flatMap Section.bytes) t := fun h => exec_pull_taken ho hport h
    refine ⟨fun hsent => ?_, fun hsent hcount => ?_, fun hsent hcount => ?_⟩
    · rw [pull_changed hx hcap hsent, candidates_none (fun h => Bool.noConfusion h.1), List.foldl_nil] at hpayload
      have h := hsends hpayload
      rw [List.flatMap_singleton, captionSection_bytes] at h
      exact h
    · rw [pull_unchanged hx hsent, candidates_none (fun h => hcount h.2), List.foldl_nil] at hpayload
      have h := hsends hpayload
      exact h.trans (congrArg (fun d => Host.Outcome.next (answer (.air p) 12 tag (Reply.okData d) (suspendTest u)))
        (List.append_nil _))
    · rw [pull_unchanged hx hsent, candidates_one ⟨rfl, hcount⟩, List.foldl_cons, List.foldl_nil, pull_repeats hx hcap] at hpayload
      have h := hsends hpayload
      rw [List.flatMap_singleton, captionSection_bytes] at h
      exact h
  · exact ⟨offerChanged_unchanged hx, offerChanged_changed_by_room k c v x looks hx⟩
  · exact ⟨fun l => mem_candidates hd, candidates_rising k s looks⟩

end Sys2Proof.Machine
end

/-! SUPPORT. The audio of a payload: late removal, the blocks offered, and a PULL of one description track (R146, R148 to R152). -/
section
namespace Sys2Proof.Machine
open Sys2Proof.Safety

/-! ### The section of a ring position (R145, R150) -/

theorem sectionFor_bytes (x : RingPos) (v : TrackNo) : (x.sectionFor v).bytes = blockSection v x := by
  unfold RingPos.sectionFor blockSection
  cases x.state with
  | present data => rfl
  | outstanding =>
    simp only [Section.bytes, blockBytes, SilenceReason.toNat, Nat.zero_add]
    rfl
  | bad => rfl
  | silent => rfl

theorem sectionFor_size (x : RingPos) (v : TrackNo) : (x.sectionFor v).size = (blockSection v x).length :=
  congrArg List.length (sectionFor_bytes x v)

/-- The SILENCE of an UNSERVED track (R152). -/
theorem unserved_bytes (v : TrackNo) {sair : Nat} (h : sair ≤ 16777215) :
    (Section.silence v .unserved sair 0 0).bytes = [byte (64 + v.val), 3] ++ le 3 sair ++ le 3 0 := by
  have hhigh : sair / 16777216 % 2 = 0 := by omega
  simp only [Section.bytes, blockBytes, SilenceReason.toNat, hhigh]
  rfl

theorem unserved_size (v : TrackNo) (sair : Nat) : (Section.silence v .unserved sair 0 0).size = 8 := rfl

/-! ### Late removal (R149) -/

section
variable {k : PullContext} {v : TrackNo} {i : StreamNo} {late rest : List RingPos} {s : State}

/-- The late positions of a ring are those before the first that is not late. -/
theorem lateCount_eq {sair : Nat} (hlate : ∀ z ∈ late, z.play + 96 ≤ sair)
    (hrest : ∀ z, rest.head? = some z → sair < z.play + 96) : lateCount sair (late ++ rest) = late.length := by
  unfold lateCount
  rw [List.takeWhile_append_of_pos fun z hz => decide_eq_true (hlate z hz)]
  cases rest with
  | nil => simp
  | cons z rest =>
    have hz : ¬z.play + Config.blockTicks ≤ sair := Nat.not_le.mpr (hrest z rfl)
    rw [List.takeWhile_cons_of_neg (by simpa using hz), List.append_nil]

/-- The state with the late positions of a stream out of its ring and counted, before the fill. -/
def lateCut (k : PullContext) (i : StreamNo) (n : Nat) (rest : List RingPos) (s : State) : State :=
  { s with stream := { s.stream with
      entries := setAt s.stream.entries i { s.stream.entries[i] with ring := rest }
      stats := setAt s.stream.stats k.aud { s.stream.stats[k.aud] with late := bumpBy n s.stream.stats[k.aud].late } } }

theorem removeLateTrack_eq (hi : s.stream.streamOf k.aud v = some i) (hring : s.stream.entries[i].ring = late ++ rest)
    (hlate : ∀ z ∈ late, z.play + 96 ≤ k.sair) (hrest : ∀ z, rest.head? = some z → k.sair < z.play + 96) :
    removeLateTrack k s v = if late = [] then s else fill i (lateCut k i late.length rest s) := by
  unfold removeLateTrack
  rw [hi]
  unfold removeLate
  dsimp only
  rw [hring, lateCount_eq hlate hrest, List.drop_left]
  cases late with
  | nil => rfl
  | cons z late => rfl

theorem removeLateTrack_streamless (h : s.stream.streamOf k.aud v = none) : removeLateTrack k s v = s := by
  unfold removeLateTrack
  rw [h]

end

/-! ### The blocks offered (R150 to R152) -/

section
variable {k : PullContext} {c : Compose} {placed : List TrackNo} {v : TrackNo} {i : StreamNo} {x : RingPos} {rest : List RingPos}

/-- The state with the oldest position of a stream taken out of its ring, before the fill. -/
def positionCut (k : PullContext) (i : StreamNo) (x : RingPos) (rest : List RingPos) (s : State) : State :=
  { s with stream := { s.stream with
      entries := setAt s.stream.entries i { s.stream.entries[i] with ring := rest }
      stats := if x.state = .outstanding then setAt s.stream.stats k.aud { s.stream.stats[k.aud] with
          underruns := bump s.stream.stats[k.aud].underruns }
        else s.stream.stats } }

theorem takePosition_eq {s : State} (hring : s.stream.entries[i].ring = x :: rest) :
    takePosition k i x s = fill i (positionCut k i x rest s) := by
  have hpop : s.stream.pop i =
      { s.stream with entries := setAt s.stream.entries i { s.stream.entries[i] with ring := rest } } := by
    unfold StreamBlock.pop
    rw [hring]
    rfl
  unfold takePosition positionCut
  dsimp only
  rw [hpop]
  split <;> rfl

theorem offerDue_empty (hring : c.state.stream.entries[i].ring = []) : offerDue k v i c = (c, false) := by
  unfold offerDue
  rw [hring]
  rfl

theorem offerDue_notDue (hring : c.state.stream.entries[i].ring = x :: rest) (hx : k.sair + k.window ≤ x.play) :
    offerDue k v i c = (c, false) := by
  unfold offerDue
  rw [hring]
  exact if_neg (Nat.not_lt.mpr hx)

theorem offerDue_due (hring : c.state.stream.entries[i].ring = x :: rest) (hx : x.play < k.sair + k.window) :
    offerDue k v i c = offer k (x.sectionFor v) (takePosition k i x) c := by
  unfold offerDue
  rw [hring]
  exact if_pos hx

theorem offerDue_placed (hring : c.state.stream.entries[i].ring = x :: rest) (hx : x.play < k.sair + k.window)
    (hroom : (blockSection v x).length ≤ c.room) : offerDue k v i c =
      (⟨c.room - (blockSection v x).length, c.sections ++ [x.sectionFor v], fill i (positionCut k i x rest c.state)⟩, true) := by
  rw [offerDue_due hring hx, offer_placed (by rw [sectionFor_size]; exact hroom), sectionFor_size, takePosition_eq hring]

theorem offerDue_skipped (hring : c.state.stream.entries[i].ring = x :: rest) (hx : x.play < k.sair + k.window)
    (hroom : c.room < (blockSection v x).length) :
    offerDue k v i c = ({ c with state := sectionSkipped c.state k.port }, false) := by
  rw [offerDue_due hring hx, offer_skipped (by rw [sectionFor_size]; exact hroom)]
  rfl

theorem offerFirst_stream (hi : c.state.stream.streamOf k.aud v = some i) : offerFirst k (c, placed) v =
    ((offerDue k v i c).1, if (offerDue k v i c).2 then placed ++ [v] else placed) := by
  unfold offerFirst
  dsimp only
  rw [hi]

theorem offerSecond_stream (hi : c.state.stream.streamOf k.aud v = some i) : offerSecond k c v = (offerDue k v i c).1 := by
  unfold offerSecond
  rw [hi]

theorem offerFirst_streamless (hi : c.state.stream.streamOf k.aud v = none) : offerFirst k (c, placed) v =
    if c.state.stream.isUnserved k.aud v then ((offer k (.silence v .unserved k.sair 0 0) id c).1, placed) else (c, placed) := by
  unfold offerFirst
  dsimp only
  rw [hi]

theorem offerSecond_streamless (hi : c.state.stream.streamOf k.aud v = none) : offerSecond k c v = c := by
  unfold offerSecond
  rw [hi]

end

/-! ### A ring that loses its oldest positions and fills (R149, R150, R169) -/

/-- Ring `i` of the Stream Unit `b` cut to `left` and filled: `c` differs in no other entry, and serves the same tracks. -/
structure RingCut (i : StreamNo) (left : List RingPos) (b c : StreamBlock) : Prop where
  ring : ∃ more, c.entries[i].ring = left ++ more
  alloc : c.entries[i].alloc = b.entries[i].alloc
  aud : c.entries[i].aud = b.entries[i].aud
  track : c.entries[i].track = b.entries[i].track
  others : ∀ j, j ≠ i → c.entries[j] = b.entries[j]

section
variable {i : StreamNo} {left left' : List RingPos} {b c d : StreamBlock}

theorem RingCut.start (h : b.entries[i].ring = left) : RingCut i left b b :=
  ⟨⟨[], by rw [h, List.append_nil]⟩, rfl, rfl, rfl, fun _ _ => rfl⟩

theorem RingCut.trans' (h : RingCut i left b c) (h' : RingCut i left' c d) : RingCut i left' b d :=
  ⟨h'.ring, h'.alloc.trans h.alloc, h'.aud.trans h.aud, h'.track.trans h.track,
    fun j hj => (h'.others j hj).trans (h.others j hj)⟩

theorem RingCut.streamOf (h : RingCut i left b c) (a : Aud) (v : TrackNo) : c.streamOf a v = b.streamOf a v := by
  refine StreamBlock.streamOf_congr fun j => ?_
  by_cases hj : j = i
  · subst hj
    unfold StreamBlock.Serves
    rw [h.alloc, h.aud, h.track]
  · exact StreamBlock.Serves.congr (h.others j hj)

/-- A ring cut, and then filled. -/
theorem fill_ringCut {s u : State} (hentries : u.stream.entries = setAt s.stream.entries i { s.stream.entries[i] with ring := left }) :
    ∃ b, fill i u = { u with stream := b } ∧ RingCut i left s.stream b ∧
      ∀ a : Aud, b.stats[a].underruns = u.stream.stats[a].underruns := by
  obtain ⟨b, hfill, hframe⟩ := fill_spec i u
  have hself : u.stream.entries[i] = { s.stream.entries[i] with ring := left } := by rw [hentries]; exact setAt_self _ _ _
  refine ⟨b, hfill, ⟨?_, ?_, ?_, ?_, fun j hj => ?_⟩, hframe.underruns⟩
  · obtain ⟨more, hmore⟩ := hframe.ring
    exact ⟨more, by rw [← hmore, hself]⟩
  · rw [hframe.alloc, hself]
  · rw [hframe.aud, hself]
  · rw [hframe.track, hself]
  · rw [hframe.others j hj, hentries]
    exact setAt_other _ _ hj.symm

end

section
variable {k : PullContext} {v : TrackNo} {i : StreamNo} {late rest : List RingPos} {s : State} {x : RingPos}

theorem lateCut_underruns (k : PullContext) (i : StreamNo) (n : Nat) (rest : List RingPos) (s : State) (a : Aud) :
    (lateCut k i n rest s).stream.stats[a].underruns = s.stream.stats[a].underruns := by
  by_cases h : k.aud = a
  · subst h
    simp [lateCut]
  · simp [lateCut, Fin.val_ne_of_ne h]

/-- Late removal cuts the late positions, and changes the Stream Unit alone. -/
theorem removeLateTrack_cuts (hi : s.stream.streamOf k.aud v = some i) (hring : s.stream.entries[i].ring = late ++ rest)
    (hlate : ∀ z ∈ late, z.play + 96 ≤ k.sair) (hrest : ∀ z, rest.head? = some z → k.sair < z.play + 96) :
    ∃ b, removeLateTrack k s v = { s with stream := b } ∧ RingCut i rest s.stream b ∧
      ∀ a : Aud, b.stats[a].underruns = s.stream.stats[a].underruns := by
  rw [removeLateTrack_eq hi hring hlate hrest]
  by_cases h : late = []
  · rw [if_pos h]
    refine ⟨s.stream, rfl, .start ?_, fun _ => rfl⟩
    rw [hring, h, List.nil_append]
  · rw [if_neg h]
    obtain ⟨b, hb, hcut, hunder⟩ := fill_ringCut (s := s) (u := lateCut k i late.length rest s) rfl
    exact ⟨b, hb, hcut, fun a => (hunder a).trans (lateCut_underruns _ _ _ _ _ _)⟩

/-- A placed position leaves the ring, an OUTSTANDING one counted, and changes the Stream Unit alone. -/
theorem positionCut_cuts (k : PullContext) (i : StreamNo) (x : RingPos) (rest : List RingPos) (s : State) :
    ∃ b, fill i (positionCut k i x rest s) = { s with stream := b } ∧ RingCut i rest s.stream b ∧
      b.stats[k.aud].underruns =
        (if x.state = .outstanding then bump s.stream.stats[k.aud].underruns else s.stream.stats[k.aud].underruns) := by
  obtain ⟨b, hb, hcut, hunder⟩ := fill_ringCut (s := s) (u := positionCut k i x rest s) rfl
  refine ⟨b, hb, hcut, (hunder k.aud).trans ?_⟩
  unfold positionCut
  dsimp only
  split
  · rw [setAt_self]
  · rfl

end

/-! ### A PULL of one description track (R142, R148) -/

section
variable {s : State} {p : Fin 2} {a : Aud} {v : TrackNo}

theorem composeCaptions_nil (k : PullContext) (c : Compose) : composeCaptions k [] c = c := by
  have hnone : candidates k c.state [] = [] := List.filterMap_eq_nil_iff.mpr fun _ _ => rfl
  have heq : composeCaptions k [] c = (candidates k c.state []).foldl (offerRepeat k) c := rfl
  rw [heq, hnone, List.foldl_nil]

/-- The audio of one track: its late removal, its first block, and the second if the first was placed (R148). -/
theorem composeAudio_one {k : PullContext} {c : Compose} {u : State} {q : Compose × List TrackNo}
    (hremove : removeLateTrack k c.state v = u) (hfirst : offerFirst k ({ c with state := u }, []) v = q) :
    composeAudio k [v] c = q.2.foldl (offerSecond k) q.1 := by
  subst hremove hfirst
  rfl

/-- The payload before its first section, with another Stream Unit. -/
def pullWith (s : State) (p : Fin 2) (a : Aud) (b : StreamBlock) : Compose :=
  ⟨s.frame.air[p].capacity - 12, [], { pulled s a with stream := b }⟩

/-- The payload of a show that sends audio and captions, or captions alone (R144). -/
theorem pullPayload_moving
    (h : s.shows[a].state = .running ∨ s.shows[a].state = .freewheel ∨ s.shows[a].state = .held) :
    pullPayload s p a = composeCaptions (pullContext s p a) (allTracks.filter (isSubscribed s .caption a))
      (if s.shows[a].state = .held then pullStart s p a
        else composeAudio (pullContext s p a) (allTracks.filter (isSubscribed s .description a)) (pullStart s p a)) := by
  unfold pullPayload
  rcases h with h | h | h <;> rw [h] <;> rfl

theorem pullPayload_audio (h : s.shows[a].state = .running ∨ s.shows[a].state = .freewheel)
    (hcaption : ∀ w, isSubscribed s .caption a w = false) (hv : ∀ w, isSubscribed s .description a w = true ↔ w = v) :
    pullPayload s p a = composeAudio (pullContext s p a) [v] (pullStart s p a) := by
  have hheld : s.shows[a].state ≠ .held := by rcases h with h | h <;> rw [h] <;> decide
  rw [pullPayload_moving (h.imp_right .inl), filter_tracks_none hcaption, filter_tracks_one hv, composeCaptions_nil,
    if_neg hheld]

section
variable {i : StreamNo} {late rest : List RingPos} {x y : RingPos} (hi : s.stream.streamOf a v = some i)
include hi

/-- The oldest block that is not late is placed, and the next is not due (R149 to R151). -/
theorem pull_block (hring : s.stream.entries[i].ring = late ++ x :: y :: rest)
    (hlate : ∀ z ∈ late, z.play + 96 ≤ (pullContext s p a).sair) (hx : (pullContext s p a).sair < x.play + 96)
    (hdue : x.play < (pullContext s p a).sair + (pullContext s p a).window)
    (hy : (pullContext s p a).sair + (pullContext s p a).window ≤ y.play)
    (hroom : (blockSection v x).length ≤ s.frame.air[p].capacity - 12) :
    ∃ b, composeAudio (pullContext s p a) [v] (pullStart s p a) =
        ⟨s.frame.air[p].capacity - 12 - (blockSection v x).length, [x.sectionFor v], { pulled s a with stream := b }⟩ ∧
      RingCut i (y :: rest) s.stream b ∧ b.stats[a].underruns =
        (if x.state = .outstanding then bump s.stream.stats[a].underruns else s.stream.stats[a].underruns) := by
  obtain ⟨b, hremove, hcut, hunder⟩ := removeLateTrack_cuts (k := pullContext s p a) (s := pulled s a) hi hring hlate
    (fun z hz => by cases hz; exact hx)
  obtain ⟨more, hmore⟩ := hcut.ring
  obtain ⟨d, hplaced, hcut', hunder'⟩ :=
    positionCut_cuts (pullContext s p a) i x (y :: rest ++ more) { pulled s a with stream := b }
  obtain ⟨more', hmore'⟩ := hcut'.ring
  have hstream : b.streamOf a v = some i := (hcut.streamOf a v).trans hi
  have hstream' : d.streamOf a v = some i := (hcut'.streamOf a v).trans hstream
  have hfirst : offerFirst (pullContext s p a) (pullWith s p a b, []) v =
      (⟨s.frame.air[p].capacity - 12 - (blockSection v x).length, [x.sectionFor v], { pulled s a with stream := d }⟩, [v]) := by
    rw [offerFirst_stream (k := pullContext s p a) (c := pullWith s p a b) hstream,
      offerDue_placed (k := pullContext s p a) (c := pullWith s p a b) hmore hdue hroom]
    exact congrArg (fun u => (Compose.mk (s.frame.air[p].capacity - 12 - (blockSection v x).length) [x.sectionFor v] u, [v])) hplaced
  refine ⟨d, ?_, ⟨⟨more ++ more', ?_⟩, hcut'.alloc.trans hcut.alloc, hcut'.aud.trans hcut.aud, hcut'.track.trans hcut.track,
    fun j hj => (hcut'.others j hj).trans (hcut.others j hj)⟩, hunder'.trans ?_⟩
  · rw [composeAudio_one (c := pullStart s p a) hremove hfirst, List.foldl_cons, List.foldl_nil,
      offerSecond_stream (k := pullContext s p a) (c := ⟨_, _, { pulled s a with stream := d }⟩) hstream',
      offerDue_notDue (k := pullContext s p a) (c := ⟨_, _, { pulled s a with stream := d }⟩) hmore' hy]
  · rw [hmore', List.append_assoc]
  · change (if x.state = .outstanding then bump b.stats[a].underruns else b.stats[a].underruns) = _
    rw [hunder a]
    rfl

/-- A block that does not fit stays, counted as deferred (R146). -/
theorem pull_block_skipped (hring : s.stream.entries[i].ring = x :: y :: rest)
    (hx : (pullContext s p a).sair < x.play + 96) (hdue : x.play < (pullContext s p a).sair + (pullContext s p a).window)
    (hroom : s.frame.air[p].capacity - 12 < (blockSection v x).length) :
    composeAudio (pullContext s p a) [v] (pullStart s p a) =
      ⟨s.frame.air[p].capacity - 12, [], sectionSkipped (pulled s a) p⟩ := by
  have hremove : removeLateTrack (pullContext s p a) (pulled s a) v = pulled s a :=
    removeLateTrack_eq (k := pullContext s p a) (s := pulled s a) (late := []) hi hring (fun _ hz => nomatch hz)
      (fun z hz => by cases hz; exact hx)
  have hfirst : offerFirst (pullContext s p a) (pullStart s p a, []) v =
      (⟨s.frame.air[p].capacity - 12, [], sectionSkipped (pulled s a) p⟩, []) := by
    rw [offerFirst_stream (k := pullContext s p a) (c := pullStart s p a) hi,
      offerDue_skipped (k := pullContext s p a) (c := pullStart s p a) hring hdue hroom]
    rfl
  exact composeAudio_one (c := pullStart s p a) hremove hfirst

end

/-- An UNSERVED track sends a SILENCE (R152). -/
theorem pull_unserved (hnone : s.stream.streamOf a v = none) (hmark : s.stream.isUnserved a v = true)
    (hcap : 512 ≤ s.frame.air[p].capacity) : composeAudio (pullContext s p a) [v] (pullStart s p a) =
      ⟨s.frame.air[p].capacity - 12 - 8, [.silence v .unserved (pullContext s p a).sair 0 0], pulled s a⟩ := by
  have hremove : removeLateTrack (pullContext s p a) (pulled s a) v = pulled s a :=
    removeLateTrack_streamless (k := pullContext s p a) (s := pulled s a) hnone
  have hroom : (Section.silence v .unserved (pullContext s p a).sair 0 0).size ≤ (pullStart s p a).room := by
    rw [unserved_size]
    change 8 ≤ s.frame.air[p].capacity - 12
    omega
  have hfirst : offerFirst (pullContext s p a) (pullStart s p a, []) v =
      (⟨s.frame.air[p].capacity - 12 - 8, [.silence v .unserved (pullContext s p a).sair 0 0], pulled s a⟩, []) := by
    rw [offerFirst_streamless (k := pullContext s p a) (c := pullStart s p a) hnone]
    refine (if_pos hmark).trans ?_
    rw [offer_placed hroom, unserved_size]
    rfl
  exact composeAudio_one (c := pullStart s p a) hremove hfirst

end

/-- Settles O44: the parts of the composition, and a payload of one description track by its ring. -/
theorem pullSendsTheBlock : Obligations.PullSendsTheBlock := by
  refine ⟨fun p tag a v s ho hport hs hstate hcaption hv => ?_, fun p tag a s ho hport hstate => ?_, fun _ _ _ => rfl,
    fun k v i late rest s hi hring hlate hrest => removeLateTrack_eq hi hring hlate hrest, fun k c placed v hsair => ?_⟩
  · intro air sair sends
    have hcap := capacity_ge hs p
    have hpayload := pullPayload_audio (p := p) hstate hcaption hv
    have hsends : ∀ {l : List Section} {n : Nat} {t : State},
        composeAudio (pullContext s p a) [v] (pullStart s p a) = ⟨n, l, t⟩ →
        sends (payloadHeader s p a l.length ++ l.flatMap Section.bytes) (suspendTest t) := fun h =>
      exec_pull_taken ho hport (hpayload.trans h)
    refine ⟨fun i late rest x y hi hring hlate hx hdue hy => ⟨fun hroom => ?_, fun hnone hroom => ?_⟩, fun hnone hmark => ?_⟩
    · have hfits : (blockSection v x).length ≤ s.frame.air[p].capacity - 12 := Nat.le_sub_of_add_le hroom
      obtain ⟨b, haudio, hcut, hunder⟩ := pull_block (p := p) hi hring hlate hx hdue hy hfits
      obtain ⟨more, hmore⟩ := hcut.ring
      have h := hsends haudio
      rw [List.flatMap_singleton, sectionFor_bytes] at h
      exact ⟨{ pulled s a with stream := b }, more, h, hmore, hunder, hcut.others,
        ⟨rfl, rfl, rfl, rfl, rfl, rfl, rfl, rfl, rfl, rfl⟩, rfl, rfl⟩
    · subst hnone
      have hskips : s.frame.air[p].capacity - 12 < (blockSection v x).length := by
        have : air.capacity = s.frame.air[p].capacity := rfl
        omega
      have h := hsends (pull_block_skipped (p := p) hi hring hx hdue hskips)
      exact h.trans (congrArg (fun d => Host.Outcome.next (answer (.air p) 12 tag (Reply.okData d)
        (suspendTest (sectionSkipped (pulled s a) p)))) (List.append_nil _))
    · have h := hsends (pull_unserved (p := p) hnone hmark hcap)
      have hsair : (pullContext s p a).sair ≤ 16777215 := Nat.min_le_right _ _
      rw [List.flatMap_singleton, unserved_bytes v hsair, ← List.append_assoc, ← List.append_assoc] at h
      exact h
  · intro air k start audio c
    exact exec_pull_taken ho hport (pullPayload_moving hstate)
  · intro b skips q
    refine ⟨fun i hi => ?_, fun hnone => ?_⟩
    · have hq : q = ((offerDue k v i c).1, if (offerDue k v i c).2 then placed ++ [v] else placed) := offerFirst_stream hi
      refine ⟨fun hring => ?_, fun x rest hring => ⟨fun hx => ?_, fun hx => ⟨fun hroom =>
        ⟨x.sectionFor v, sectionFor_bytes x v, ?_⟩, fun hroom => ?_⟩⟩, ?_⟩
      · rw [hq, offerDue_empty hring]
        rfl
      · rw [hq, offerDue_notDue hring hx]
        rfl
      · rw [hq, offerDue_placed hring hx hroom]
        rfl
      · rw [hq, offerDue_skipped hring hx hroom]
        rfl
      · rw [hq, offerSecond_stream hi]
    · have hq := offerFirst_streamless (placed := placed) hnone
      refine ⟨fun hmark => hq.trans (if_neg ?_), fun hmark => ⟨fun hroom => ⟨_, unserved_bytes v hsair, ?_⟩, fun hroom => ?_⟩,
        offerSecond_streamless hnone⟩
      · exact Bool.eq_false_iff.1 hmark
      · refine hq.trans ((if_pos hmark).trans ?_)
        rw [offer_placed (by rw [unserved_size]; exact hroom), unserved_size]
        rfl
      · refine hq.trans ((if_pos hmark).trans ?_)
        rw [offer_skipped (by rw [unserved_size]; exact hroom)]
        rfl

end Sys2Proof.Machine
end

/-! SUPPORT. The law of the rings through a fill: the blocks of a track come in the order of their play times (R163, R167, R169). -/
section
namespace Sys2Proof.Machine
open Sys2Proof.Safety

/-! ### The play times of a track's blocks -/

/-- Block `p.2` lies in entry `p.1` of the track, within the entry's effective duration (R167). -/
def BlockOf (s : State) (x : TitleTrack) (p : Nat × Nat) : Prop :=
  p.1 < x.track.n ∧ (descAt s x p.1).first ≤ p.2 ∧ p.2 < (descAt s x p.1).first + ceilDiv (descAt s x p.1).dur 96

/-- The play time of a block of the track (R9). -/
def playOf (s : State) (x : TitleTrack) (p : Nat × Nat) : Nat := playTime (descAt s x p.1) p.2

/-- The order of a fill: by entry, then by block. -/
def BlockBefore (p q : Nat × Nat) : Prop := p.1 < q.1 ∨ p.1 = q.1 ∧ p.2 < q.2

/-- Each entry of the track ends no later than a later one starts (R11). -/
def TitleTrack.InOrder (x : TitleTrack) (m : List Host.Cell) : Prop :=
  ∀ j k, j < k → k < x.track.n → entryEnd m x.title x.track j ≤ entryStart m x.title x.track k

section
variable {s : State} {x : TitleTrack} {e k : Nat} {p q : Nat × Nat}

theorem supplyAt_le (s : State) (x : TitleTrack) (j : Nat) : supplyAt s x j ≤ ceilDiv (descAt s x j).dur 96 := by
  unfold supplyAt supply
  dsimp only
  split <;> exact Nat.min_le_left _ _

/-- A block starts before its entry ends. -/
theorem BlockOf.playOf_lt (h : BlockOf s x p) : playOf s x p < (descAt s x p.1).start + (descAt s x p.1).dur := by
  obtain ⟨-, hfirst, hlast⟩ := h
  simp only [ceilDiv] at hlast
  simp only [playOf, playTime, Config.blockTicks]
  omega

theorem start_le_playOf (s : State) (x : TitleTrack) (p : Nat × Nat) : (descAt s x p.1).start ≤ playOf s x p :=
  Nat.le_add_right _ _

/-- Blocks in the order of a fill play in the order of time. -/
theorem BlockOf.playOf_rises (ho : x.InOrder s.titles.cue) (hp : BlockOf s x p) (hq : BlockOf s x q) (h : BlockBefore p q) :
    playOf s x p < playOf s x q := by
  rcases h with h | ⟨h, hlt⟩
  · calc playOf s x p < (descAt s x p.1).start + (descAt s x p.1).dur := hp.playOf_lt
      _ ≤ (descAt s x q.1).start := ho p.1 q.1 h hq.1
      _ ≤ playOf s x q := start_le_playOf s x q
  · obtain ⟨-, hfirst, -⟩ := hp
    unfold playOf playTime Config.blockTicks
    rw [← h]
    omega

theorem mem_blocksFrom (h : p ∈ blocksFrom s x e k) : p = (e, k) ∨ BlockBefore (e, k) p := by
  unfold blocksFrom at h
  simp only [List.mem_append, List.mem_map, List.mem_range'_1, List.mem_flatMap, BlockBefore] at h ⊢
  rcases h with ⟨b, hb, rfl⟩ | ⟨j, hj, b, -, rfl⟩
  · rcases Nat.eq_or_lt_of_le hb.1 with rfl | hlt
    · exact .inl rfl
    · exact .inr (.inr ⟨rfl, hlt⟩)
  · exact .inr (.inl (by dsimp only; omega))

/-- What a track supplies from a block on are blocks of it. -/
theorem blocksFrom_blockOf (he : e < x.track.n) (hk : (descAt s x e).first ≤ k) (h : p ∈ blocksFrom s x e k) :
    BlockOf s x p := by
  unfold blocksFrom at h
  simp only [List.mem_append, List.mem_map, List.mem_range'_1, List.mem_flatMap] at h
  rcases h with ⟨b, hb, rfl⟩ | ⟨j, hj, b, hb, rfl⟩
  · have hsupply := supplyAt_le s x e
    exact ⟨he, hk.trans hb.1, by dsimp only; omega⟩
  · have hsupply := supplyAt_le s x j
    exact ⟨by dsimp only; omega, hb.1, by dsimp only; omega⟩

theorem blocksFrom_ordered (s : State) (x : TitleTrack) (e k : Nat) : (blocksFrom s x e k).Pairwise BlockBefore := by
  unfold blocksFrom
  refine List.pairwise_append.2 ⟨?_, ?_, ?_⟩
  · rw [List.pairwise_map]
    exact (List.pairwise_lt_range' ..).imp fun h => .inr ⟨rfl, h⟩
  · rw [List.pairwise_flatMap]
    refine ⟨fun j _ => ?_, (List.pairwise_lt_range' ..).imp fun {j l} hjl => ?_⟩
    · rw [List.pairwise_map]
      exact (List.pairwise_lt_range' ..).imp fun h => .inr ⟨rfl, h⟩
    · intro p hp q hq
      obtain ⟨b, -, rfl⟩ := List.mem_map.1 hp
      obtain ⟨c, -, rfl⟩ := List.mem_map.1 hq
      exact .inl hjl
  · intro p hp q hq
    obtain ⟨b, -, rfl⟩ := List.mem_map.1 hp
    obtain ⟨j, hj, hq⟩ := List.mem_flatMap.1 hq
    obtain ⟨c, -, rfl⟩ := List.mem_map.1 hq
    exact .inl (by simp only [List.mem_range'_1] at hj; dsimp only; omega)

end

/-! ### What a fill may still place -/

/-- The blocks are of the track, and play in order. -/
structure BlocksAhead (s : State) (x : TitleTrack) (l : List (Nat × Nat)) : Prop where
  blocks : ∀ p ∈ l, BlockOf s x p
  rises : l.Pairwise fun p q => playOf s x p < playOf s x q

section
variable {s : State} {x : TitleTrack} {e k : Nat}

theorem blocksFrom_ahead (ho : x.InOrder s.titles.cue) (he : e < x.track.n) (hk : (descAt s x e).first ≤ k) :
    BlocksAhead s x (blocksFrom s x e k) := by
  have hblocks : ∀ p ∈ blocksFrom s x e k, BlockOf s x p := fun _ => blocksFrom_blockOf he hk
  exact ⟨hblocks, (blocksFrom_ordered s x e k).imp_of_mem fun hp hq h =>
    (hblocks _ hp).playOf_rises ho (hblocks _ hq) h⟩

/-- What a track supplies from a block on plays no earlier than that block. -/
theorem playOf_le_of_mem (ho : x.InOrder s.titles.cue) (h : BlockOf s x (e, k)) {p : Nat × Nat} (hp : p ∈ blocksFrom s x e k) :
    playOf s x (e, k) ≤ playOf s x p := by
  rcases mem_blocksFrom hp with rfl | hbefore
  · exact Nat.le_refl _
  · exact Nat.le_of_lt (h.playOf_rises ho (blocksFrom_blockOf h.1 h.2.1 hp) hbefore)

end

/-! ### The law of one ring -/

/-- The law of the rings for one stream (R163). -/
def RingFits (s : State) (st : Stream) : Prop :=
  st.ring.Pairwise (fun p q => p.play < q.play) ∧
    ∀ (e k : Nat) (x : TitleTrack), st.alloc = true → st.next = some (e, k) → trackOf s st.aud st.track = some x →
      BlockOf s x (e, k) ∧ ∀ p ∈ st.ring, p.play < playOf s x (e, k)

theorem ringLaw_iff (s : State) : RingLaw s ↔ ∀ i : StreamNo, RingFits s s.stream.entries[i] := by
  refine forall_congr' fun i => and_congr_right fun _ => ?_
  refine forall_congr' fun e => forall_congr' fun k => forall_congr' fun x => forall_congr' fun _ => forall_congr' fun _ =>
    forall_congr' fun _ => ?_
  exact ⟨fun ⟨he, hfirst, hlast, hring⟩ => ⟨⟨he, hfirst, hlast⟩, hring⟩,
    fun ⟨⟨he, hfirst, hlast⟩, hring⟩ => ⟨he, hfirst, hlast, hring⟩⟩

section
variable {s : State} {st st' : Stream} {x : TitleTrack}

/-- A ring that only loses positions, whose positions keep their play times, still fits. -/
theorem RingFits.sublist (h : RingFits s st) (halloc : st'.alloc = true → st.alloc = true) (haud : st'.aud = st.aud)
    (htrack : st'.track = st.track) (hnext : st'.next = st.next)
    (hring : (st'.ring.map (·.play)).Sublist (st.ring.map (·.play))) : RingFits s st' := by
  obtain ⟨hrises, hahead⟩ := h
  refine ⟨List.pairwise_map.1 ((List.pairwise_map.2 hrises).sublist hring), fun e k x ha hn hx => ?_⟩
  rw [haud, htrack] at hx
  obtain ⟨hblock, hlater⟩ := hahead e k x (halloc ha) (hnext ▸ hn) hx
  refine ⟨hblock, fun p hp => ?_⟩
  obtain ⟨q, hq, hplay⟩ := List.mem_map.1 (hring.subset (List.mem_map_of_mem hp))
  exact hplay ▸ hlater q hq

/-- A ring without a next fetch position that fits no more than its order. -/
theorem RingFits.of_ended (hrises : st.ring.Pairwise fun p q => p.play < q.play) (h : st.next = none) : RingFits s st :=
  ⟨hrises, fun e k x _ hn _ => by rw [h] at hn; cases hn⟩

end

/-! ### The law of the rings through a fill (R169) -/

/-- A stream entry as a fill carries it: the ring in order, and before every block that may still be placed. -/
structure Filling (s : State) (x : TitleTrack) (l : List (Nat × Nat)) (st : Stream) : Prop where
  served : trackOf s st.aud st.track = some x
  ahead : BlocksAhead s x l
  rises : st.ring.Pairwise fun p q => p.play < q.play
  below : ∀ q ∈ st.ring, ∀ p ∈ l, q.play < playOf s x p

section
variable {s : State} {x : TitleTrack} {p : Nat × Nat} {rest : List (Nat × Nat)} {st : Stream}

theorem BlocksAhead.tail (h : BlocksAhead s x (p :: rest)) : BlocksAhead s x rest :=
  ⟨fun q hq => h.blocks q (.tail p hq), (List.pairwise_cons.1 h.rises).2⟩

theorem Filling.tail (h : Filling s x (p :: rest) st) : Filling s x rest st :=
  ⟨h.served, h.ahead.tail, h.rises, fun q hq r hr => h.below q hq r (.tail p hr)⟩

/-- The block that comes next joins the ring. -/
theorem Filling.place (h : Filling s x (p :: rest) st) {y : RingPos} (hy : y.play = playOf s x p) {n : Nat} :
    Filling s x rest { st with ring := st.ring ++ [y], outstanding := n } := by
  refine ⟨h.served, h.ahead.tail, ?_, fun q hq r hr => ?_⟩
  · refine List.pairwise_append.2 ⟨h.rises, List.pairwise_singleton _ _, fun q hq z hz => ?_⟩
    rw [List.mem_singleton.1 hz, hy]
    exact h.below q hq p (.head _)
  · rcases List.mem_append.1 hq with hq | hq
    · exact h.below q hq r (.tail p hr)
    · rw [List.mem_singleton.1 hq, hy]
      exact (List.pairwise_cons.1 h.ahead.rises).1 r hr

/-- The fill stops before the block that comes next. -/
theorem Filling.stop (h : Filling s x (p :: rest) st) : RingFits s { st with next := some p } := by
  refine ⟨h.rises, fun e k z _ hn hz => ?_⟩
  cases hn
  cases h.served.symm.trans hz
  exact ⟨h.ahead.blocks _ (.head _), fun q hq => h.below q hq _ (.head _)⟩

theorem fillBlocks_ringFits {i : StreamNo} (l : List (Nat × Nat)) {b : StreamBlock} (h : Filling s x l b.entries[i]) :
    RingFits s (fillBlocks s i x l b).entries[i] := by
  have hself : ∀ (c : StreamBlock) st, (c.setEntry i st).entries[i] = st := fun c st => setAt_self _ _ _
  have hstop : ∀ (c : StreamBlock) next, (c.setNext i next).entries[i] = { c.entries[i] with next := next } := fun c _ =>
    hself c _
  induction l generalizing b with
  | nil =>
    unfold fillBlocks
    rw [hstop]
    exact .of_ended h.rises rfl
  | cons p rest ih =>
    obtain ⟨e, k⟩ := p
    unfold fillBlocks
    dsimp only
    split
    · rw [hstop]
      exact h.stop
    · split
      · exact ih h.tail
      · split
        · refine ih ?_
          have hentry : ((b.push i ⟨playTime (descAt s x e) k, .silent, (descAt s x e).clip, k, 0, (descAt s x e).level⟩).count
              b.entries[i].aud fun c => { c with silent := bump c.silent }).entries[i] = _ := hself b _
          rw [hentry]
          exact h.place rfl
        · split
          · refine ih ?_
            have hentry := hself b { b.entries[i] with
              ring := b.entries[i].ring ++ [⟨playTime (descAt s x e) k, .outstanding, (descAt s x e).clip, k,
                (clipEntry s (descAt s x e).clip).first + k, (descAt s x e).level⟩]
              outstanding := b.entries[i].outstanding + 1 }
            exact hentry ▸ h.place rfl
          · rw [hstop]
            exact h.stop

end

/-- The entries of every track that an auditorium shows lie in order (R11). -/
def TracksInOrder (s : State) : Prop := ∀ a v x, trackOf s a v = some x → x.InOrder s.titles.cue

/-- A fill of an entry that fits leaves it so. -/
theorem fill_ringFits {s : State} {i : StreamNo} (ho : TracksInOrder s) (h : RingFits s s.stream.entries[i]) :
    RingFits s (fill i s).stream.entries[i] := by
  cases hnext : s.stream.entries[i].next with
  | none =>
    rw [fill_of_idle (.inr hnext)]
    exact h
  | some p =>
    obtain ⟨e, k⟩ := p
    cases halloc : s.stream.entries[i].alloc with
    | false =>
      rw [fill_of_idle (.inl halloc)]
      exact h
    | true =>
      cases hx : trackOf s s.stream.entries[i].aud s.stream.entries[i].track with
      | none =>
        have hidle : fill i s = s := by simp only [fill, hnext, hx]
        rw [hidle]
        exact h
      | some x =>
        obtain ⟨hrises, hahead⟩ := h
        obtain ⟨hblock, hlater⟩ := hahead e k x halloc hnext hx
        rw [fill_of_next halloc hnext hx]
        refine fillBlocks_ringFits _ ⟨hx, blocksFrom_ahead (ho _ _ x hx) hblock.1 hblock.2.1, hrises, fun q hq p hp => ?_⟩
        exact (hlater q hq).trans_le (playOf_le_of_mem (ho _ _ x hx) hblock hp)

/-- The next fetch position of a fill start is a block of the track (R166). -/
theorem startPosition_blockOf {s : State} {x : TitleTrack} {f : Found} {sair e k : Nat}
    (h : startPosition s x f sair = some (e, k)) : BlockOf s x (e, k) := by
  unfold startPosition at h
  split at h
  · rename_i hindex
    refine blocksFrom_blockOf hindex ?_ (List.mem_of_mem_head? h)
    split
    · exact Nat.le_add_right _ _
    · exact Nat.le_refl _
  · cases h

end Sys2Proof.Machine
end

/-! SUPPORT. What an operation keeps of the streams: the tracks that auditoriums show, which tracks have a stream or a mark, and the order of every ring (R148, R162, R163). -/
section
namespace Sys2Proof.Machine
open Sys2Proof.Safety

/-! ### Which tracks have a stream or a mark (R148, R164) -/

/-- No track has two streams, or a stream and a mark; those with either are the tracks of `K`. -/
def StreamBlock.ServesExactly (b : StreamBlock) (K : Aud → TrackNo → Prop) : Prop :=
  (∀ i j a v, b.Serves i a v → b.Serves j a v → i = j) ∧
    ∀ a v, ¬((∃ i, b.Serves i a v) ∧ b.unserved[a][v] = true) ∧
      ((∃ i, b.Serves i a v) ∨ b.unserved[a][v] = true ↔ K a v)

/-- A subscribed description track. -/
def Wanted (s : State) (a : Aud) (v : TrackNo) : Prop := isKind s .description a v = true ∧ 1 ≤ s.rcv.counts[a][v]

theorem serveLaw_iff (s : State) : ServeLaw s ↔ s.stream.ServesExactly (Wanted s) := Iff.rfl

section
variable {b c : StreamBlock} {K L : Aud → TrackNo → Prop}

theorem StreamBlock.ServesExactly.congr (h : b.ServesExactly K) (hs : ∀ i a v, c.Serves i a v ↔ b.Serves i a v)
    (hu : c.unserved = b.unserved) (hK : ∀ a v, K a v ↔ L a v) : c.ServesExactly L := by
  obtain ⟨hone, hboth⟩ := h
  refine ⟨fun i j a v hi hj => hone i j a v ((hs i a v).1 hi) ((hs j a v).1 hj), fun a v => ?_⟩
  simp only [hs, hu, ← hK]
  exact hboth a v

theorem FillFrame.serves {i : StreamNo} (h : FillFrame i b c) (j : StreamNo) (a : Aud) (v : TrackNo) :
    c.Serves j a v ↔ b.Serves j a v := by
  by_cases hj : j = i
  · subst hj
    unfold StreamBlock.Serves
    rw [h.alloc, h.aud, h.track]
  · exact StreamBlock.Serves.congr (h.others j hj)

end

/-! ### The tracks that auditoriums show -/

/-- Every auditorium shows in `t` the tracks that it shows in `s`, with the same entries. -/
structure TracksKept (s t : State) : Prop where
  track : ∀ a v, trackOf t a v = trackOf s a v
  entry : ∀ a v x, trackOf s a v = some x → ∀ e, e < x.track.n → descAt t x e = descAt s x e

section
variable {s t u : State}

theorem TracksKept.rfl' : TracksKept s s := ⟨fun _ _ => rfl, fun _ _ _ _ _ _ => rfl⟩

theorem TracksKept.trans' (h : TracksKept s t) (h' : TracksKept t u) : TracksKept s u :=
  ⟨fun a v => (h'.track a v).trans (h.track a v), fun a v x hx e he =>
    (h'.entry a v x ((h.track a v).trans hx) e he).trans (h.entry a v x hx e he)⟩

theorem TracksKept.of_titles (ht : t.titles = s.titles) (hheld : ∀ a : Aud, t.shows[a].title = s.shows[a].title) :
    TracksKept s t :=
  ⟨fun a v => trackOf_congr (hheld a) (fun x _ => title_congr ht x) v, fun a v x _ e _ => by unfold descAt; rw [ht]⟩

theorem CueFrame.tracksKept (h : CueFrame s t) : TracksKept s t := .of_titles h.titles h.held

theorem StreamFrame.tracksKept (h : StreamFrame s t) : TracksKept s t := .of_titles h.titles fun a => by rw [h.shows]

theorem TracksKept.isKind (h : TracksKept s t) (k : TrackKind) (a : Aud) (v : TrackNo) :
    Machine.isKind t k a v = Machine.isKind s k a v := by
  unfold Machine.isKind
  rw [h.track]

/-- Start and end of an entry are read from the entry. -/
theorem TracksKept.inOrder (h : TracksKept s t) (ho : TracksInOrder s) : TracksInOrder t := by
  intro a v x hx j k hjk hk
  rw [h.track] at hx
  have hj : entryEnd t.titles.cue x.title x.track j = entryEnd s.titles.cue x.title x.track j :=
    congrArg (fun d : DescEntry => d.start + d.dur) (h.entry a v x hx j (hjk.trans hk))
  have hk' : entryStart t.titles.cue x.title x.track k = entryStart s.titles.cue x.title x.track k :=
    congrArg DescEntry.start (h.entry a v x hx k hk)
  rw [hj, hk']
  exact ho a v x hx j k hjk hk

theorem TracksKept.ringFits {st : Stream} (h : TracksKept s t) (hs : RingFits s st) : RingFits t st := by
  obtain ⟨hrises, hahead⟩ := hs
  refine ⟨hrises, fun e k x ha hn hx => ?_⟩
  rw [h.track] at hx
  obtain ⟨hblock, hlater⟩ := hahead e k x ha hn hx
  have hentry := h.entry _ _ x hx e hblock.1
  simp only [BlockOf, playOf, hentry]
  exact ⟨hblock, hlater⟩

end

/-! ### What an operation keeps -/

/-- `t` keeps the laws of the streams of `s`, while the entries of the tracks lie in order. -/
structure KeepsStreams (s t : State) : Prop where
  tracks : TracksKept s t
  serve : ServeLaw s → ServeLaw t
  ring : TracksInOrder s → RingLaw s → RingLaw t

section
variable {s t u : State} {i : StreamNo}

theorem KeepsStreams.rfl' : KeepsStreams s s := ⟨.rfl', id, fun _ => id⟩

theorem KeepsStreams.trans' (h : KeepsStreams s t) (h' : KeepsStreams t u) : KeepsStreams s u :=
  ⟨h.tracks.trans' h'.tracks, h'.serve ∘ h.serve, fun ho hr => h'.ring (h.tracks.inOrder ho) (h.ring ho hr)⟩

theorem KeepsStreams.foldl {α : Type} {f : State → α → State} (h : ∀ s x, KeepsStreams s (f s x)) (l : List α) (s : State) :
    KeepsStreams s (l.foldl f s) :=
  List.foldlRecOn l f (motive := KeepsStreams s) .rfl' fun u hu x _ => hu.trans' (h u x)

/-- The law of streams and marks where neither the streams served nor the marks nor the counts change. -/
theorem serveLaw_congr (h : ServeLaw s) (hk : TracksKept s t) (hs : ∀ i a v, t.stream.Serves i a v ↔ s.stream.Serves i a v)
    (hu : t.stream.unserved = s.stream.unserved) (hc : t.rcv.counts = s.rcv.counts) : ServeLaw t := by
  refine (serveLaw_iff t).2 (((serveLaw_iff s).1 h).congr hs hu fun a v => ?_)
  unfold Wanted
  rw [hk.isKind, hc]

/-- The law of the rings where one entry changes, and fits. -/
theorem ringLaw_of_entry (h : RingLaw s) (hk : TracksKept s t) (hothers : ∀ j, j ≠ i → t.stream.entries[j] = s.stream.entries[j])
    (hi : RingFits t t.stream.entries[i]) : RingLaw t := by
  refine (ringLaw_iff t).2 fun j => ?_
  by_cases hj : j = i
  · exact hj ▸ hi
  · rw [hothers j hj]
    exact hk.ringFits ((ringLaw_iff s).1 h j)

theorem SameStreams.keepsStreams (h : SameStreams s t) (hk : TracksKept s t) : KeepsStreams s t := by
  refine ⟨hk, fun hs => serveLaw_congr hs hk (fun i a v => ?_) h.unserved h.counts, fun _ hr => (ringLaw_iff t).2 fun i => ?_⟩
  · unfold StreamBlock.Serves
    rw [h.entries]
  · rw [h.entries]
    exact hk.ringFits ((ringLaw_iff s).1 hr i)

/-- An operation on one entry that keeps which track it serves, and leaves a ring that fits. -/
theorem KeepsStreams.of_entry (hk : TracksKept s t) (hs : ∀ j a v, t.stream.Serves j a v ↔ s.stream.Serves j a v)
    (hothers : ∀ j, j ≠ i → t.stream.entries[j] = s.stream.entries[j]) (hu : t.stream.unserved = s.stream.unserved)
    (hc : t.rcv.counts = s.rcv.counts)
    (hi : TracksInOrder s → RingFits s s.stream.entries[i] → RingFits s t.stream.entries[i]) : KeepsStreams s t :=
  ⟨hk, fun h => serveLaw_congr h hk hs hu hc, fun ho h =>
    ringLaw_of_entry h hk hothers (hk.ringFits (hi ho ((ringLaw_iff s).1 h i)))⟩

/-- An entry replaced by one that serves the same track (R162). -/
theorem StreamBlock.setEntry_serves {b : StreamBlock} {st : Stream} (halloc : st.alloc = b.entries[i].alloc)
    (haud : st.aud = b.entries[i].aud) (htrack : st.track = b.entries[i].track) (j : StreamNo) (a : Aud) (v : TrackNo) :
    (b.setEntry i st).Serves j a v ↔ b.Serves j a v := by
  by_cases hj : j = i
  · subst hj
    have hself : (b.setEntry j st).entries[j] = st := setAt_self _ _ _
    unfold StreamBlock.Serves
    rw [hself, halloc, haud, htrack]
  · exact StreamBlock.Serves.congr (setAt_other _ _ fun e => hj e.symm)

/-! ### Fills and flushes (R169, R170, R176) -/

theorem fill_keepsStreams (i : StreamNo) (s : State) : KeepsStreams s (fill i s) := by
  obtain ⟨b, hb, hframe⟩ := fill_spec i s
  have hrcv := (fill_frame i s).rcv
  have hfits := fill_ringFits (s := s) (i := i)
  refine .of_entry (i := i) (fill_frame i s).tracksKept ?_ ?_ ?_ (by rw [hrcv]) hfits
  all_goals rw [hb]
  · exact hframe.serves
  · exact hframe.others
  · exact hframe.unserved

theorem grantRoom_keepsStreams (n : Nat) (s : State) : KeepsStreams s (grantRoom n s) := by
  induction n generalizing s with
  | zero => exact .rfl'
  | succ n ih =>
    unfold grantRoom
    split
    · exact .rfl'
    · split
      · exact (fill_keepsStreams _ _).trans' (ih _)
      · exact .rfl'

/-- A fill start of an entry with an empty ring leaves one that fits (R166). -/
theorem startFill_ringFits (ho : TracksInOrder s) (hring : s.stream.entries[i].ring = []) :
    RingFits s (startFill i s).stream.entries[i] := by
  cases hx : trackOf s s.stream.entries[i].aud s.stream.entries[i].track with
  | none =>
    have hidle : startFill i s = s := by simp only [startFill, hx]
    rw [hidle]
    refine ⟨hring ▸ .nil, fun _ _ x _ _ h => ?_⟩
    rw [hx] at h
    cases h
  | some x =>
    rw [startFill_of_track hx]
    dsimp only
    generalize airing s s.stream.entries[i].aud = sair
    generalize lookup s s.stream.entries[i].aud s.stream.entries[i].track sair = r
    generalize hnext : startPosition s x r.1 sair = next
    have hentry : (s.stream.setNext i next).entries[i] = { s.stream.entries[i] with next := next } := setAt_self _ _ _
    have hkept : TracksKept s { s with cues := r.2, stream := s.stream.setNext i next } := .of_titles rfl fun _ => rfl
    refine TracksKept.ringFits (s := { s with cues := r.2, stream := s.stream.setNext i next }) (.of_titles rfl fun _ => rfl)
      (fill_ringFits (hkept.inOrder ho) (hkept.ringFits ?_))
    dsimp only
    rw [hentry]
    refine ⟨hring ▸ .nil, fun e k y _ hn hy => ⟨?_, fun p hp => ?_⟩⟩
    · cases hx.symm.trans hy
      exact startPosition_blockOf (hnext.trans hn)
    · rw [show s.stream.entries[i].ring = [] from hring] at hp
      cases hp

/-- A fill start after entry `i` was emptied leaves a ring that fits. -/
theorem startFill_emptied_ringFits {st : Stream} (ho : TracksInOrder s) (hring : st.ring = []) :
    RingFits s (startFill i { s with stream := s.stream.setEntry i st }).stream.entries[i] := by
  have hself : (s.stream.setEntry i st).entries[i] = st := setAt_self _ _ _
  refine TracksKept.ringFits (s := { s with stream := s.stream.setEntry i st }) (.of_titles rfl fun _ => rfl)
    (startFill_ringFits (fun a v x hx => ho a v x hx) ?_)
  rw [hself]
  exact hring

theorem refill_keepsStreams (i : StreamNo) (s : State) : KeepsStreams s (refill i s) := by
  have hrcv := (refill_frame i s).rcv
  have hkept := (refill_frame i s).tracksKept
  have hfits : TracksInOrder s → RingFits s (refill i s).stream.entries[i] := fun ho => startFill_emptied_ringFits ho rfl
  obtain ⟨c, b, hu, hframe⟩ := startFill_spec i { s with stream := s.stream.setEntry i s.stream.entries[i].flush }
  have hu : refill i s = _ := hu
  refine .of_entry (i := i) hkept (fun j a v => ?_) (fun j hj => ?_) ?_ (by rw [hrcv]) fun ho _ => hfits ho
  all_goals rw [hu]
  · exact (hframe.serves j a v).trans (StreamBlock.setEntry_serves (st := s.stream.entries[i].flush) rfl rfl rfl j a v)
  · exact (hframe.others j hj).trans (setAt_other _ _ fun e => hj e.symm)
  · exact hframe.unserved

theorem refillAud_keepsStreams (a : Aud) (s : State) : KeepsStreams s (refillAud a s) := by
  refine .foldl (fun u v => ?_) allTracks s
  unfold refillTrack
  split
  · exact refill_keepsStreams _ _
  · exact .rfl'

/-! ### Positions that leave a ring -/

/-- A ring that only loses positions, whose positions keep their play times (R163). -/
theorem KeepsStreams.of_thinned {st : Stream} {b : StreamBlock} (hentries : b.entries = setAt s.stream.entries i st)
    (hunserved : b.unserved = s.stream.unserved) (halloc : st.alloc = s.stream.entries[i].alloc)
    (haud : st.aud = s.stream.entries[i].aud) (htrack : st.track = s.stream.entries[i].track)
    (hnext : st.next = s.stream.entries[i].next)
    (hring : (st.ring.map (·.play)).Sublist (s.stream.entries[i].ring.map (·.play))) :
    KeepsStreams s { s with stream := b } := by
  refine .of_entry (i := i) (.of_titles rfl fun _ => rfl) (fun j a v => ?_) (fun j hj => ?_) hunserved rfl fun _ h => ?_
  · have hcongr : b.Serves j a v ↔ (s.stream.setEntry i st).Serves j a v :=
      StreamBlock.Serves.congr (congrArg (fun l : Vector Stream 24 => l[j]) hentries)
    exact hcongr.trans (StreamBlock.setEntry_serves halloc haud htrack j a v)
  · dsimp only
    rw [hentries]
    exact setAt_other _ _ fun e => hj e.symm
  · dsimp only
    rw [hentries, setAt_self]
    exact h.sublist (fun ha => halloc ▸ ha) haud htrack hnext hring

end

end Sys2Proof.Machine
end

/-! SUPPORT. The laws of the streams through the edges of an event (R130, R131, R148, R164, R165). -/
section
namespace Sys2Proof.Machine
open Sys2Proof.Safety

/-! ### One track more, one track less -/

section
variable {s u : State} {i : StreamNo} {p : Aud × TrackNo} {K L : Aud → TrackNo → Prop}

/-- The tracks of `K` but one. -/
def Without (K : Aud → TrackNo → Prop) (p : Aud × TrackNo) (a : Aud) (v : TrackNo) : Prop := K a v ∧ (a, v) ≠ p

/-- The tracks of `K` and one more. -/
def With (K : Aud → TrackNo → Prop) (p : Aud × TrackNo) (a : Aud) (v : TrackNo) : Prop := K a v ∨ (a, v) = p

theorem StreamBlock.ServesExactly.mono (h : s.stream.ServesExactly K) (hK : ∀ a v, K a v ↔ L a v) :
    s.stream.ServesExactly L :=
  h.congr (fun _ _ _ => Iff.rfl) rfl hK

theorem pair_eq_iff {a : Aud} {v : TrackNo} : (a, v) = p ↔ p.1 = a ∧ p.2 = v := by
  rw [Prod.ext_iff]
  exact and_congr eq_comm eq_comm

/-- The mark of a track cleared (R165). -/
theorem unmark_servesExactly (h : s.stream.ServesExactly K) (hmark : s.stream.unserved[p.1][p.2] = true) :
    (s.unmark p).stream.ServesExactly (Without K p) := by
  obtain ⟨hone, hboth⟩ := h
  refine ⟨hone, fun a v => ?_⟩
  obtain ⟨hapart, hiff⟩ := hboth a v
  have hserves : ∀ j, (s.unmark p).stream.Serves j a v ↔ s.stream.Serves j a v := fun _ => Iff.rfl
  simp only [hserves, s.unmark_unserved, Without, ← hiff]
  by_cases hp : (a, v) = p
  · rw [if_pos (pair_eq_iff.1 hp)]
    subst hp
    have hnone : ¬∃ j, s.stream.Serves j a v := fun hj => hapart ⟨hj, hmark⟩
    simp [hnone]
  · rw [if_neg (mt pair_eq_iff.2 hp)]
    exact ⟨hapart, by simp [hp]⟩

/-- The stream of a track freed (R165). -/
theorem freeStream_servesExactly (h : s.stream.ServesExactly K) (hi : s.stream.Serves i p.1 p.2) :
    (s.freeStream i).stream.ServesExactly (Without K p) := by
  obtain ⟨hone, hboth⟩ := h
  have hserves : ∀ j a v, (s.freeStream i).stream.Serves j a v ↔ s.stream.Serves j a v ∧ (a, v) ≠ p := by
    intro j a v
    rw [State.freeStream_serves]
    refine ⟨fun ⟨hne, hj⟩ => ⟨hj, fun e => hne ?_⟩, fun ⟨hj, hne⟩ => ⟨fun e => hne ?_, hj⟩⟩
    · obtain ⟨rfl, rfl⟩ := pair_eq_iff.1 e
      exact hone _ _ _ _ hj hi
    · subst e
      exact pair_eq_iff.2 (hi.inj hj)
  refine ⟨fun j k a v hj hk => hone j k a v ((hserves j a v).1 hj).1 ((hserves k a v).1 hk).1, fun a v => ?_⟩
  obtain ⟨hapart, hiff⟩ := hboth a v
  have hsame : (s.freeStream i).stream.unserved[a][v] = s.stream.unserved[a][v] := rfl
  simp only [hserves, exists_and_right, hsame, Without, ← hiff]
  by_cases hp : (a, v) = p
  · obtain ⟨rfl, rfl⟩ := pair_eq_iff.1 hp
    have hclear : s.stream.unserved[p.1][p.2] ≠ true := fun hmark => hapart ⟨⟨i, hi⟩, hmark⟩
    simp [-Fin.getElem_fin, hclear]
  · exact ⟨fun ⟨⟨hj, _⟩, hmark⟩ => hapart ⟨hj, hmark⟩, by simp [hp]⟩

/-- A FREE entry granted to a track (R164). -/
theorem Allocated.servesExactly (h : Allocated i p.1 p.2 s u) (hs : s.stream.ServesExactly K)
    (hfree : s.stream.entries[i].alloc = false) (hp : ¬K p.1 p.2) : u.stream.ServesExactly (With K p) := by
  obtain ⟨hone, hboth⟩ := hs
  obtain ⟨-, hnew⟩ := hboth p.1 p.2
  rw [iff_false_right hp, not_or] at hnew
  obtain ⟨hnone, hclear⟩ := hnew
  have hold : ∀ j a v, s.stream.Serves j a v → j ≠ i := by
    rintro j a v ⟨halloc, -⟩ rfl
    rw [hfree] at halloc
    cases halloc
  have hserves : ∀ j a v, u.stream.Serves j a v ↔ s.stream.Serves j a v ∨ j = i ∧ (a, v) = p := by
    intro j a v
    by_cases hj : j = i
    · subst hj
      refine ⟨fun hu => .inr ⟨rfl, pair_eq_iff.2 (h.serves.inj hu)⟩, ?_⟩
      rintro (hj | ⟨-, hv⟩)
      · exact absurd rfl (hold j a v hj)
      · obtain ⟨rfl, rfl⟩ := pair_eq_iff.1 hv
        exact h.serves
    · rw [h.serves_other hj]
      simp [hj]
  have hnot : ∀ j a v, s.stream.Serves j a v → (a, v) ≠ p := by
    rintro j a v hj rfl
    exact hnone ⟨j, hj⟩
  refine ⟨fun j k a v hj hk => ?_, fun a v => ?_⟩
  · rcases (hserves j a v).1 hj with hj | ⟨rfl, hv⟩ <;> rcases (hserves k a v).1 hk with hk | ⟨rfl, hv'⟩
    · exact hone j k a v hj hk
    · exact absurd hv' (hnot _ a v hj)
    · exact absurd hv (hnot _ a v hk)
    · rfl
  · obtain ⟨hapart, hiff⟩ := hboth a v
    simp only [hserves, h.unserved, With, ← hiff, exists_or, exists_eq_left]
    by_cases hv : (a, v) = p
    · obtain ⟨rfl, rfl⟩ := pair_eq_iff.1 hv
      simp [-Fin.getElem_fin, hclear]
    · simpa [hv] using hapart

/-- A track denied a stream (R164). -/
theorem denyStream_servesExactly (h : s.stream.ServesExactly K) (hp : ¬K p.1 p.2) :
    (s.denyStream p).stream.ServesExactly (With K p) := by
  obtain ⟨hone, hboth⟩ := h
  obtain ⟨-, hnew⟩ := hboth p.1 p.2
  rw [iff_false_right hp, not_or] at hnew
  obtain ⟨hnone, -⟩ := hnew
  refine ⟨hone, fun a v => ?_⟩
  obtain ⟨hapart, hiff⟩ := hboth a v
  have hserves : ∀ j, (s.denyStream p).stream.Serves j a v ↔ s.stream.Serves j a v := fun _ => Iff.rfl
  have hmark : (s.denyStream p).stream.unserved[a][v] = if p.1 = a ∧ p.2 = v then true else s.stream.unserved[a][v] :=
    s.stream.mark_unserved p.1 p.2 true a v
  simp only [hserves, hmark, With, ← hiff]
  by_cases hv : (a, v) = p
  · rw [if_pos (pair_eq_iff.1 hv)]
    obtain ⟨rfl, rfl⟩ := pair_eq_iff.1 hv
    exact ⟨fun hb => hnone hb.1, by simp⟩
  · rw [if_neg (mt pair_eq_iff.2 hv)]
    exact ⟨hapart, by simp [hv]⟩

/-! ### Requests and releases (R164, R165) -/

theorem Requested.servesExactly (h : Requested s p u) (hs : s.stream.ServesExactly K) (hp : ¬K p.1 p.2) :
    u.stream.ServesExactly (With K p) := by
  cases h with
  | granted i hfree h => exact h.servesExactly hs hfree hp
  | denied h =>
    rw [h]
    exact denyStream_servesExactly hs hp

theorem Released.servesExactly (h : Released s p u) (hs : s.stream.ServesExactly K) (hp : K p.1 p.2) :
    u.stream.ServesExactly (Without K p) := by
  cases h with
  | unmarked hmark h =>
    rw [h]
    exact unmark_servesExactly hs hmark
  | streamless hmark hnone h =>
    rcases (hs.2 p.1 p.2).2.2 hp with ⟨j, hj⟩ | hmark'
    · exact absurd hj (StreamBlock.streamOf_eq_none.1 hnone j)
    · rw [hmark] at hmark'
      cases hmark'
  | freed i _ hsome h =>
    rw [h]
    exact freeStream_servesExactly hs (StreamBlock.streamOf_eq_some.1 hsome).1
  | handedOn i x _ hsome hx _ h =>
    have hfreed := freeStream_servesExactly hs (StreamBlock.streamOf_eq_some.1 hsome).1
    have hwaits : (s.freeStream i).stream.unserved[x.1][x.2] = true := hx.1
    have hkeeps : Without K p x.1 x.2 := (hfreed.2 x.1 x.2).2.1 (.inr hwaits)
    have halloc : ((s.freeStream i).unmark x).stream.entries[i].alloc = false := congrArg Stream.alloc (s.freeStream_entry i)
    refine (h.servesExactly (unmark_servesExactly hfreed hwaits) halloc fun hv => hv.2 rfl).mono fun a v => ?_
    refine ⟨fun hv => hv.elim And.left fun e => ?_, fun hv => ?_⟩
    · obtain ⟨rfl, rfl⟩ := pair_eq_iff.1 e
      exact hkeeps
    · by_cases e : (a, v) = x
      · exact .inr e
      · exact .inl ⟨hv, e⟩

/-- Tracks released, each once. -/
theorem releases_servesExactly : ∀ (l : List (Aud × TrackNo)) {s : State} {K : Aud → TrackNo → Prop}, l.Nodup →
    (∀ p ∈ l, K p.1 p.2) → s.stream.ServesExactly K →
      (l.foldl releaseStream s).stream.ServesExactly fun a v => K a v ∧ (a, v) ∉ l := by
  intro l
  induction l with
  | nil => exact fun _ _ h => h.mono fun a v => by simp
  | cons p l ih =>
    intro s K hd hl h
    obtain ⟨hp, hd⟩ := List.nodup_cons.1 hd
    have hrest := ih hd (fun q hq => ⟨hl q (.tail p hq), fun e => hp (e ▸ hq)⟩)
      ((releaseStream_released s p).servesExactly h (hl p (.head l)))
    exact hrest.mono fun a v => by simp [Without, and_assoc]

/-- Tracks requested, each once. -/
theorem requests_servesExactly : ∀ (l : List (Aud × TrackNo)) {s : State} {K : Aud → TrackNo → Prop}, l.Nodup →
    (∀ p ∈ l, ¬K p.1 p.2) → s.stream.ServesExactly K →
      (l.foldl requestStream s).stream.ServesExactly fun a v => K a v ∨ (a, v) ∈ l := by
  intro l
  induction l with
  | nil => exact fun _ _ h => h.mono fun a v => by simp
  | cons p l ih =>
    intro s K hd hl h
    obtain ⟨hp, hd⟩ := List.nodup_cons.1 hd
    have hrest := ih hd (fun q hq hK => hK.elim (hl q (.tail p hq)) fun e => hp (e ▸ hq))
      ((requestStream_requested s p).servesExactly h (hl p (.head l)))
    exact hrest.mono fun a v => by simp [With, or_assoc]

theorem allPairs_nodup : allPairs.Nodup := by
  refine allPairs_rising.imp fun {p q} h e => ?_
  subst e
  rcases h with h | ⟨-, h⟩ <;> exact absurd h (lt_irrefl _)

/-- The edges of an event make the subscribed tracks those with a stream or a mark, where the tracks subscribed before it
were (R131, R148). -/
theorem handEdges_serveLaw {before : Vector (Vector Nat 8) 16}
    (h : s.stream.ServesExactly fun a v => isKind s .description a v = true ∧ 1 ≤ before[a][v]) :
    ServeLaw (handEdges before s) := by
  have hframe := handEdges_frame before s
  have hreleased := releases_servesExactly (fallingEdges before s) (allPairs_nodup.filter _) (fun p hp => by
    obtain ⟨hkind, hbefore, -⟩ := mem_fallingEdges.1 hp
    exact ⟨hkind, hbefore⟩) h
  have hrequested := requests_servesExactly (risingEdges before s) (allPairs_nodup.filter _) (fun p hp hK => by
    obtain ⟨-, hbefore, -⟩ := mem_risingEdges.1 hp
    have hpos := hK.1.2
    rw [hbefore] at hpos
    cases hpos) hreleased
  refine (serveLaw_iff _).2 (StreamBlock.ServesExactly.mono (s := handEdges before s) hrequested fun a v => ?_)
  unfold Wanted
  rw [hframe.isKind, hframe.rcv, mem_fallingEdges, mem_risingEdges]
  cases isKind s .description a v with
  | false => simp
  | true =>
    simp only [true_and]
    omega

/-! ### The rings (R163, R164, R165) -/

theorem allocateStream_ringLaw {a : Aud} {v : TrackNo} (ho : TracksInOrder s) (h : RingLaw s) :
    RingLaw (allocateStream i a v s) := by
  have hkept := (allocateStream_frame i a v s).tracksKept
  exact ringLaw_of_entry h hkept (allocateStream_allocated i a v s).others
    (hkept.ringFits (startFill_emptied_ringFits ho rfl))

theorem freeStream_ringLaw (h : RingLaw s) : RingLaw (s.freeStream i) := by
  refine ringLaw_of_entry (i := i) h (.of_titles rfl fun _ => rfl) (fun j hj => s.freeStream_other hj) ?_
  rw [s.freeStream_entry]
  exact .of_ended .nil rfl

theorem requestStream_ringLaw (ho : TracksInOrder s) (h : RingLaw s) : RingLaw (requestStream s p) := by
  cases hi : s.stream.lowestFree with
  | none =>
    rw [requestStream_denied hi]
    exact h
  | some i =>
    rw [requestStream_granted hi]
    exact allocateStream_ringLaw ho h

theorem releaseStream_ringLaw (ho : TracksInOrder s) (h : RingLaw s) : RingLaw (releaseStream s p) := by
  cases releaseStream_released s p with
  | unmarked _ hu => rw [hu]; exact h
  | streamless _ _ hu => rw [hu]; exact h
  | freed i _ _ hu => rw [hu]; exact freeStream_ringLaw h
  | handedOn i x _ _ _ hu _ =>
    rw [hu]
    exact allocateStream_ringLaw (s := (s.freeStream i).unmark x) ho (freeStream_ringLaw (i := i) h)

/-- The rings stay in order through operations within the frame, each of which keeps them so. -/
theorem foldl_ringLaw {f : State → Aud × TrackNo → State} (hframe : ∀ s p, StreamFrame s (f s p))
    (hring : ∀ s p, TracksInOrder s → RingLaw s → RingLaw (f s p)) (l : List (Aud × TrackNo)) (ho : TracksInOrder s)
    (h : RingLaw s) : RingLaw (l.foldl f s) :=
  (List.foldlRecOn l f (motive := fun u => TracksInOrder u ∧ RingLaw u) ⟨ho, h⟩ fun u hu p _ =>
    ⟨(hframe u p).tracksKept.inOrder hu.1, hring u p hu.1 hu.2⟩).2

theorem handEdges_ringLaw (before : Vector (Vector Nat 8) 16) (ho : TracksInOrder s) (h : RingLaw s) :
    RingLaw (handEdges before s) := by
  have hreleased := foldl_ringLaw releaseStream_frame (fun _ _ => releaseStream_ringLaw) (fallingEdges before s) ho h
  exact foldl_ringLaw requestStream_frame (fun _ _ => requestStream_ringLaw) (risingEdges before s)
    ((StreamFrame.foldl _ releaseStream_frame (fallingEdges before s) s).tracksKept.inOrder ho) hreleased

/-- An event that changes records and counts, its edges handed on, keeps the laws of the streams (R130, R131). -/
theorem handEdges_keepsStreams (hk : TracksKept s u) (hentries : u.stream = s.stream) :
    KeepsStreams s (handEdges s.rcv.counts u) := by
  refine ⟨hk.trans' (handEdges_frame _ u).tracksKept, fun hs => handEdges_serveLaw ?_, fun ho hr =>
    handEdges_ringLaw _ (hk.inOrder ho) ((ringLaw_iff u).2 fun i => ?_)⟩
  · rw [hentries]
    exact ((serveLaw_iff s).1 hs).mono fun a v => by unfold Wanted; rw [hk.isKind]
  · rw [hentries]
    exact hk.ringFits ((ringLaw_iff s).1 hr i)

end

end Sys2Proof.Machine
end

/-! SUPPORT. The laws of the streams through the commands that move a clock, an air port, a record or a stream, and leave the titles (R148, R163, R164). -/
section
namespace Sys2Proof.Machine
open Sys2Proof.Safety

/-! ### Changes of other blocks -/

section
variable {s t u : State} {a : Aud}

/-- A change of blocks that no law of the streams reads. -/
theorem KeepsStreams.of_blocks (ht : t.titles = s.titles) (hs : t.shows = s.shows) (hstream : t.stream = s.stream)
    (hc : t.rcv.counts = s.rcv.counts) : KeepsStreams s t :=
  SameStreams.keepsStreams ⟨by rw [hstream], by rw [hstream], hc⟩ (.of_titles ht fun _ => by rw [hs])

/-- A change of one context that keeps its title. -/
theorem setShow_keepsStreams {c : Context} (h : c.title = s.shows[a].title) : KeepsStreams s (s.setShow a c) := by
  refine SameStreams.keepsStreams ⟨rfl, rfl, rfl⟩ (.of_titles rfl fun b => ?_)
  by_cases hb : a = b
  · subst hb
    exact (congrArg Context.title (setAt_self _ _ _)).trans h
  · exact congrArg Context.title (setAt_other _ _ hb)

theorem KeepsStreams.suspendTest (h : KeepsStreams s t) : KeepsStreams s (suspendTest t) := by
  obtain ⟨b, hb⟩ := suspendTest_eq t
  rw [hb]
  exact h.trans' (.of_blocks rfl rfl rfl rfl)

theorem latchAud_keepsStreams (s : State) (c : FeedCond) (a : Aud) : KeepsStreams s (s.latchAud c a) := by
  unfold State.latchAud
  split <;> exact .of_blocks rfl rfl rfl rfl

theorem setClock_keepsStreams (s : State) (a : Aud) (c : AudClock) : KeepsStreams s (s.setClock a c) :=
  .of_blocks rfl rfl rfl rfl

theorem request_keepsStreams {act : State → State × Reply} (hact : ∀ s, KeepsStreams s (act s).1) (r : Req) (k : Byte)
    (s : State) : KeepsStreams s (request r k act s) :=
  request_keeps (P := KeepsStreams s) (fun _ _ _ h => h.trans' (.of_blocks rfl rfl rfl rfl)) (fun u h => h.trans' (hact u))
    .rfl'

theorem setRequest_keepsStreams {store : Nat → Nat → State → Option State} {lo hi : Nat}
    (hstore : ∀ target v s u, store target v s = some u → KeepsStreams s u) (param : Nat) (r : Req) (s : State) :
    KeepsStreams s (setRequest param lo hi store r s) :=
  setRequest_keeps (P := KeepsStreams s) (fun _ _ _ h => h.trans' (.of_blocks rfl rfl rfl rfl))
    (fun target v u w hw h => h.trans' (hstore target v u w hw)) param lo hi r .rfl'

end

/-! ### Clocks (chapter 4) -/

section
variable {s : State} {a : Aud}

theorem advanceAud_keepsStreams (s : State) (a : Aud) : KeepsStreams s (advanceAud s a) := by
  unfold advanceAud
  dsimp only
  split
  · split
    · exact (setClock_keepsStreams s a _).trans' (latchAud_keepsStreams _ _ _)
    · exact setClock_keepsStreams s a _
  · exact .rfl'

theorem houseTick_keepsStreams (s : State) : KeepsStreams s (houseTick s) := by
  unfold houseTick
  refine KeepsStreams.suspendTest (KeepsStreams.trans' ?_ (.foldl advanceAud_keepsStreams _ _))
  exact .of_blocks rfl rfl rfl rfl

theorem moveClock_keepsStreams (a : Aud) (r : Nat) (s : State) : KeepsStreams s (moveClock a r s) := by
  refine KeepsStreams.trans' ?_ (refillAud_keepsStreams a _)
  exact .of_blocks rfl rfl rfl rfl

theorem stepClock_keepsStreams (a : Aud) (r : Nat) (s : State) : KeepsStreams s (stepClock a r s) := by
  have hflag : ∀ u, KeepsStreams u (u.flagStep a) := fun _ => .of_blocks rfl rfl rfl rfl
  unfold stepClock
  exact (((moveClock_keepsStreams a r s).trans' (hflag _)).trans' (setClock_keepsStreams _ a _)).trans'
    (latchAud_keepsStreams _ _ _)

theorem setShowState_keepsStreams (s : State) (a : Aud) (x : ShowState) : KeepsStreams s (s.setShowState a x) :=
  setShow_keepsStreams rfl

/-- A report moves, steps or slews the clock, in the state that it leads to (R73). -/
theorem handleReport_keepsStreams (a : Aud) (r : Nat) (s : State) : KeepsStreams s (handleReport a r s) := by
  unfold handleReport
  dsimp only
  split
  · exact .rfl'
  · exact moveClock_keepsStreams a r s
  · exact stepClock_keepsStreams a r s
  · exact (setShowState_keepsStreams s a _).trans' (stepClock_keepsStreams a r _)
  · split
    · exact stepClock_keepsStreams a r s
    · exact setClock_keepsStreams s a _
  · split
    · exact (setShowState_keepsStreams s a _).trans' (stepClock_keepsStreams a r _)
    · exact (setShowState_keepsStreams s a _).trans' (setClock_keepsStreams _ a _)

theorem position_keepsStreams (r : Req) (s : State) : KeepsStreams s (position r s).1 := by
  unfold position
  split
  · exact .rfl'
  · refine KeepsStreams.suspendTest (KeepsStreams.trans' ?_ (setClock_keepsStreams _ _ _))
    refine KeepsStreams.trans' ?_ (handleReport_keepsStreams _ _ _)
    split
    · exact (setClock_keepsStreams s _ _).trans' (latchAud_keepsStreams _ _ _)
    · exact .rfl'

theorem silenceBoundary_keepsStreams (a : Aud) (s : State) : KeepsStreams s (silenceBoundary a s) := by
  have hreached : ∀ n u, KeepsStreams u (silenceReached a n u) := fun n u => by
    have hlatch : ∀ x c, KeepsStreams u ((u.setShowState a x).latchAud c a) := fun x c =>
      (setShowState_keepsStreams u a x).trans' (latchAud_keepsStreams _ _ _)
    unfold silenceReached
    split
    · exact hlatch _ _
    · split
      · exact (hlatch _ _).trans' (refillAud_keepsStreams a _)
      · exact .rfl'
  unfold silenceBoundary
  dsimp only
  split
  · split
    · refine KeepsStreams.suspendTest (KeepsStreams.trans' ?_ (hreached _ _))
      exact .of_blocks rfl rfl rfl rfl
    · exact .of_blocks rfl rfl rfl rfl
  · exact .rfl'

end

/-! ### Shows, settings and the clip store (chapters 3, 9 and 10) -/

section
variable {s : State}

theorem assignAir_keepsStreams (r : Req) (s : State) : KeepsStreams s (assignAir r s).1 := by
  unfold assignAir
  split
  · exact .rfl'
  · split
    · split
      · exact .rfl'
      · rename_i a port _ _ _
        have hshow : KeepsStreams s (s.setShow a { s.shows[a] with airPort := port }) := setShow_keepsStreams rfl
        refine KeepsStreams.suspendTest (hshow.trans' ?_)
        exact .of_blocks rfl rfl rfl rfl
    · exact .rfl'

theorem storeMargin_keepsStreams (target v : Nat) (s u : State) (h : storeMargin target v s = some u) :
    KeepsStreams s u := by
  cases h
  refine KeepsStreams.suspendTest ?_
  exact .of_blocks rfl rfl rfl rfl

theorem storeLead_keepsStreams (target v : Nat) (s u : State) (h : storeLead target v s = some u) : KeepsStreams s u := by
  obtain ⟨w, hw, rfl⟩ := Option.map_eq_some_iff.mp h
  obtain ⟨p, -, rfl⟩ := Option.map_eq_some_iff.mp hw
  refine KeepsStreams.suspendTest ?_
  exact .of_blocks rfl rfl rfl rfl

/-- A change of the Clip Storage Controller alone. -/
theorem KeepsStreams.of_store (s : State) (b : StoreBlock) : KeepsStreams s { s with store := b } := .of_blocks rfl rfl rfl rfl

theorem clipProgram_keepsStreams (r : Req) (s : State) : KeepsStreams s (clipProgram r s).1 := by
  unfold clipProgram
  dsimp only
  split
  · exact .of_store s _
  split
  · exact .of_store s _
  split
  · exact .of_store s _
  split <;> exact .of_store s _

theorem clipErase_keepsStreams (r : Req) (s : State) : KeepsStreams s (clipErase r s).1 := by
  unfold clipErase
  dsimp only
  split
  · exact .of_store s _
  split
  · exact .of_store s _
  split
  · exact .of_store s _
  split
  · exact .of_store s _
  split <;> exact .of_store s _

theorem clipVerify_keepsStreams (r : Req) (s : State) : KeepsStreams s (clipVerify r s).1 := by
  unfold clipVerify
  dsimp only
  split
  · exact .rfl'
  split
  · exact .rfl'
  split
  · exact .rfl'
  split
  · exact .rfl'
  · exact .of_store s _

theorem verifyTurnCompletion_keepsStreams (s : State) : KeepsStreams s (verifyTurnCompletion s) := by
  unfold verifyTurnCompletion
  split
  · dsimp only
    split <;> exact .of_blocks rfl rfl rfl rfl
  · exact .rfl'

/-- A turn of maintenance starts, or a fetch, whose place is granted (R170, R173). -/
theorem arbiterChoice_keepsStreams (s : State) : KeepsStreams s (arbiterChoice s) := by
  have hturn : KeepsStreams s (startTurn s) := by
    unfold startTurn
    split <;> exact .of_store s _
  unfold arbiterChoice
  split
  · split
    · exact hturn
    · split
      · refine KeepsStreams.suspendTest (KeepsStreams.trans' ?_ (grantRoom_keepsStreams 24 _))
        exact SameStreams.keepsStreams ⟨rfl, rfl, rfl⟩ (.of_titles rfl fun _ => rfl)
      · exact .rfl'
  · exact .rfl'

theorem fillPosition_play (r : FetchRecord) (x : RingState) (l : List RingPos) :
    ((fillPosition r x l).map (·.play)).Sublist (l.map (·.play)) := by
  induction l with
  | nil => exact .refl _
  | cons p l ih =>
    unfold fillPosition
    split
    · exact .refl _
    · exact ih.cons_cons _

/-- The position that a fetch fills keeps its play time (R175). -/
theorem fetchCompletion_keepsStreams (s : State) : KeepsStreams s (fetchCompletion s) := by
  unfold fetchCompletion
  split
  · rename_i r _
    refine (KeepsStreams.of_store s (s.setUse .idle).store).trans' ?_
    change KeepsStreams (s.setUse .idle) { s.setUse .idle with stream := completeFetch s r }
    unfold completeFetch
    dsimp only
    split
    · exact .of_thinned (i := r.stream) rfl rfl rfl rfl rfl rfl (.refl _)
    · split
      · exact .of_thinned (i := r.stream) rfl rfl rfl rfl rfl rfl (fillPosition_play r _ _)
      · exact .of_thinned (i := r.stream) rfl rfl rfl rfl rfl rfl (fillPosition_play r _ _)
  all_goals exact .rfl'

end

/-! ### Payloads (chapter 7) -/

theorem keepsStreams_composeSteps : ComposeSteps KeepsStreams where
  refl _ := .rfl'
  trans := .trans'
  late k s v := by
    unfold removeLateTrack
    split
    · rename_i i _
      unfold removeLate
      dsimp only
      split
      · exact .rfl'
      · refine KeepsStreams.trans' ?_ (fill_keepsStreams i _)
        exact .of_thinned (i := i) rfl rfl rfl rfl rfl rfl ((List.drop_sublist _ _).map _)
    · exact .rfl'
  take k i p s _ := by
    unfold takePosition
    refine KeepsStreams.trans' ?_ (fill_keepsStreams i _)
    split
    · exact .of_thinned (i := i) rfl rfl rfl rfl rfl rfl ((List.tail_sublist _).map _)
    · exact .of_thinned (i := i) rfl rfl rfl rfl rfl rfl ((List.tail_sublist _).map _)
  skip _ _ := .of_blocks rfl rfl rfl rfl
  look _ _ _ _ := .of_blocks rfl rfl rfl rfl
  sent _ _ _ _ := .of_blocks rfl rfl rfl rfl
  again _ _ _ := .of_blocks rfl rfl rfl rfl

theorem pull_keepsStreams (r : Req) (s : State) : KeepsStreams s (pull r s).1 := by
  unfold pull
  cases r.port with
  | feed _ | m => exact .rfl'
  | air p =>
    dsimp only [pullOn]
    split
    · exact .rfl'
    · split
      · exact .rfl'
      · split
        · exact .rfl'
        · rw [pullTaken_eq]
          refine KeepsStreams.suspendTest (KeepsStreams.trans' ?_ (keepsStreams_composeSteps.composeSections _ _ _ _ _))
          exact .of_blocks rfl rfl rfl rfl

/-! ### Receivers (chapter 6) -/

section
variable {s : State}

/-- A record changes, and its edges are handed on (R129, R131). -/
theorem changeRec_keepsStreams (i : RecNo) (new : Receiver) (s : State) : KeepsStreams s (changeRec i new s) :=
  handEdges_keepsStreams (u := s.putRec i new) (.of_titles rfl fun _ => rfl) rfl

theorem takeItem_keepsStreams (p : Fin 2) (it : Item) (s : State) : KeepsStreams s (takeItem p it s).1 := by
  have hchange := fun i new => changeRec_keepsStreams i new s
  unfold takeItem
  split
  · exact .rfl'
  · unfold itemHello
    split
    · exact .rfl'
    split
    · exact .rfl'
    split
    · exact .rfl'
    split
    · exact hchange _ _
    split
    · exact hchange _ _
    · exact .of_blocks rfl rfl rfl rfl
  · unfold itemChoose
    split
    · exact .rfl'
    split
    · split
      · exact .rfl'
      · exact hchange _ _
    · exact .rfl'
  · unfold itemAlive
    split
    · exact .rfl'
    split
    · exact .rfl'
    · exact .of_blocks rfl rfl rfl rfl
  · unfold itemBye
    split
    · exact .rfl'
    split
    · exact .rfl'
    · exact hchange _ _

theorem takeItems_keepsStreams (p : Fin 2) (its : List Item) (s : State) : KeepsStreams s (takeItems p its s).1 := by
  induction its generalizing s with
  | nil => exact .rfl'
  | cons it rest ih => exact (takeItem_keepsStreams p it s).trans' (ih _)

theorem report_keepsStreams (r : Req) (s : State) : KeepsStreams s (report r s).1 := by
  unfold report
  cases r.port with
  | feed _ | m => exact .rfl'
  | air p =>
    dsimp only [reportOn]
    split
    · exact .rfl'
    · split
      · exact .rfl'
      · exact (takeItems_keepsStreams _ _ _).suspendTest

/-- The records that expire leave titles, contexts and streams. -/
theorem expireRecs_frame (k : Nat) (l : List RecNo) (s : State) :
    TracksKept s (l.foldl (expireRec k) s) ∧ (l.foldl (expireRec k) s).stream = s.stream := by
  refine List.foldlRecOn l (expireRec k) (motive := fun u => TracksKept s u ∧ u.stream = s.stream) ⟨.rfl', rfl⟩
    fun u hu i _ => ⟨hu.1.trans' (expireRec_showFrame k u i).tracksKept, ?_⟩
  rw [← hu.2]
  unfold expireRec
  dsimp only
  split
  · split <;> rfl
  · rfl

theorem keepAliveExpiry_keepsStreams (s : State) : KeepsStreams s (keepAliveExpiry s) := by
  unfold keepAliveExpiry
  split
  · exact .rfl'
  · rename_i k _
    obtain ⟨htracks, hstream⟩ := expireRecs_frame k allRecs { s with due := { s.due with expiry := none } }
    refine KeepsStreams.suspendTest (KeepsStreams.trans' ?_ (handEdges_keepsStreams htracks hstream))
    exact .of_blocks rfl rfl rfl rfl

end

/-! ### The dispatch -/

/-- Every command that changes no title keeps the laws of the streams. -/
theorem exec_keepsStreams {i : Instr} (hi : keepsTitles i = true) (s : State) :
    ∃ t, exec i s = .next t ∧ KeepsStreams s t := by
  by_cases hstill : leavesStreams i = true
  · obtain ⟨t, hexec, hframe⟩ := exec_stillFrame hstill s
    obtain ⟨u, hexec', hshow⟩ := exec_showFrame hi s
    cases hexec.symm.trans hexec'
    exact ⟨t, hexec, hframe.streams.keepsStreams hshow.tracksKept⟩
  cases i with
  | powerOn | reset _ | resetTakesEffect | programCompletion | eraseCompletion | arm _ | darken _ => cases hi
  | houseTick => exact ⟨_, rfl, houseTick_keepsStreams s⟩
  | silenceBoundary a => exact ⟨_, rfl, silenceBoundary_keepsStreams a s⟩
  | keepAliveExpiry => exact ⟨_, rfl, keepAliveExpiry_keepsStreams s⟩
  | position r => exact ⟨_, rfl, request_keepsStreams (position_keepsStreams r) r _ s⟩
  | assignAir r => exact ⟨_, rfl, request_keepsStreams (assignAir_keepsStreams r) r _ s⟩
  | report r => exact ⟨_, rfl, request_keepsStreams (report_keepsStreams r) r _ s⟩
  | pull r => exact ⟨_, rfl, request_keepsStreams (pull_keepsStreams r) r _ s⟩
  | setUrgencyMargin r => exact ⟨_, rfl, setRequest_keepsStreams storeMargin_keepsStreams 3 r s⟩
  | setLead r => exact ⟨_, rfl, setRequest_keepsStreams storeLead_keepsStreams 7 r s⟩
  | clipProgram r => exact ⟨_, rfl, request_keepsStreams (clipProgram_keepsStreams r) r _ s⟩
  | clipErase r => exact ⟨_, rfl, request_keepsStreams (clipErase_keepsStreams r) r _ s⟩
  | clipVerify r => exact ⟨_, rfl, request_keepsStreams (clipVerify_keepsStreams r) r _ s⟩
  | flashArbiterChoice => exact ⟨_, rfl, arbiterChoice_keepsStreams s⟩
  | fetchCompletion => exact ⟨_, rfl, fetchCompletion_keepsStreams s⟩
  | verifyTurnCompletion => exact ⟨_, rfl, verifyTurnCompletion_keepsStreams s⟩
  | _ => exact absurd rfl hstill

end Sys2Proof.Machine
end

/-! SUPPORT. The laws of the streams through loads, ARM, DARKEN and resets: no stream serves a track that these change (R20, R57, R61, R148, R163). -/
section
namespace Sys2Proof.Machine
open Sys2Proof.Safety

/-- The tracks that auditoriums show are of READY titles, whose entries lie in order (R11, R20). -/
theorem tracksInOrder_of_laws {s : State} (hs : ShowLaw s) (he : EntryLaw s) : TracksInOrder s := by
  intro a v x hx
  obtain ⟨t, tr, ht, htr, rfl⟩ := trackOf_some hx
  exact (trackSound_of_ready he (ready_of_held hs ht) htr).1

/-! ### Loads and UNLOAD (chapter 2) -/

section
variable {s u : State} {t : TitleNo}

/-- A title that no context holds is changed, and no slot of another title is written. -/
theorem TracksKept.of_title (hs : ShowLaw s) (hlay : LayoutLaw s) (hshows : u.shows = s.shows)
    (hothers : ∀ v, v ≠ t → u.title v = s.title v) (hheld : ∀ a : Aud, s.shows[a].title ≠ some t)
    (hread : ∀ v, v ≠ t → ∀ n, (s.title v).owns n = true → slotAt u.titles.cue n = slotAt s.titles.cue n) :
    TracksKept s u := by
  refine ⟨fun a v => trackOf_congr (by rw [hshows]) (fun x hx => hothers x fun e => hheld a (e ▸ hx)) v,
    fun a v x hx e he => ?_⟩
  obtain ⟨w, tr, hw, htr, rfl⟩ := trackOf_some hx
  have hlive : (s.title w).state ≠ .free := by rw [ready_of_held hs hw]; decide
  have hfits := fits_of_laidOut (hlay w hlive).1
  have hmem := List.mem_of_getElem? htr
  have hslot := hread w (fun e => hheld a (e ▸ hw)) (entrySlot (s.title w) tr e) (by
    rw [Title.owns_of_not_free hlive]
    exact hfits.holds_entry hmem (he.trans_le (hfits.received tr hmem)))
  simp only [descAt, descEntry, hslot]

/-- A load changes nothing, or one title that is being loaded, and writes in its region alone. -/
def LoadChange (s u : State) : Prop :=
  u = s ∨ ∃ t, (s.title t).state ≠ .free ∧ (s.title t).state ≠ .ready ∧ LoadFrame t s u

theorem LoadChange.tracksKept (h : LoadChange s u) (hs : ShowLaw s) (hcue : CueStoreLaw s) (hlay : LayoutLaw s) :
    TracksKept s u := by
  obtain rfl | ⟨t, hfree, hready, hframe⟩ := h
  · exact .rfl'
  · have hwrites := hframe.cue (fits_of_laidOut (hlay t hfree).1)
    exact .of_title hs hlay hframe.shows hframe.others (unnamed_of_not_ready hs hready).1 fun v hv n hn =>
      hwrites.slotAt (region_apart hcue hv hfree hn)

/-- An admitted request of a load names a title in one of the states that it admits (R26). -/
theorem LoadFrame.loadChange {p : Port} {lengthOk : Bool} {n : Nat} {f : TitleState → Bool} (h : LoadFrame t s u)
    (hadmit : admitLoad p lengthOk n f s = .ok t) (hf : f .ready = false) : LoadChange s u := by
  refine .inr ⟨t, admitLoad_ok hadmit, fun hready => ?_, h⟩
  have hstate := admitLoad_state hadmit
  rw [hready, hf] at hstate
  cases hstate

theorem loadData_loadChange (r : Req) (s : State) : LoadChange s (loadData r s).1 := by
  unfold loadData
  dsimp only
  split
  · exact .inl rfl
  · next t hadmit =>
    refine LoadFrame.loadChange ?_ hadmit rfl
    refine (touchTitle_loadFrame t s).trans' (touchTitle_keepsRegion t s) ?_
    split
    · exact failLoad_loadFrame _ _ _
    · split
      · exact .rfl'
      · exact appendEntries_loadFrame _ _ _ _ _

theorem loadFinish_loadChange (r : Req) (s : State) : LoadChange s (loadFinish r s).1 := by
  unfold loadFinish
  split
  · exact .inl rfl
  · next t hadmit =>
    refine LoadFrame.loadChange ?_ hadmit rfl
    refine (touchTitle_loadFrame t s).trans' (touchTitle_keepsRegion t s) ?_
    dsimp only
    split <;> exact .of_setAt rfl rfl rfl rfl le_rfl rfl

theorem loadAbort_loadChange (r : Req) (s : State) : LoadChange s (loadAbort r s).1 := by
  unfold loadAbort
  split
  · exact .inl rfl
  · next t hadmit => exact (freeTitle_loadFrame t s).loadChange hadmit rfl

theorem loadIdleTimeout_loadChange (t : TitleNo) (s : State) : LoadChange s (loadIdleTimeout t s) := by
  unfold loadIdleTimeout
  split
  · next hdue =>
    simp only [idleExpired, Bool.and_eq_true, beq_iff_eq] at hdue
    obtain ⟨-, hloading, -⟩ := hdue
    exact .inr ⟨t, by simp [hloading], by simp [hloading], failLoad_loadFrame t _ s⟩
  · exact .inl rfl

theorem clipListOverflow_loadChange (t : TitleNo) (s : State) : LoadChange s (clipListOverflow t s) := by
  unfold clipListOverflow
  dsimp only
  split
  · next hf => exact .inr ⟨t, by simp [hf.1], by simp [hf.1], failLoad_loadFrame t _ s⟩
  · exact .inl rfl

theorem finishingCompletion_loadChange (t : TitleNo) (s : State) : LoadChange s (finishingCompletion t s) := by
  unfold finishingCompletion
  dsimp only
  split
  · next hf =>
    refine .inr ⟨t, by simp [hf.1], by simp [hf.1], ?_⟩
    have hwrites : (s.title t).Fits → WritesWithin (s.title t).base (s.title t).count s.titles.cue
        ((s.title t).tracks.foldl (writeAnchors (s.title t)) s.titles.cue) := fun hfits =>
      .foldl (fun m tr htr => writeAnchors_writes hfits htr m) _
    obtain ⟨l, hl⟩ := closeLoad_eq s t
    rw [hl]
    split <;> exact ⟨.of_setAt rfl rfl rfl rfl le_rfl, hwrites⟩
  · exact .inl rfl

theorem loadOpen_tracksKept (r : Req) (hs : ShowLaw s) (hcue : CueStoreLaw s) (hlay : LayoutLaw s) :
    TracksKept s (loadOpen r s).1 := by
  obtain h | ⟨d, p, t, x, ht, hx, h⟩ := loadOpen_cases r s
  · rw [h]; exact .rfl'
  · rw [h]
    have hframe : RecordFrame t s (openTitle d p t x.1 x.2 s) := .of_setAt rfl rfl rfl rfl (Nat.zero_le _)
    exact .of_title hs hlay hframe.shows hframe.others (unnamed_of_not_ready hs (by simp [ht])).1 fun v _ n hn =>
      (openTitle_writes d p t x.1 x.2 s).slotAt (allocated_apart hcue hx hn)

theorem unload_tracksKept (r : Req) (hs : ShowLaw s) (hlay : LayoutLaw s) : TracksKept s (unload r s).1 := by
  obtain h | ⟨t, -, hrefs, h⟩ := unload_cases r s
  · rw [h]; exact .rfl'
  · rw [h]
    have hframe := freeTitle_loadFrame t s
    have htitles := freeTitle_titles s t
    refine .of_title (t := t) hs hlay hframe.shows hframe.others (fun a ha => ?_) fun v _ n _ => ?_
    · have hheld := holders_pos hs ha
      rw [← (hs.1 t).1, hrefs] at hheld
      exact absurd hheld (lt_irrefl 0)
    · dsimp only
      rw [htitles]

end

/-! ### ARM and DARKEN (chapter 3) -/

section
variable {s u : State} {a : Aud} {t : TitleNo}

theorem isKind_eq (s : State) (k : TrackKind) (b : Aud) (v : TrackNo) :
    isKind s k b v = ((trackOf s b v).map (·.track)).any (·.kind == k) := by
  unfold isKind
  cases trackOf s b v <;> rfl

/-- The tracks of the other auditoriums are of the kinds that they were. -/
theorem ShowChange.isKind_other (h : ShowChange a t s u) {b : Aud} (hb : b ≠ a) (k : TrackKind) (v : TrackNo) :
    isKind u k b v = isKind s k b v := by
  rw [isKind_eq, isKind_eq, trackOf_track, trackOf_track, h.show_other hb]
  cases s.shows[b].title with
  | none => rfl
  | some w =>
    obtain ⟨n, hn⟩ := h.title w
    dsimp only [Option.bind_some]
    rw [hn]

/-- A ring that serves another auditorium fits as it did. -/
theorem ShowChange.ringFits (h : ShowChange a t s u) {st : Stream} (hother : st.alloc = true → st.aud ≠ a)
    (hs : RingFits s st) : RingFits u st := by
  obtain ⟨hrises, hahead⟩ := hs
  refine ⟨hrises, fun e k x ha hn hx => ?_⟩
  obtain ⟨n, y, hy, rfl⟩ := h.trackOf_other (hother ha) hx
  obtain ⟨hblock, hlater⟩ := hahead e k y ha hn hy
  have hentry : ∀ j, descAt u ⟨{ y.title with refs := n }, y.track⟩ j = descAt s y j := fun j => by
    simp only [descAt, h.cue]
    rfl
  simp only [BlockOf, playOf, hentry]
  exact ⟨hblock, hlater⟩

/-- What a command makes of the laws of the streams. -/
def StreamLawsAfter (s u : State) : Prop := ServeLaw u ∧ (RingLaw s → RingLaw u)

theorem KeepsStreams.lawsAfter (h : KeepsStreams s u) (ho : TracksInOrder s) (hs : ServeLaw s) : StreamLawsAfter s u :=
  ⟨h.serve hs, h.ring ho⟩

theorem StreamLawsAfter.trans' {w : State} (h : StreamLawsAfter s w) (h' : KeepsStreams w u) (ho : TracksInOrder w) :
    StreamLawsAfter s u :=
  ⟨h'.serve h.1, fun hr => h'.ring ho (h.2 hr)⟩

/-- A context without subscribers, and so without streams, changes (R148). -/
theorem ShowChange.streamLaws (h : ShowChange a t s u) (hstream : u.stream = s.stream) (hcounts : u.rcv.counts = s.rcv.counts)
    (hzero : ∀ v : TrackNo, s.rcv.counts[a][v] = 0) (hs : ServeLaw s) : StreamLawsAfter s u := by
  refine ⟨(serveLaw_iff u).2 ?_, fun hr => (ringLaw_iff u).2 fun i => ?_⟩
  · rw [hstream]
    refine ((serveLaw_iff s).1 hs).mono fun b v => ?_
    unfold Wanted
    rw [hcounts]
    by_cases hb : b = a
    · subst hb
      rw [hzero v]
      exact iff_of_false (fun hw => absurd hw.2 (by decide)) fun hw => absurd hw.2 (by decide)
    · rw [h.isKind_other hb]
  · rw [hstream]
    refine h.ringFits (fun halloc haud => ?_) ((ringLaw_iff s).1 hr i)
    have hwanted := ((hs.2 a s.stream.entries[i].track).2.1 (.inl ⟨i, halloc, haud, rfl⟩)).2
    rw [hzero] at hwanted
    cases hwanted

/-- In DARK a record has no track (R127). -/
theorem resolve_dark {r : Receiver} (h : s.shows[r.aud].state = .dark) : resolve s r = r.unresolve := by
  have hnone : ∀ k pref, resolveTrack s r.aud k pref = none := fun k pref => resolveTrack_dark k pref h
  simp only [resolve, Receiver.unresolve, hnone]

/-- In DARK no track has a subscriber (R127, R129). -/
theorem counts_dark (hcount : CountLaw s) (hres : ResolveLaw s) (ha : s.shows[a].state = .dark) (v : TrackNo) :
    s.rcv.counts[a][v] = 0 := by
  rw [hcount a v]
  refine List.countP_eq_zero.mpr fun i _ hwants => ?_
  simp only [Receiver.wants, Bool.and_eq_true, Bool.or_eq_true, beq_iff_eq] at hwants
  obtain ⟨⟨hbound, rfl⟩, hwants⟩ := hwants
  rw [← hres i hbound, resolve_dark ha] at hwants
  simp only [Receiver.unresolve, reduceCtorEq, or_self] at hwants

theorem armTaken_streamLaws (hs : ShowLaw s) (he : EntryLaw s) (hcount : CountLaw s) (hres : ResolveLaw s)
    (hserve : ServeLaw s) (ha : s.shows[a].state = .dark) (ht : (s.title t).state = .ready) :
    StreamLawsAfter s (armTaken a t s) := by
  have hchange := armBound_showChange a t s
  have hbound : StreamLawsAfter s (armBound a t s) := hchange.streamLaws rfl rfl (counts_dark hcount hres ha) hserve
  have hsame : (reresolveAud a (armBound a t s)).stream = (armBound a t s).stream := by
    obtain ⟨r, c, h⟩ := reresolveAud_eq a (armBound a t s)
    rw [h]
  rw [armTaken_eq]
  exact hbound.trans' (handEdges_keepsStreams (reresolveAud_cueFrame a (armBound a t s)).tracksKept hsame).suspendTest
    (tracksInOrder_of_laws (armBound_showLaw hs ha ht) (hchange.entryLaw he))

theorem arm_streamLaws (r : Req) (hs : ShowLaw s) (he : EntryLaw s) (hcount : CountLaw s) (hres : ResolveLaw s)
    (hserve : ServeLaw s) : StreamLawsAfter s (arm r s).1 := by
  obtain h | ⟨a, t, ha, ht, h⟩ := arm_cases r s
  · rw [h]; exact ⟨hserve, id⟩
  · rw [h]; exact armTaken_streamLaws hs he hcount hres hserve ha ht

/-- The releases of a DARKEN, before its title is let go. -/
theorem darkenReady_keepsStreams (a : Aud) (s : State) : KeepsStreams s (darkenReady a s) := by
  have hsame : (unresolveAud a s).stream = s.stream := by
    obtain ⟨r, c, h⟩ := unresolveAud_eq a s
    rw [h]
  have hkept : TracksKept s (unresolveAud a s) :=
    .of_titles (unresolveAud_titles a s) fun _ => by rw [(unresolveAud_sameShows a s).shows]
  refine (handEdges_keepsStreams hkept hsame).trans' ?_
  unfold darkenReady
  exact .of_blocks rfl rfl rfl rfl

theorem darkenTaken_streamLaws (hs : ShowLaw s) (he : EntryLaw s) (hserve : ServeLaw s) (ha : s.shows[a].state ≠ .dark) :
    StreamLawsAfter s (darkenTaken a s) := by
  have hready := darkenReady_keepsStreams a s
  have hlaws := hready.lawsAfter (tracksInOrder_of_laws hs he) hserve
  obtain ⟨t, ht⟩ := Option.ne_none_iff_exists'.mp (mt (hs.2.1 a).mpr ha)
  rw [← (darkenReady_cueFrame a s).held a] at ht
  have hzero : ∀ v : TrackNo, (darkenReady a s).rcv.counts[a][v] = 0 := fun v => by
    rw [darkenReady_rcv, unresolveAud_count, if_pos rfl]
  obtain ⟨-, -, -, -, hrcv⟩ := unbindTitle_held ht
  have hstream : (unbindTitle a (darkenReady a s)).stream = (darkenReady a s).stream := by rw [unbindTitle_eq ht]
  obtain ⟨hserve', hring⟩ := (unbindTitle_showChange ht).streamLaws hstream (by rw [hrcv]) hzero hlaws.1
  obtain ⟨b, hb⟩ := suspendTest_eq (unbindTitle a (darkenReady a s))
  rw [darkenTaken_eq, hb]
  exact ⟨hserve', hring ∘ hlaws.2⟩

theorem darken_streamLaws (r : Req) (hs : ShowLaw s) (he : EntryLaw s) (hserve : ServeLaw s) :
    StreamLawsAfter s (darken r s).1 := by
  unfold darken
  split
  · exact ⟨hserve, id⟩
  · split
    · exact ⟨hserve, id⟩
    · next ha => exact darkenTaken_streamLaws hs he hserve ha

end

/-! ### The step -/

section
variable {s : State}

theorem StreamLawsAfter.of_tracksKept {t : State} (h : TracksKept s t) (hstill : StillFrame s t) (ho : TracksInOrder s)
    (hs : ServeLaw s) : StreamLawsAfter s t :=
  (hstill.streams.keepsStreams h).lawsAfter ho hs

/-- A request makes of the laws of the streams what its effect does. -/
theorem request_streamLaws {act : State → State × Reply} (hs : ServeLaw s) (hact : StreamLawsAfter s (act s).1) (r : Req)
    (k : Byte) : StreamLawsAfter s (request r k act s) := by
  obtain h | ⟨p, x, h⟩ | ⟨p, x, h⟩ := request_cases r k act s
  · rw [h]; exact ⟨hs, id⟩
  · rw [h]; exact ⟨hs, id⟩
  · rw [h]; exact hact

theorem exec_streamLaws (i : Instr) (hs : ShowLaw s) (hcue : CueStoreLaw s) (hlay : LayoutLaw s) (he : EntryLaw s)
    (hcount : CountLaw s) (hres : ResolveLaw s) (hserve : ServeLaw s) :
    ∃ t, exec i s = .next t ∧ StreamLawsAfter s t := by
  have ho := tracksInOrder_of_laws hs he
  by_cases hi : keepsTitles i = true
  · obtain ⟨t, hexec, hkeeps⟩ := exec_keepsStreams hi s
    exact ⟨t, hexec, hkeeps.lawsAfter ho hserve⟩
  have hlink : ∀ t l, StreamLawsAfter s t → StreamLawsAfter s { t with link := l } := fun _ _ h => h
  have hstore : ∀ t b, StreamLawsAfter s t → StreamLawsAfter s { t with store := b } := fun _ _ h => h
  have hreset : ∀ t, StreamLawsAfter s (resetAll t) := fun t => ⟨serveLaw_of_reset rfl rfl, fun _ => ringLaw_of_reset rfl⟩
  have hsame : StreamLawsAfter s s := ⟨hserve, id⟩
  have hload : ∀ {t}, LoadChange s t → StillFrame s t → StreamLawsAfter s t := fun h hstill =>
    .of_tracksKept (h.tracksKept hs hcue hlay) hstill ho hserve
  cases i with
  | powerOn => exact ⟨_, rfl, serveLaw_of_reset rfl rfl, fun _ => ringLaw_of_reset rfl⟩
  | reset r => exact ⟨_, rfl, resetRequest_keeps hlink hreset r hsame⟩
  | resetTakesEffect => exact ⟨_, rfl, resetTakesEffect_keeps hlink hreset hsame⟩
  | programCompletion => exact ⟨_, rfl, programCompletion_keeps hlink hstore hreset hsame⟩
  | eraseCompletion => exact ⟨_, rfl, eraseCompletion_keeps hlink hstore hreset hsame⟩
  | loadIdleTimeout t => exact ⟨_, rfl, hload (loadIdleTimeout_loadChange t s) (loadIdleTimeout_stillFrame t s)⟩
  | finishingCompletion t => exact ⟨_, rfl, hload (finishingCompletion_loadChange t s) (finishingCompletion_stillFrame t s)⟩
  | clipListOverflow t => exact ⟨_, rfl, hload (clipListOverflow_loadChange t s) (clipListOverflow_stillFrame t s)⟩
  | loadOpen r =>
    exact ⟨_, rfl, request_streamLaws hserve
      (.of_tracksKept (loadOpen_tracksKept r hs hcue hlay) (loadOpen_stillFrame r s) ho hserve) _ _⟩
  | loadData r => exact ⟨_, rfl, request_streamLaws hserve (hload (loadData_loadChange r s) (loadData_stillFrame r s)) _ _⟩
  | loadFinish r =>
    exact ⟨_, rfl, request_streamLaws hserve (hload (loadFinish_loadChange r s) (loadFinish_stillFrame r s)) _ _⟩
  | loadAbort r => exact ⟨_, rfl, request_streamLaws hserve (hload (loadAbort_loadChange r s) (loadAbort_stillFrame r s)) _ _⟩
  | unload r =>
    exact ⟨_, rfl, request_streamLaws hserve
      (.of_tracksKept (unload_tracksKept r hs hlay) (unload_stillFrame r s) ho hserve) _ _⟩
  | arm r => exact ⟨_, rfl, request_streamLaws hserve (arm_streamLaws r hs he hcount hres hserve) _ _⟩
  | darken r => exact ⟨_, rfl, request_streamLaws hserve (darken_streamLaws r hs he hserve) _ _⟩
  | _ => exact absurd rfl hi

end

/-- Settles O57: rings, pool and settings stay in their ranges; a fill takes the blocks of a track in the order of their
play times; and the edges of an event give and take streams exactly where counts leave and reach 0. -/
theorem everyStepKeepsRingsAndSettings : Obligations.EveryStepKeepsRingsAndSettings := by
  intro s t hstep
  refine ⟨step_streamLaw hstep, step_settingsLaw hstep, fun hs hcue hlay he hcount hres hserve => ?_⟩
  unfold step at hstep
  split at hstep
  · cases hstep
    exact ⟨hserve, id⟩
  · rename_i i rest _
    obtain ⟨u, hexec, hu⟩ := exec_streamLaws i (s := { s with pending := rest }) hs hcue hlay he hcount hres hserve
    rw [hexec] at hstep
    cases hstep
    exact hu

end Sys2Proof.Machine
end
